-- ==== Sys2Proof/Word.lean ====
section
/-! DEFINITION. The word types of the machine (R3 of 00_scope.md: little-endian bytes; registers of 32 bits, pairs of 64). -/
namespace Sys2Proof

/-- One byte. -/
abbrev Byte := BitVec 8
/-- One v or s register (R123). -/
abbrev Word := BitVec 32
/-- A register pair, an address or a 64-bit device register. -/
abbrev DWord := BitVec 64

end Sys2Proof
end

