-- ==== Sys2Proof/Syntax/Parts.lean ====
section
/-! DEFINITION. The parts of an instruction: operands and fields of a portable word (R59 to R66 of
03_portable_form.md), the clause header and bundle of the native form (R99 to R106 of 05_native_form.md), and the
payloads of the event rows of the opcode table. -/
namespace Sys2Proof

/-- A decoded operand (R61, R62). `v n` and `s n` carry the 17-bit index of R63. `imm n` carries the 17-bit value of
R64: with an extension word its written bits, without one the sign extension of the field's 12 bits. A field the
operation does not use is written as zero, which reads here as `v 0`. -/
inductive Operand where
  | v (n : BitVec 17)
  | s (n : BitVec 17)
  | zero
  | p (n : BitVec 4)
  | q (n : BitVec 4)
  | bar (n : BitVec 6)
  | ring (n : BitVec 4)
  | vt (n : BitVec 7)
  | tk (n : BitVec 5)
  | imm (n : BitVec 17)
  deriving DecidableEq, Repr

/-- The fields of a portable instruction other than its major opcode (R59, R65). -/
structure Enc where
  ty : BitVec 4
  var : BitVec 3
  /-- guard predicate, 15 for none (R60) -/
  g : BitVec 4
  gn : Bool
  /-- X: an extension word follows -/
  ext : Bool
  d : Operand
  a : Operand
  b : Operand
  c : Operand
  selA : BitVec 4
  selB : BitVec 4
  selC : BitVec 4
  selD : BitVec 4
  hint : BitVec 8
  deriving DecidableEq, Repr

/-- A native clause header (R99). -/
structure ClauseHeader where
  wait : BitVec 12
  setA : BitVec 4
  setB : BitVec 4
  stop : Bool
  commit : Bool
  idem : Bool
  nb : BitVec 3
  uni : BitVec 8
  ctlOp : BitVec 8
  ctlG : BitVec 4
  ctlGN : Bool
  ctlV : Bool
  ctlImm : BitVec 48
  sidx : BitVec 32
  deriving DecidableEq, Repr

/-- One move slot (R102). -/
structure Move where
  sidx : BitVec 8
  ssub : BitVec 2
  sport : BitVec 4
  didx : BitVec 8
  dsub : BitVec 2
  dport : BitVec 4
  sel : BitVec 4
  grd : BitVec 4
  gn : Bool
  w : BitVec 2
  rsv : Bool
  deriving DecidableEq, Repr

/-- A slot of a bundle: a move, or a literal slot with its 32-bit value (R103). -/
inductive Slot where
  | move (m : Move)
  | lit (x : BitVec 32)
  deriving DecidableEq, Repr

/-- A native bundle: six slots and LMW (R102, R103). -/
structure Bundle where
  s0 : Slot
  s1 : Slot
  s2 : Slot
  s3 : Slot
  s4 : Slot
  s5 : Slot
  lmw : BitVec 3
  deriving DecidableEq, Repr

end Sys2Proof

namespace Sys2Proof

/-! Payloads of the event rows: what the environment hands to the package. -/

/-- The fields of a context request block that its CODE leaves open (R443). -/
structure Request where
  compl : BitVec 64
  arg0 : BitVec 64
  arg1 : BitVec 64
  arg2 : BitVec 64
  /-- every RSV byte of the block is zero -/
  rsvZero : Bool
  deriving DecidableEq, Repr

/-- The fields of a page-operation block that its OP leaves open (R405). -/
structure PageBlock where
  sz : BitVec 8
  attr : BitVec 16
  home : BitVec 8
  peer : BitVec 8
  va : BitVec 64
  npages : BitVec 32
  frame : BitVec 64
  compl : BitVec 64
  rsvZero : Bool
  deriving DecidableEq, Repr

/-- What a CONTROL packet carries (R414, R415, R416, R385, R387, R418); the manual gives these no layout. -/
inductive Control where
  /-- cumulative delivery acknowledgement: every SEQ below `n` has been delivered -/
  | deliveryAck (n : Nat)
  /-- relay credit granted, in flits -/
  | credits (flits : Nat)
  /-- another port's state -/
  | portStatus (port : Nat) (up : Bool)
  /-- arrival at the gang barrier of a record (R381) -/
  | gangArrive (gangid gen : Nat)
  /-- counts for the pair, and whether the sender holds unanswered requests (R385) -/
  | gangCounts (gangid txc rxc : Nat) (unanswered : Bool)
  /-- an abort naming the members that have not arrived (R387) -/
  | gangAbort (gangid gen : Nat) (missing : List Nat)
  /-- a destination is unreachable (R418) -/
  | unreachable (id : Nat)
  /-- an identity is quarantined (R321) -/
  | quarantine (identity : BitVec 384)
  /-- an `rpart` of a round was issued by the sender, with the block fields and boundaries compared by R434 -/
  | rpartJoin (ctx round : Nat) (fields : List Byte)
  /-- whether the directory holds a translation of a function (R320) -/
  | transAsk (identity : BitVec 384) (off version : Nat)
  /-- it does not -/
  | transNone (identity : BitVec 384) (off version : Nat)
  /-- it does: the profile generation, the digest carried, the digest of what has arrived, whether that holds only codes that the unit table
  gives (R90), and its spill -/
  | transFound (identity : BitVec 384) (off version gen : Nat) (carried computed : BitVec 384) (clean : Bool) (spill : Nat)
  /-- a load request of a gang, under the sender's number, with the file (R311) -/
  | gangLoad (gangid id : Nat) (file : List Byte)
  /-- its status at the sender -/
  | gangLoaded (gangid id status : Nat)
  /-- the load is undone -/
  | gangUnload (gangid id : Nat)
  /-- a page operation submitted to another member, under its number: OP and block (R404) -/
  | pageOp (gangid id op : Nat) (b : PageBlock)
  /-- it has been applied at the sender: its REASON, 0 for none -/
  | pageOpDone (gangid id why : Nat)
  /-- a page's home has filled it or taken it over (R403, R408): its frame and home -/
  | pageLeaf (gangid va frame home : Nat)
  /-- a request that the page's former home has not served, by context and number (R408) -/
  | requestMoved (ctx k : Nat)
  deriving DecidableEq, Repr

/-- A fabric packet as delivered (R413); `tagOk` says that its GCM tag verifies under the receive key named (R426),
`wellFormed` that TYPE, LEN and RSV are as R414 requires. -/
structure Packet where
  conf : Bool
  keyix : Bool
  relayed : Bool
  len : Nat
  src : Nat
  dst : Nat
  seq : Nat
  ctx : Nat
  scope : Nat
  ord : Nat
  aop : Nat
  ty : Nat
  rid : Nat
  addr : Nat
  mask : BitVec 64
  payload : List Byte
  wellFormed : Bool
  tagOk : Bool
  deriving DecidableEq, Repr

/-- What the self-tests and the flash give a boot (R445, R10, R13): the passing physical cores of each die, the dies
without memory, the verdict on each flash slot and where firmware places the reserved regions (R458). -/
structure BootInfo where
  /-- passing physical cores of dies 0 to 7 -/
  pass : List (BitVec 144)
  slot0Ok : Bool
  slot1Ok : Bool
  /-- bases and sizes of reserved regions 0 to 4 -/
  regions : List (Nat × Nat)
  deriving DecidableEq, Repr

/-- Where a soft error strikes (R216): an ECC unit of 32 bytes of DRAM, L2 or die scratchpad, or of 8 bytes of a core
pool or vat; a relay-store packet; the cellar. A die scratchpad unit is one of a context's allocation: `die` is context × 64 + die. A lane
slice's unit is one of a thread's private bytes; a register unit is a pair of v registers of a thread, or of s registers of the team for
thread 32; a dirty line's unit is 8 bytes of a core's L1 that stand nowhere else. -/
inductive ErrLoc where
  | dram (unit : Nat)
  | dieq (die unit : Nat)
  | scratch (wg unit : Nat)
  | vat (wg unit : Nat)
  | lane (wg tix thread unit : Nat)
  | reg (wg tix thread unit : Nat)
  | dirtyLine (core unit : Nat)
  | cleanLine (core addr : Nat)
  | relay (k : Nat)
  | cellar (entry : Nat)
  deriving DecidableEq, Repr

end Sys2Proof
end

