-- ==== Sys2Proof/Machine/Legal.lean ====
section
/-! DEFINITION. Which portable encodings are instructions: R73 of 03_portable_form.md applied to the operand
tables of R126, R136, R145 to R152, R166, R182, R187, R202 to R204, R208, R264, R272, R285, R302, R359, R388, R389
and R431. The fields of a word are read here as well (R59 to R66). -/
namespace Sys2Proof.Legal

/-- Bits `hi : lo` of a natural number. -/
def bits (hi lo x : Nat) : Nat := x / 2 ^ lo % 2 ^ (hi + 1 - lo)

/-- The classes an operand can have (R61, R62). -/
inductive Cls where
  | v | s | zero | p | q | bar | ring | vt | tk | imm
  deriving DecidableEq, Repr

/-- The class of a decoded operand. -/
def clsOf : Operand → Cls
  | .v _ => .v | .s _ => .s | .zero => .zero | .p _ => .p | .q _ => .q | .bar _ => .bar
  | .ring _ => .ring | .vt _ => .vt | .tk _ => .tk | .imm _ => .imm

def reg : List Cls := [.v, .s]
def regZ : List Cls := [.v, .s, .zero]
def dst : List Cls := [.v, .s, .q, .zero]
def src : List Cls := [.v, .s, .q, .imm]
def regImm : List Cls := [.v, .s, .imm]
def sImm : List Cls := [.s, .imm]
def regQ : List Cls := [.v, .s, .q]
def immO : List Cls := [.imm]
def pred : List Cls := [.p]
def tok : List Cls := [.tk]

/-- What an operation accepts: TY codes (16 + TY for TYX = 1), VAR codes, and the classes of each operand field; an
empty list marks a field the operation does not use. -/
structure Shape where
  tys : List Nat
  vars : List Nat
  d : List Cls
  a : List Cls
  b : List Cls
  c : List Cls
  deriving DecidableEq, Repr

def tyAll : List Nat := [0, 1, 2, 3, 4, 5, 6, 7, 8, 9, 10, 11, 12, 13, 14, 15]
def tyInt : List Nat := [2, 3, 4, 5, 6, 7, 8, 9]
def tySgn : List Nat := [2, 3, 4, 5]
def tyWide : List Nat := [4, 5, 8, 9]
def tyBit : List Nat := [0, 1]
def tyFlt : List Nat := [10, 11, 12, 13]
def tyFltP : List Nat := [10, 11, 12, 13, 14, 15]
def tySz : List Nat := [0, 1, 2, 3, 4, 5, 6, 7, 8, 9, 10, 11, 12, 13]
def tyXch : List Nat := [0, 1, 2, 3, 4, 5, 6, 7, 8, 9, 10, 11, 12, 13]
def v0 : List Nat := [0]
def v01 : List Nat := [0, 1]
def v02 : List Nat := [0, 2]
def v03 : List Nat := [0, 1, 2, 3]
def v07 : List Nat := [0, 1, 2, 3, 4, 5, 6, 7]

/-- R126: integer and address instructions; R94: `mad24`. -/
def intShapes : List (Nat × Shape) := [
  (0x000, ⟨tyAll, v0, dst, src, [], []⟩),
  (0x001, ⟨tyBit, v0, dst, [], [], []⟩),
  (0x002, ⟨tyInt, v01, dst, src, src, []⟩),
  (0x003, ⟨tyInt, v01, dst, src, src, []⟩),
  (0x004, ⟨[8, 9], v0, dst, src, src, pred⟩),
  (0x005, ⟨[8, 9], v0, dst, src, src, pred⟩),
  (0x006, ⟨tyInt, v01, dst, src, src, []⟩),
  (0x007, ⟨tyWide, v0, dst, src, src, []⟩),
  (0x008, ⟨tyInt, v0, dst, src, src, src⟩),
  (0x009, ⟨tyWide, v0, dst, src, src, src⟩),
  (0x00A, ⟨tyWide, v0, dst, src, src, []⟩),
  (0x00B, ⟨tyWide, v0, dst, src, src, []⟩),
  (0x00C, ⟨tySgn, v01, dst, src, [], []⟩),
  (0x00D, ⟨tySgn, v01, dst, src, [], []⟩),
  (0x00E, ⟨tyInt, v0, dst, src, src, []⟩),
  (0x00F, ⟨tyInt, v0, dst, src, src, []⟩),
  (0x010, ⟨tyInt, v0, dst, src, src, src⟩),
  (0x011, ⟨[2, 3, 4, 6, 7, 8], v0, dst, src, src, src⟩),
  (0x012, ⟨tyBit, v0, dst, src, src, []⟩),
  (0x013, ⟨tyBit, v0, dst, src, src, []⟩),
  (0x014, ⟨tyBit, v0, dst, src, src, []⟩),
  (0x015, ⟨tyBit, v0, dst, src, [], []⟩),
  (0x016, ⟨tyBit, v0, dst, src, src, []⟩),
  (0x017, ⟨tyBit, v0, dst, src, src, []⟩),
  (0x018, ⟨tyBit, v0, dst, src, src, []⟩),
  (0x019, ⟨tyBit, v0, dst, src, src, []⟩),
  (0x01A, ⟨tyBit, v0, dst, src, src, []⟩),
  (0x01B, ⟨tyBit, v0, dst, src, src, []⟩),
  (0x01C, ⟨tyBit, v0, dst, src, [], []⟩),
  (0x01D, ⟨tyBit, v0, dst, src, [], []⟩),
  (0x01E, ⟨tyBit, v0, dst, src, [], []⟩),
  (0x01F, ⟨tyBit, v0, dst, src, [], []⟩),
  (0x020, ⟨tyWide, v0, dst, src, src, src⟩),
  (0x021, ⟨tyBit, v0, dst, src, src, src⟩),
  (0x022, ⟨tyAll, v0, dst, src, src, pred⟩),
  (0x023, ⟨tyInt, [0, 1, 2, 3, 4, 5], pred, src, src, []⟩),
  (0x024, ⟨[1], v01, dst, src, src, immO⟩),
  (0x03E, ⟨[4, 8], v0, reg, regImm, regImm, regImm⟩)]

/-- R136: floating-point instructions; R95: `frcpa`; R147 to R152: the packed and convert family. -/
def floatShapes : List (Nat × Shape) := [
  (0x040, ⟨tyFltP, v03, dst, src, src, []⟩),
  (0x041, ⟨tyFltP, v03, dst, src, src, []⟩),
  (0x042, ⟨tyFltP, v03, dst, src, src, []⟩),
  (0x043, ⟨tyFltP, v03, dst, src, src, src⟩),
  (0x044, ⟨tyFltP, v01, dst, src, src, []⟩),
  (0x045, ⟨tyFltP, v01, dst, src, src, []⟩),
  (0x046, ⟨tyFltP, v0, dst, src, [], []⟩),
  (0x047, ⟨tyFltP, v0, dst, src, [], []⟩),
  (0x048, ⟨tyFltP, v0, dst, src, src, []⟩),
  (0x049, ⟨tyFlt, v07, pred, src, src, []⟩),
  (0x04A, ⟨tyFlt, v0, dst, src, [], []⟩),
  (0x04B, ⟨tyFltP, v03, dst, src, [], []⟩),
  (0x04C, ⟨tyFlt, v03, dst, src, [], []⟩),
  (0x04D, ⟨tyFlt, v03, dst, src, [], []⟩),
  (0x04E, ⟨tyFlt, v03, dst, src, [], []⟩),
  (0x04F, ⟨tyFlt, v03, dst, src, src, []⟩),
  (0x050, ⟨[10, 11, 12], v0, dst, src, [], []⟩),
  (0x051, ⟨[10, 11, 12], v0, dst, src, [], []⟩),
  (0x052, ⟨[10, 11, 12], v0, dst, src, [], []⟩),
  (0x053, ⟨[10, 11, 12], v0, dst, src, [], []⟩),
  (0x054, ⟨[10, 11, 12], v0, dst, src, [], []⟩),
  (0x055, ⟨tyFltP, v03, dst, src, src, []⟩),
  (0x056, ⟨tyFlt, v0, dst, src, [], []⟩),
  (0x07D, ⟨[12], v0, reg, regImm, [], []⟩),
  (0x080, ⟨[0, 1], v03, dst, src, immO, []⟩),
  (0x081, ⟨[0], v03, dst, src, src, immO⟩),
  (0x082, ⟨[0], v0, dst, src, src, src⟩),
  (0x083, ⟨[14, 15, 16, 20, 21], [0, 1, 4, 5], dst, src, src, src⟩),
  (0x084, ⟨[17, 18, 19], [4, 5], dst, src, src, src⟩),
  (0x085, ⟨[0], [0, 1, 2], dst, src, src, src⟩),
  (0x086, ⟨[18], [4, 5], dst, regImm, [], []⟩)]

/-- R166: control and divergence; R182: exchange. -/
def controlShapes : List (Nat × Shape) := [
  (0x0A0, ⟨v0, v0, [], immO, [], []⟩),
  (0x0A1, ⟨[1], v0, [], reg, [], []⟩),
  (0x0A2, ⟨v0, v0, [], immO, [], []⟩),
  (0x0A3, ⟨[1], v0, [], reg, [], []⟩),
  (0x0A4, ⟨v0, v0, [], [], [], []⟩),
  (0x0A5, ⟨v0, v0, [], [], [], []⟩),
  (0x0A6, ⟨v0, v0, [], sImm, immO, []⟩),
  (0x0A7, ⟨v0, v0, [], [], [], []⟩),
  (0x0A8, ⟨v0, v0, [], [], [], []⟩),
  (0x0A9, ⟨v0, v0, [], [], [], []⟩),
  (0x0AA, ⟨v0, v0, [], [], [], []⟩),
  (0x0AB, ⟨v0, v01, [], pred, [], []⟩),
  (0x0AC, ⟨v0, v0, [], [], [], []⟩),
  (0x0AD, ⟨v0, v0, [], [], [], []⟩),
  (0x0AE, ⟨v0, v0, [], immO, [], []⟩),
  (0x0AF, ⟨v0, v01, reg, [], [], []⟩),
  (0x0B0, ⟨v0, v0, [], [], [], []⟩),
  (0x0B1, ⟨v0, v0, [], immO, [], []⟩),
  (0x0B2, ⟨v0, v0, [], immO, [], []⟩),
  (0x0C0, ⟨tyBit, v0, dst, src, src, []⟩),
  (0x0C1, ⟨tyBit, v0, dst, src, src, []⟩),
  (0x0C2, ⟨tyBit, v0, dst, src, sImm, []⟩),
  (0x0C3, ⟨tyXch, v07, dst, src, sImm, []⟩),
  (0x0C4, ⟨tyXch, v03, dst, src, [], []⟩),
  (0x0C5, ⟨v0, v0, dst, pred, [], []⟩),
  (0x0C6, ⟨v0, [0, 1, 2], pred, pred, [], []⟩),
  (0x0C7, ⟨tyBit, v0, dst, src, [], []⟩),
  (0x0C8, ⟨v0, v07, dst, [], [], []⟩),
  (0x0C9, ⟨v0, [0, 1, 2], dst, [], [], []⟩)]

/-- R202, R204: access instructions (address classes are widened outside `.glb` in `roleA`). -/
def accessShapes : List (Nat × Shape) := [
  (0x0D0, ⟨tySz, [0, 1, 4], regZ, reg, src, immO⟩),
  (0x0D1, ⟨tySz, [0, 2, 4], regQ, reg, src, immO⟩),
  (0x0D2, ⟨tySz, v01, regZ, reg, src, immO⟩),
  (0x0D3, ⟨tySz, v02, regQ, reg, src, immO⟩),
  (0x0D4, ⟨tySz, v02, regQ, reg, sImm, immO⟩),
  (0x0D5, ⟨tySz, v01, regZ, reg, sImm, immO⟩),
  (0x0D6, ⟨[0, 1, 4, 5, 8, 9, 12, 13, 14, 15], [0, 1, 2, 3, 4], reg, reg, src, immO⟩),
  (0x0D7, ⟨[0, 1, 4, 5, 8, 9, 12, 13, 14, 15], v02, [], reg, src, immO⟩),
  (0x0D8, ⟨v0, [1, 2, 3, 4], [], [], [], immO⟩),
  (0x0D9, ⟨v0, v01, [], reg, src, immO⟩),
  (0x0DA, ⟨v0, v0, [], reg, src, immO⟩),
  (0x0DB, ⟨v0, v0, [], reg, src, immO⟩),
  (0x0DC, ⟨v0, v0, [], [.q], [], []⟩),
  (0x0DD, ⟨v0, v0, [], [.q], [], []⟩)]

/-- R285: copy; R264, R272: press; R302: barrier; R187, R359, R388, R431: channel and system instructions. -/
def engineShapes : List (Nat × Shape) := [
  (0x100, ⟨v0, v07, tok, reg, reg, sImm⟩),
  (0x101, ⟨[1], v0, tok, reg, [], []⟩),
  (0x102, ⟨[1], v0, tok, reg, [], []⟩),
  (0x103, ⟨[1], v0, tok, reg, [], []⟩),
  (0x104, ⟨[1], v0, tok, reg, [], []⟩),
  (0x105, ⟨[1], v0, tok, reg, [], []⟩),
  (0x106, ⟨v0, v0, [], tok, [], []⟩),
  (0x107, ⟨v0, v03, reg, tok, [], []⟩),
  (0x120, ⟨v0, v0, [], sImm, [], []⟩),
  (0x121, ⟨v0, [0, 1, 2], [], immO, [.s], []⟩),
  (0x122, ⟨v0, v0, tok, [.ring], [.ring], [.vt]⟩),
  (0x123, ⟨v0, v0, [], tok, [], []⟩),
  (0x124, ⟨v0, v01, reg, tok, [], []⟩),
  (0x125, ⟨v0, [0, 4], [.vt], sImm, [], []⟩),
  (0x126, ⟨[0, 1, 4, 10, 11, 12, 13], v07, [.vt], reg, sImm, immO⟩),
  (0x127, ⟨[0, 1, 4, 10, 11, 12, 13], v07, [.vt], reg, sImm, immO⟩),
  (0x128, ⟨[4, 10, 11, 12, 13], v07, [.vt], reg, sImm, immO⟩),
  (0x129, ⟨v0, v0, [.ring], sImm, sImm, []⟩),
  (0x12A, ⟨v0, v03, reg, [.ring], [], []⟩),
  (0x140, ⟨[0, 1], [0, 3, 4, 5, 6], [], [.bar], sImm, []⟩),
  (0x141, ⟨[0, 1], v0, regZ, [.bar], sImm, []⟩),
  (0x142, ⟨[0, 1], v0, [], [.bar], regImm, []⟩),
  (0x143, ⟨[0, 1], v0, regZ, [.bar], sImm, []⟩),
  (0x144, ⟨[0, 1], [1, 2, 3], tok, [.bar], regImm, []⟩),
  (0x145, ⟨[0, 1], v0, [], [.bar], [], []⟩),
  (0x146, ⟨[0, 1], [0, 1, 2], reg, [.bar], regImm, []⟩),
  (0x150, ⟨[0, 1], v0, reg, immO, [.s, .imm, .tk], []⟩),
  (0x151, ⟨[0, 1], v0, [.v, .s, .imm, .zero], immO, [.s, .imm, .tk], []⟩),
  (0x152, ⟨[1], v01, reg, [], [], []⟩),
  (0x153, ⟨v0, v01, [], regImm, immO, immO⟩),
  (0x154, ⟨v0, v01, reg, immO, [], []⟩),
  (0x155, ⟨[1], v0, tok, reg, [], []⟩),
  (0x156, ⟨v0, v0, regZ, sImm, [], []⟩),
  (0x157, ⟨[1], v03, reg, [], [], []⟩),
  (0x158, ⟨v0, v01, [], [], [], []⟩),
  (0x159, ⟨[0, 1], v0, [], sImm, [], []⟩)]

/-- Looks a key up in a table of pairs. -/
def look {α : Type} (k : Nat) : List (Nat × α) → Option α
  | [] => none
  | (n, x) :: r => if n = k then some x else look k r

/-- The shape of a major opcode; none for an unassigned, trapped or removed code (R84, R92). -/
def shapeOf (op : Nat) : Option Shape :=
  if op < 0x40 then look op intShapes
  else if op < 0xA0 then look op floatShapes
  else if op < 0xD0 then look op controlShapes
  else if op < 0x100 then look op accessShapes
  else look op engineShapes

/-- TYX (R67): VAR bit 2 in the packed and convert family. -/
def tyx (op : Nat) (e : Enc) : Bool := 0x80 ≤ op && op < 0xA0 && e.var.toNat ≥ 4

/-- The type code, 16 added where TYX = 1. -/
def tyCode (op : Nat) (e : Enc) : Nat := e.ty.toNat + if tyx op e then 16 else 0

/-- The element width of a type code (R67). -/
def tyWidth (t : Nat) : Nat :=
  if t = 1 ∨ t = 5 ∨ t = 9 ∨ t = 13 then 64
  else if t = 0 ∨ t = 4 ∨ t = 8 ∨ t = 12 then 32
  else if t = 2 ∨ t = 6 ∨ t = 17 ∨ t = 18 ∨ t = 19 then 8
  else 16

/-- The low 12 bits of an immediate, read raw (R146, R203, R388). -/
def raw12 : Operand → Nat
  | .imm n => n.toNat % 4096
  | _ => 0

/-- A raw immediate has zero high-index bits when an extension word gives them (R146, R203). -/
def rawOk (e : Enc) : Operand → Bool
  | .imm n => !e.ext || n.toNat < 4096
  | _ => true

/-- An immediate lies in a range; other classes pass. -/
def immIn (lo hi : Int) : Operand → Bool
  | .imm n => lo ≤ n.toInt && n.toInt ≤ hi
  | _ => true

/-! Conversion formats (R145). -/

/-- Element count of a format code. -/
def fmtElems (f : Nat) : Nat :=
  if f = 24 ∨ f = 25 ∨ f = 26 then 2
  else if f = 27 ∨ f = 28 ∨ f = 29 ∨ f = 30 ∨ f = 31 ∨ f = 34 then 4
  else if f = 32 ∨ f = 33 then 8
  else 1

/-- Element width of a format code; 6-bit formats answer 6. -/
def fmtWidth (f : Nat) : Nat :=
  if f = 0 ∨ f = 13 ∨ f = 17 then 64
  else if f = 1 ∨ f = 12 ∨ f = 16 then 32
  else if f = 2 ∨ f = 3 ∨ f = 11 ∨ f = 15 ∨ f = 24 ∨ f = 25 ∨ f = 26 then 16
  else if f = 6 ∨ f = 7 ∨ f = 30 ∨ f = 31 ∨ f = 42 ∨ f = 43 then 6
  else if f = 8 ∨ f = 18 ∨ f = 32 ∨ f = 33 ∨ f = 44 then 4
  else 8

def fmtReserved (f : Nat) : Bool :=
  (20 ≤ f && f ≤ 23) || (35 ≤ f && f ≤ 39) || f = 46 || f = 47 || 54 ≤ f

def fmtScl (f : Nat) : Bool := 40 ≤ f && f ≤ 45
def fmtBsc (f : Nat) : Bool := 48 ≤ f && f ≤ 53
def fmt64 (f : Nat) : Bool := fmtWidth f = 64

/-- Destination and source code of a format-pair specifier (R146). -/
def fmtDst (o : Operand) : Nat := raw12 o % 64
def fmtSrc (o : Operand) : Nat := raw12 o / 64

/-- The pairings `cvt` allows (R147, R148). -/
def cvtPair (d s : Nat) : Bool :=
  !fmtReserved d && !fmtReserved s && !fmtScl s && !fmtBsc s && d ≠ 9 &&
  (if fmtScl d || fmtBsc d then s ≤ 3
   else (s ≠ 9 || d ≤ 3) && fmtElems d ≤ fmtElems s)

/-- The pairings `pack` allows (R149). -/
def packPair (d s : Nat) : Bool :=
  24 ≤ d && d ≤ 34 && s ≤ 34 && !fmtReserved s && s ≠ 9 && fmtElems d ≤ 2 * fmtElems s

/-! Roles that depend on other fields. -/

/-- The SPACE code of an access specifier (R203). -/
def space (e : Enc) : Nat := raw12 e.c % 8
def scopeOf (e : Enc) : Nat := raw12 e.c / 8 % 8
def aopOf (e : Enc) : Nat := raw12 e.c / 64 % 16

def roleD (op : Nat) (e : Enc) (base : List Cls) : List Cls :=
  if op = 0x000 ∧ e.ty = 0 then .p :: base
  else if (op = 0x0AF ∧ e.var = 1) ∨ (op = 0x146 ∧ e.var = 0) then pred
  else base

def roleA (op : Nat) (e : Enc) (base : List Cls) : List Cls :=
  if op = 0x000 ∧ e.ty = 0 then .p :: base
  else if ((0x0D0 ≤ op ∧ op ≤ 0x0D7) ∨ (0x126 ≤ op ∧ op ≤ 0x128)) ∧ space e ≠ 4 then regZ
  else if 0x140 ≤ op ∧ op ≤ 0x146 ∧ e.ty = 1 then reg
  else if op = 0x159 ∧ e.ty = 1 then reg
  else base

def roleB (op : Nat) (e : Enc) (base : List Cls) : List Cls :=
  if (op = 0x121 ∧ e.var = 2) ∨ (op = 0x144 ∧ e.var = 2) ∨ (op = 0x146 ∧ e.var ≠ 0) then [] else base

def roleC (op : Nat) (e : Enc) (base : List Cls) : List Cls :=
  if op = 0x080 ∧ fmtScl (fmtDst e.b) then regImm else base

/-- A field holds an accepted class, or is zero where the operation does not use it (R73 items 6 to 8). -/
def fieldOk (role : List Cls) (o : Operand) : Bool :=
  if role = [] then o = .v 0 else role.contains (clsOf o)

/-- The types that are 64 bits wide and name register pairs (R123). -/
def ty64 (t : Nat) : Bool := t = 1 || t = 5 || t = 9 || t = 13

/-- Which of D, A, B, C name register pairs (R123, R131 to R133, R141, R142, R147, R166, R184, R204, R285, R302,
R388, R431). -/
def pairs (op : Nat) (e : Enc) : Bool × Bool × Bool × Bool :=
  let w := ty64 (tyCode op e)
  if op < 0x80 then
    if 0x017 ≤ op ∧ op ≤ 0x01B then (w, w, false, false)
    else if 0x01C ≤ op ∧ op ≤ 0x01E then (false, w, false, false)
    else if op = 0x020 ∨ op = 0x024 ∨ op = 0x055 then (w, w, false, false)
    else if op = 0x021 then (w, w, w, false)
    else if op = 0x04A ∨ op = 0x056 then (false, w, false, false)
    else (w, w, w, w)
  else if op = 0x080 then (w, fmt64 (fmtSrc e.b), false, false)
  else if op = 0x081 then (false, fmt64 (fmtSrc e.c), fmt64 (fmtSrc e.c), false)
  else if op < 0xA0 then (false, false, false, false)
  else if op < 0xC0 then (false, op = 0x0A1 ∨ op = 0x0A3, false, false)
  else if op < 0xD0 then
    if op = 0x0C2 then (w, w, false, false)
    else if op = 0x0C7 then (false, w, false, false)
    else (w, w, w, false)
  else if op < 0x100 then
    (w, space e = 4, w && (op = 0x0D6 || op = 0x0D7), false)
  else if op = 0x100 then (false, true, true, false)
  else if op < 0x108 then (false, op < 0x106, false, false)
  else if op < 0x140 then (false, (0x126 ≤ op ∧ op ≤ 0x128) ∧ space e = 4, false, false)
  else if op < 0x150 then (false, w, false, false)
  else if op = 0x150 ∨ op = 0x151 ∨ op = 0x152 ∨ op = 0x157 then (w, false, false, false)
  else if op = 0x155 ∨ op = 0x159 then (false, w, false, false)
  else (false, false, false, false)

/-- A register operand that names a pair has an even index (R123). -/
def evenOk (isPair : Bool) : Operand → Bool
  | .v n => !isPair || n.toNat % 2 = 0
  | .s n => !isPair || n.toNat % 2 = 0
  | _ => true

/-- The instructions that take selects (R69). -/
def takesSel (op : Nat) : Bool := op < 0xA0 || (0x0C0 ≤ op && op ≤ 0x0C9)

/-- The widths against which the selects of D, A, B, C are read (R69, R130 to R133, R141, R142, R145, R148 to R152). -/
def selWidths (op : Nat) (e : Enc) : Nat × Nat × Nat × Nat :=
  let w := tyWidth (tyCode op e)
  if op = 0x011 then (32, w, w, 32)
  else if op = 0x04A ∨ op = 0x056 then (32, w, 32, 32)
  else if op = 0x055 then (w, w, 32, 32)
  else if op = 0x080 then (fmtWidth (fmtDst e.b), fmtWidth (fmtSrc e.b), 32, 8)
  else if op = 0x081 then (fmtWidth (fmtDst e.c), fmtWidth (fmtSrc e.c), fmtWidth (fmtSrc e.c), 32)
  else if op = 0x082 then (32, 32, 32, 32)
  else if op = 0x085 then (32, 4, 4, 32)
  else if op = 0x083 ∨ op = 0x084 then (32, w, w, 32)
  else if op = 0x086 then (8, 16, 32, 32)
  else (w, w, w, w)

/-- A select code is legal at a width (R69 to R72); a code other than 0 needs a v or s register in a field that the operation uses
and reads with a select. -/
def selOk (takes : Bool) (w : Nat) (o : Operand) (k : BitVec 4) : Bool :=
  k = 0 || (takes && (clsOf o = .v || clsOf o = .s) &&
    (if w = 16 then k.toNat ≤ 3 else w = 8 || w = 4))

/-- The width and largest index of a `srd`/`swr` register number, and whether a token indexes it (R389, R430). -/
def sysReg (n : Nat) : Option (Nat × Nat × Bool) :=
  if n = 0x002 ∨ n = 0x003 then some (64, 15, false)
  else if n ≤ 0x004 then some (64, 0, false)
  else if n = 0x010 then some (32, 0, false)
  else if 0x011 ≤ n ∧ n ≤ 0x015 then some (64, 0, false)
  else if 0x020 ≤ n ∧ n ≤ 0x022 then some (32, 0, false)
  else if n = 0x023 then some (64, 0, false)
  else if n = 0x030 ∨ n = 0x031 then some (32, 0, false)
  else if 0x032 ≤ n ∧ n ≤ 0x034 then some (64, 31, true)
  else if n = 0x040 ∨ n = 0x050 then some (64, 0, false)
  else if n = 0x051 then some (64, 4095, false)
  else if n = 0x060 ∨ n = 0x061 then some (64, 0, false)
  else if 0x070 ≤ n ∧ n ≤ 0x073 then some (32, 0, false)
  else if n = 0x080 then some (64, 0, false)
  else if n = 0x081 ∨ n = 0x082 then some (64, 255, false)
  else if n = 0x0C0 then some (64, 15, false)
  else if n = 0x0C1 ∨ n = 0x0C3 then some (64, 255, false)
  else if n = 0x0C2 ∨ (0x0C4 ≤ n ∧ n ≤ 0x0C6) then some (64, 0, false)
  else none

/-- R389: the register number is listed, TY matches its width, and the index is one the register accepts. An
immediate index is 0 to 2047 (R388). -/
def sysRegOk (e : Enc) : Bool :=
  match sysReg (raw12 e.a) with
  | none => false
  | some (w, top, byTok) =>
    rawOk e e.a && (e.ty = (if w = 64 then 1 else 0)) &&
    (match e.b with
     | .imm n => 0 ≤ n.toInt && n.toInt ≤ min 2047 top
     | .tk _ => byTok
     | _ => true)

/-- R208: the types each atomic operation accepts. -/
def aopTy (aop : Nat) (ty : Nat) : Bool :=
  if aop ≤ 2 then tyWide.contains ty
  else if aop ≤ 7 then tyBit.contains ty
  else if aop ≤ 9 then ty = 8 || ty = 9
  else if aop = 10 then [12, 13, 14, 15].contains ty
  else if aop ≤ 12 then ty = 12 || ty = 13
  else false

/-- R203: the access specifier of an operation is well formed. -/
def specOk (op : Nat) (e : Enc) : Bool :=
  let sp := space e
  let atomic := op = 0x0D6 || op = 0x0D7
  rawOk e e.c && sp ≤ 4 && raw12 e.c < 1024 &&
  (if atomic then aopOf e ≤ 12 && sp ≠ 0 && aopTy (aopOf e) e.ty.toNat && (op = 0x0D6 || (aopOf e ≠ 6 && aopOf e ≠ 7))
   else aopOf e = 0) &&
  (!(op = 0x0D9 || op = 0x0DA || op = 0x0DB) || sp = 4) && (op ≠ 0x0D8 || sp = 0)

/-- R272: the TY and VAR codes of `vld`, `vst` and `vacc`. -/
def vatOk (op : Nat) (e : Enc) : Bool :=
  let t := e.ty.toNat
  let v := e.var.toNat
  (if v ≥ 4 then [1, 12, 13].contains t else [0, 4, 10, 11, 12].contains t) &&
  (op ≠ 0x128 || (t ≠ 0 && t ≠ 1)) &&
  (v % 4 = 0 || (op ≠ 0x126 && t ≠ 0 && t ≠ 1 && t ≠ 4))

/-- The conditions of single operations that the tables state beside their classes. -/
def extraOk (op : Nat) (e : Enc) : Bool :=
  if op = 0x024 then immIn 0 7 e.c
  else if op = 0x080 then
    rawOk e e.b && cvtPair (fmtDst e.b) (fmtSrc e.b) && (e.ty = 1) = fmt64 (fmtDst e.b)
  else if op = 0x081 then rawOk e e.c && packPair (fmtDst e.c) (fmtSrc e.c)
  else if op = 0x083 ∨ op = 0x084 then
    e.var.toNat % 2 = 0 || tyCode op e = 16 || tyCode op e = 17
  else if op = 0x085 then e.var ≠ 3
  else if op = 0x0B1 ∨ op = 0x0B2 then immIn 0 2047 e.a
  else if op = 0x0C2 then immIn 0 31 e.b
  else if op = 0x0C3 ∨ op = 0x0C4 then
    (e.var.toNat % 4 = 3) = (e.ty.toNat ≤ 1)
  else if 0x0D0 ≤ op ∧ op ≤ 0x0DB then specOk op e
  else if op = 0x121 then immIn 0 (if e.var = 2 then 254 else 5) e.a &&
    (match e.b with | .s n => n.toNat ≤ 131064 | _ => true)
  else if op = 0x125 then immIn 1 (if e.var = 4 then 64 else 128) e.a
  else if 0x126 ≤ op ∧ op ≤ 0x128 then vatOk op e && specOk op e
  else if op = 0x140 then
    (if e.ty = 0 then e.var = 0 && immIn 0 65535 e.b else e.var ≠ 0 && immIn 1 65535 e.b)
  else if op = 0x141 ∨ op = 0x143 then immIn 1 65535 e.b
  else if op = 0x150 ∨ op = 0x151 then sysRegOk e
  else if op = 0x153 then immIn 0 511 e.b && immIn 0 15 e.c
  else if op = 0x154 then immIn 0 15 e.a
  else true

/-- A core barrier operand names b0 to b47 (R62). -/
def barOk : Operand → Bool
  | .bar n => n.toNat < 48
  | _ => true

/-- An operand that a word without an extension word can hold: index below 4096, immediate sign-extended from 12
bits (R63, R64). -/
def shortOk : Operand → Bool
  | .v n => n.toNat < 4096
  | .s n => n.toNat < 4096
  | .imm n => n = (n.truncate 12).signExtend 17
  | _ => true

/-- The fields agree with the presence of the extension word (R65). -/
def extOk (e : Enc) : Bool :=
  e.ext || (shortOk e.d && shortOk e.a && shortOk e.b && e.c = .v 0 &&
    e.selA = 0 && e.selB = 0 && e.selC = 0 && e.selD = 0 && e.hint = 0)

/-- R73 items 3 to 9 and 11 for an instruction other than `movi`. -/
def shapeOk (op : Nat) (e : Enc) (sh : Shape) : Bool :=
  let rc := roleC op e sh.c
  let ps := pairs op e
  let ws := selWidths op e
  let t := takesSel op
  sh.tys.contains (tyCode op e) && sh.vars.contains e.var.toNat &&
  fieldOk (roleD op e sh.d) e.d && fieldOk (roleA op e sh.a) e.a && fieldOk (roleB op e sh.b) e.b && fieldOk rc e.c &&
  evenOk ps.1 e.d && evenOk ps.2.1 e.a && evenOk ps.2.2.1 e.b && evenOk ps.2.2.2 e.c &&
  selOk (t && roleD op e sh.d ≠ []) ws.1 e.d e.selD && selOk (t && roleA op e sh.a ≠ []) ws.2.1 e.a e.selA &&
  selOk (t && roleB op e sh.b ≠ []) ws.2.2.1 e.b e.selB && selOk (t && rc ≠ []) ws.2.2.2 e.c e.selC &&
  (e.g ≠ 15 || !e.gn) && (rc = [] || e.ext) && barOk e.a && extraOk op e

/-- A legal portable encoding of a major opcode (R73), `movi` apart. -/
def legal (op : Nat) (e : Enc) : Bool :=
  match shapeOf op with
  | some sh => op ≠ 0x001 && shapeOk op e sh && extOk e
  | none => false

/-- A legal `movi` (R66, R126, R135): the extension word is the literal, and every field but D is empty. -/
def legalMovi (e : Enc) : Bool :=
  e.ty.toNat ≤ 1 && e.var = 0 && dst.contains (clsOf e.d) && evenOk (e.ty = 1) e.d && (e.g ≠ 15 || !e.gn) && e.ext &&
  e.a = .v 0 && e.b = .v 0 && e.c = .v 0 && e.selA = 0 && e.selB = 0 && e.selC = 0 && e.selD = 0 && e.hint = 0

/-! Reading the fields of a word. -/

/-- Reads a 14-bit operand field with its five high bits (R61 to R64); none for a reserved special code, or for a
special operand with non-zero high bits (R73 items 6 and 8). -/
def operandOf (f hi : Nat) (ext : Bool) : Option Operand :=
  let c := f / 4096 % 4
  let low := f % 4096
  let n := low + hi * 4096
  if c = 0 then some (.v (BitVec.ofNat 17 n))
  else if c = 1 then some (.s (BitVec.ofNat 17 n))
  else if c = 3 then
    some (.imm (if ext then BitVec.ofNat 17 n else (BitVec.ofNat 12 low).signExtend 17))
  else if hi ≠ 0 then none
  else if low = 0 then some .zero
  else if low < 0x010 then none
  else if low < 0x020 then some (.p (BitVec.ofNat 4 low))
  else if low < 0x030 then some (.q (BitVec.ofNat 4 low))
  else if low < 0x040 then none
  else if low < 0x070 then some (.bar (BitVec.ofNat 6 (low - 0x040)))
  else if low < 0x080 then some (.ring (BitVec.ofNat 4 low))
  else if low < 0x100 then some (.vt (BitVec.ofNat 7 low))
  else if low < 0x120 then some (.tk (BitVec.ofNat 5 low))
  else none

/-- Major opcode of word 0 (R59). -/
def opField (w0 : Nat) : Nat := bits 63 55 w0

/-- The X bit of word 0. -/
def xField (w0 : Nat) : Bool := bits 47 47 w0 = 1

/-- The fields of word 0 and its extension word as an `Enc`, without a check of what the operation accepts; none where
RSV is non-zero (R73 item 2) or an operand code is reserved. `x` is the extension word, read as zero where X = 0. -/
def encOf (w0 : Nat) (x : Nat) : Option Enc :=
  let e := xField w0
  match operandOf (bits 41 28 w0) (bits 48 44 x) e, operandOf (bits 27 14 w0) (bits 53 49 x) e,
      operandOf (bits 13 0 w0) (bits 58 54 x) e, operandOf (bits 13 0 x) (bits 63 59 x) e with
  | some d, some a, some b, some c =>
    if bits 43 38 x ≠ 0 then none
    else some
      { ty := BitVec.ofNat 4 (bits 54 51 w0), var := BitVec.ofNat 3 (bits 50 48 w0),
        g := BitVec.ofNat 4 (bits 46 43 w0), gn := bits 42 42 w0 = 1, ext := e, d := d, a := a, b := b, c := c,
        selA := BitVec.ofNat 4 (bits 17 14 x), selB := BitVec.ofNat 4 (bits 21 18 x),
        selC := BitVec.ofNat 4 (bits 25 22 x), selD := BitVec.ofNat 4 (bits 29 26 x),
        hint := BitVec.ofNat 8 (bits 37 30 x) }
  | _, _, _, _ => none

/-- The fields of a `movi` word 0 (R66): A holds the high bits of D, B is zero. -/
def encMovi (w0 : Nat) : Option Enc :=
  match operandOf (bits 41 28 w0) (bits 18 14 w0) true with
  | some d =>
    if bits 27 19 w0 ≠ 0 ∨ bits 13 0 w0 ≠ 0 ∨ xField w0 = false then none
    else some
      { ty := BitVec.ofNat 4 (bits 54 51 w0), var := BitVec.ofNat 3 (bits 50 48 w0),
        g := BitVec.ofNat 4 (bits 46 43 w0), gn := bits 42 42 w0 = 1, ext := true, d := d, a := .v 0, b := .v 0, c := .v 0,
        selA := 0, selB := 0, selC := 0, selD := 0, hint := 0 }
  | none => none

/-- Words that carry an instruction: a well-formed encoding (R73), or a trapped or removed code (R92). -/
def legalWords (w0 : Nat) (x : Option (BitVec 64)) : Bool :=
  let op := opField w0
  if op = 0x0FE ∨ op = 0x13E ∨ op = 0x14F then true
  else if op = 0x001 then
    match encMovi w0, x with
    | some e, some _ => legalMovi e
    | _, _ => false
  else
    match encOf w0 ((x.getD 0).toNat) with
    | some e => legal op e
    | none => false

end Sys2Proof.Legal
end

