-- ==== Sys2Proof/Syntax.lean ====
section
/-! DEFINITION. The one instruction type: a constructor for each row of the opcode table. First the operations of the
portable map (R84); then the machine's other actions and the events that reach it; the constructors without arguments,
the native-only `pdir` (R275) among them, stand last. -/
namespace Sys2Proof

/-- An action of the machine: an instruction that a team issues, an action of one of its engines, or an event from the
environment. -/
inductive Instr where
  | mov (e : Enc)
  | movi (e : Enc) (lit : BitVec 64)
  | add (e : Enc)
  | sub (e : Enc)
  | addc (e : Enc)
  | subb (e : Enc)
  | mul (e : Enc)
  | mulhi (e : Enc)
  | mad (e : Enc)
  | madhi (e : Enc)
  | div (e : Enc)
  | rem (e : Enc)
  | neg (e : Enc)
  | abs (e : Enc)
  | min (e : Enc)
  | max (e : Enc)
  | clamp (e : Enc)
  | sad (e : Enc)
  | and (e : Enc)
  | or (e : Enc)
  | xor (e : Enc)
  | not (e : Enc)
  | andn (e : Enc)
  | shl (e : Enc)
  | shr (e : Enc)
  | sar (e : Enc)
  | rotl (e : Enc)
  | rotr (e : Enc)
  | clz (e : Enc)
  | ctz (e : Enc)
  | popc (e : Enc)
  | brev (e : Enc)
  | bfe (e : Enc)
  | bfi (e : Enc)
  | sel (e : Enc)
  | setp (e : Enc)
  | lea (e : Enc)
  | mad24 (e : Enc)
  | fadd (e : Enc)
  | fsub (e : Enc)
  | fmul (e : Enc)
  | fma (e : Enc)
  | fmin (e : Enc)
  | fmax (e : Enc)
  | fabs (e : Enc)
  | fneg (e : Enc)
  | fsgn (e : Enc)
  | fsetp (e : Enc)
  | fclass (e : Enc)
  | frnd (e : Enc)
  | frcp (e : Enc)
  | frsq (e : Enc)
  | fsqrt (e : Enc)
  | fdiv (e : Enc)
  | fexp2 (e : Enc)
  | flog2 (e : Enc)
  | fsin (e : Enc)
  | fcos (e : Enc)
  | ftanh (e : Enc)
  | fscale (e : Enc)
  | fexpo (e : Enc)
  | frcpa (e : Enc)
  | cvt (e : Enc)
  | pack (e : Enc)
  | prm (e : Enc)
  | dot2 (e : Enc)
  | dot4 (e : Enc)
  | dot8 (e : Enc)
  | lcdec (e : Enc)
  | bra (e : Enc)
  | brx (e : Enc)
  | call (e : Enc)
  | callx (e : Enc)
  | ret (e : Enc)
  | exit (e : Enc)
  | loop (e : Enc)
  | endloop (e : Enc)
  | yield (e : Enc)
  | reconv (e : Enc)
  | rjoin (e : Enc)
  | mpush (e : Enc)
  | minv (e : Enc)
  | mpop (e : Enc)
  | bzm (e : Enc)
  | dqpop (e : Enc)
  | nop (e : Enc)
  | brk (e : Enc)
  | trap (e : Enc)
  | xprev (e : Enc)
  | xnext (e : Enc)
  | xbcast (e : Enc)
  | xscan (e : Enc)
  | xred (e : Enc)
  | ballot (e : Enc)
  | vote (e : Enc)
  | xmatch (e : Enc)
  | tidx (e : Enc)
  | actc (e : Enc)
  | ld (e : Enc)
  | st (e : Enc)
  | ldg (e : Enc)
  | stsc (e : Enc)
  | cst (e : Enc)
  | exl (e : Enc)
  | atom (e : Enc)
  | red (e : Enc)
  | fence (e : Enc)
  | pf (e : Enc)
  | cinv (e : Enc)
  | cwb (e : Enc)
  | sbind (e : Enc)
  | sclose (e : Enc)
  | ldsh (w0 : BitVec 64) (x : Option (BitVec 64))
  | cpy (e : Enc)
  | cpyt (e : Enc)
  | cpyg (e : Enc)
  | ringpush (e : Enc)
  | kvpatch (e : Enc)
  | rerot (e : Enc)
  | cwait (e : Enc)
  | cstat (e : Enc)
  | fmt (e : Enc)
  | nestw (e : Enc)
  | pgo (e : Enc)
  | pwait (e : Enc)
  | pstat (e : Enc)
  | vclr (e : Enc)
  | vld (e : Enc)
  | vst (e : Enc)
  | vacc (e : Enc)
  | ringinit (e : Enc)
  | ringstat (e : Enc)
  | pdirMt (tile : BitVec 7) (a b : BitVec 12)
  | pmma (w0 : BitVec 64) (x : Option (BitVec 64))
  | binit (e : Enc)
  | barr (e : Enc)
  | bwait (e : Enc)
  | bsync (e : Enc)
  | blink (e : Enc)
  | binv (e : Enc)
  | btest (e : Enc)
  | bwt (w0 : BitVec 64) (x : Option (BitVec 64))
  | srd (e : Enc)
  | swr (e : Enc)
  | clk (e : Enc)
  | nsend (e : Enc)
  | nrecv (e : Enc)
  | rpart (e : Enc)
  | wdraw (e : Enc)
  | prof (e : Enc)
  | halt (e : Enc)
  | sleep (e : Enc)
  | trapStubIssue (w0 : BitVec 64) (x : Option (BitVec 64))
  | clauseStart (h : ClauseHeader)
  | bundleIssue (b : Bundle)
  | longLatencyComplete (wg tix k : Nat)
  | streamElementArrival (wg tix q : Nat)
  | combiningDrainTimeout (wg tix block : Nat)
  | teamWatchdogExpiry (wg tix : Nat)
  | sleepExpiry (wg tix : Nat)
  | pressActivate (op : Nat)
  | microtileStart (op step : Nat)
  | microtileRetire (op step : Nat)
  | ringTailAdvance (op : Nat)
  | copyComplete (op n : Nat)
  | rpartJoin (op : Nat)
  | rpartComplete (op : Nat)
  | workgroupDone (wg : Nat)
  | nodeComplete (node : Nat)
  | queKick (q : Nat) (w : BitVec 64)
  | parsePad (q : Nat)
  | parseLaunch (q : Nat)
  | parseLoad (q : Nat)
  | parseUnload (q : Nat)
  | parseJoin (q : Nat)
  | unloadComplete (obj : Nat)
  | queWdraw (x : BitVec 64)
  | translationComplete (entry : Nat)
  | reoptimisationComplete (entry : Nat)
  | stokerFailure (k : Nat)
  | coreRetirement (core : Nat)
  | ctxCreate (c : Nat) (r : Request)
  | ctxDestroy (c : Nat) (r : Request)
  | ctxPreempt (c : Nat) (r : Request)
  | ctxResume (c : Nat) (r : Request)
  | qcreate (c : Nat) (r : Request)
  | qdestroy (c : Nat) (r : Request)
  | qreset (c : Nat) (r : Request)
  | readsave (c : Nat) (r : Request)
  | gangrec (c : Nat) (r : Request)
  | dbgcont (c : Nat) (r : Request)
  | rearm (c : Nat) (r : Request)
  | politeWindowExpiry (c : Nat)
  | cutBackTimeout (wg tix : Nat)
  | workgroupSave (wg : Nat)
  | pageMap (c : Nat) (b : PageBlock)
  | pageUnmap (c : Nat) (b : PageBlock)
  | pageProt (c : Nat) (b : PageBlock)
  | pageEvict (c : Nat) (b : PageBlock)
  | pageMigrate (c : Nat) (b : PageBlock)
  | pageQuery (c : Nat) (b : PageBlock)
  | demandFill (c va : Nat)
  | tlbMissWalk (c core va : Nat)
  | linkRead (p : Packet)
  | linkWrite (p : Packet)
  | linkAtomic (p : Packet)
  | linkReply (p : Packet)
  | linkAck (p : Packet)
  | linkRpart (p : Packet)
  | linkControl (p : Packet) (m : Control)
  | gangAbortReceived (c gangid gen : Nat) (missing : List Nat)
  | retransmitTimeout (dst seq : Nat)
  | peerUnreachable (dst : Nat)
  | lightDetected (port : Nat)
  | portTrained (port slot : Nat)
  | trainTimeout (port : Nat)
  | flitCrcFail (port : Nat)
  | lossOfLight (port : Nat)
  | portRetrain (port : Nat)
  | lnkKeyld (addr : BitVec 64)
  | keyExhaustTimeout (peer : Nat)
  | ptpMessage (offset : Int)
  | gangInstant (c : Nat)
  | gangGraceExpiry (c : Nat)
  | ctxFqWrite (c : Nat) (x : BitVec 64)
  | hostRegisterWrite (off : Nat) (x : BitVec 64)
  | hostMemoryWrite (addr : Nat) (bytes : List Byte)
  | hostMemoryRead (addr n : Nat)
  | mgmtIdent (signed : Bool)
  | mgmtSetid (signed : Bool) (id : Nat)
  | mgmtReset (signed : Bool) (b : BootInfo)
  | powerUp (b : BootInfo)
  | perst (b : BootInfo)
  | hotReset (b : BootInfo)
  | functionLevelReset (b : BootInfo)
  | fwWatchdogExpiry (die : Nat)
  | pkgOverChange (above : Bool)
  | softError (at_ : ErrLoc)
  | scrubbing (at_ : ErrLoc)
  | feedValueArrival (wg tix : Nat)
  | pdirOn
  | pdirOff
  | distributorPass
  | rotorSlot
  | ptpLockAchieved
  | ptpLockLost
  | holdoverExpiry
  | thermalWarning
  | thermalTrip
  | d3hotEntry
  | d0Return
  | firmwareUpdate
  | powerLoss
  deriving DecidableEq, Repr

end Sys2Proof
end

