-- ==== Sys2Proof/Machine/Opcode.lean ====
section
/-! DEFINITION. The major opcode of each instruction that portable words carry (R84). -/
namespace Sys2Proof

/-- The major opcode and fields of an instruction that portable words carry; none for the trapped and removed
codes, whose words stand in the instruction itself, for `pdir` and for events. -/
def Instr.opEnc : Instr → Option (Nat × Enc)
  | .mov e => some (0x000, e)
  | .movi e _ => some (0x001, e)
  | .add e => some (0x002, e)
  | .sub e => some (0x003, e)
  | .addc e => some (0x004, e)
  | .subb e => some (0x005, e)
  | .mul e => some (0x006, e)
  | .mulhi e => some (0x007, e)
  | .mad e => some (0x008, e)
  | .madhi e => some (0x009, e)
  | .div e => some (0x00A, e)
  | .rem e => some (0x00B, e)
  | .neg e => some (0x00C, e)
  | .abs e => some (0x00D, e)
  | .min e => some (0x00E, e)
  | .max e => some (0x00F, e)
  | .clamp e => some (0x010, e)
  | .sad e => some (0x011, e)
  | .and e => some (0x012, e)
  | .or e => some (0x013, e)
  | .xor e => some (0x014, e)
  | .not e => some (0x015, e)
  | .andn e => some (0x016, e)
  | .shl e => some (0x017, e)
  | .shr e => some (0x018, e)
  | .sar e => some (0x019, e)
  | .rotl e => some (0x01A, e)
  | .rotr e => some (0x01B, e)
  | .clz e => some (0x01C, e)
  | .ctz e => some (0x01D, e)
  | .popc e => some (0x01E, e)
  | .brev e => some (0x01F, e)
  | .bfe e => some (0x020, e)
  | .bfi e => some (0x021, e)
  | .sel e => some (0x022, e)
  | .setp e => some (0x023, e)
  | .lea e => some (0x024, e)
  | .mad24 e => some (0x03E, e)
  | .fadd e => some (0x040, e)
  | .fsub e => some (0x041, e)
  | .fmul e => some (0x042, e)
  | .fma e => some (0x043, e)
  | .fmin e => some (0x044, e)
  | .fmax e => some (0x045, e)
  | .fabs e => some (0x046, e)
  | .fneg e => some (0x047, e)
  | .fsgn e => some (0x048, e)
  | .fsetp e => some (0x049, e)
  | .fclass e => some (0x04A, e)
  | .frnd e => some (0x04B, e)
  | .frcp e => some (0x04C, e)
  | .frsq e => some (0x04D, e)
  | .fsqrt e => some (0x04E, e)
  | .fdiv e => some (0x04F, e)
  | .fexp2 e => some (0x050, e)
  | .flog2 e => some (0x051, e)
  | .fsin e => some (0x052, e)
  | .fcos e => some (0x053, e)
  | .ftanh e => some (0x054, e)
  | .fscale e => some (0x055, e)
  | .fexpo e => some (0x056, e)
  | .frcpa e => some (0x07D, e)
  | .cvt e => some (0x080, e)
  | .pack e => some (0x081, e)
  | .prm e => some (0x082, e)
  | .dot2 e => some (0x083, e)
  | .dot4 e => some (0x084, e)
  | .dot8 e => some (0x085, e)
  | .lcdec e => some (0x086, e)
  | .bra e => some (0x0A0, e)
  | .brx e => some (0x0A1, e)
  | .call e => some (0x0A2, e)
  | .callx e => some (0x0A3, e)
  | .ret e => some (0x0A4, e)
  | .exit e => some (0x0A5, e)
  | .loop e => some (0x0A6, e)
  | .endloop e => some (0x0A7, e)
  | .yield e => some (0x0A8, e)
  | .reconv e => some (0x0A9, e)
  | .rjoin e => some (0x0AA, e)
  | .mpush e => some (0x0AB, e)
  | .minv e => some (0x0AC, e)
  | .mpop e => some (0x0AD, e)
  | .bzm e => some (0x0AE, e)
  | .dqpop e => some (0x0AF, e)
  | .nop e => some (0x0B0, e)
  | .brk e => some (0x0B1, e)
  | .trap e => some (0x0B2, e)
  | .xprev e => some (0x0C0, e)
  | .xnext e => some (0x0C1, e)
  | .xbcast e => some (0x0C2, e)
  | .xscan e => some (0x0C3, e)
  | .xred e => some (0x0C4, e)
  | .ballot e => some (0x0C5, e)
  | .vote e => some (0x0C6, e)
  | .xmatch e => some (0x0C7, e)
  | .tidx e => some (0x0C8, e)
  | .actc e => some (0x0C9, e)
  | .ld e => some (0x0D0, e)
  | .st e => some (0x0D1, e)
  | .ldg e => some (0x0D2, e)
  | .stsc e => some (0x0D3, e)
  | .cst e => some (0x0D4, e)
  | .exl e => some (0x0D5, e)
  | .atom e => some (0x0D6, e)
  | .red e => some (0x0D7, e)
  | .fence e => some (0x0D8, e)
  | .pf e => some (0x0D9, e)
  | .cinv e => some (0x0DA, e)
  | .cwb e => some (0x0DB, e)
  | .sbind e => some (0x0DC, e)
  | .sclose e => some (0x0DD, e)
  | .ldsh _ _ => none
  | .cpy e => some (0x100, e)
  | .cpyt e => some (0x101, e)
  | .cpyg e => some (0x102, e)
  | .ringpush e => some (0x103, e)
  | .kvpatch e => some (0x104, e)
  | .rerot e => some (0x105, e)
  | .cwait e => some (0x106, e)
  | .cstat e => some (0x107, e)
  | .fmt e => some (0x120, e)
  | .nestw e => some (0x121, e)
  | .pgo e => some (0x122, e)
  | .pwait e => some (0x123, e)
  | .pstat e => some (0x124, e)
  | .vclr e => some (0x125, e)
  | .vld e => some (0x126, e)
  | .vst e => some (0x127, e)
  | .vacc e => some (0x128, e)
  | .ringinit e => some (0x129, e)
  | .ringstat e => some (0x12A, e)
  | .pdirOn => none
  | .pdirMt _ _ _ => none
  | .pdirOff => none
  | .pmma _ _ => none
  | .binit e => some (0x140, e)
  | .barr e => some (0x141, e)
  | .bwait e => some (0x142, e)
  | .bsync e => some (0x143, e)
  | .blink e => some (0x144, e)
  | .binv e => some (0x145, e)
  | .btest e => some (0x146, e)
  | .bwt _ _ => none
  | .srd e => some (0x150, e)
  | .swr e => some (0x151, e)
  | .clk e => some (0x152, e)
  | .nsend e => some (0x153, e)
  | .nrecv e => some (0x154, e)
  | .rpart e => some (0x155, e)
  | .wdraw e => some (0x156, e)
  | .prof e => some (0x157, e)
  | .halt e => some (0x158, e)
  | .sleep e => some (0x159, e)
  | .trapStubIssue _ _ => none
  | .clauseStart _ => none
  | .bundleIssue _ => none
  | .longLatencyComplete _ _ _ => none
  | .streamElementArrival _ _ _ => none
  | .combiningDrainTimeout _ _ _ => none
  | .teamWatchdogExpiry _ _ => none
  | .sleepExpiry _ _ => none
  | .pressActivate _ => none
  | .microtileStart _ _ => none
  | .microtileRetire _ _ => none
  | .ringTailAdvance _ => none
  | .copyComplete _ _ => none
  | .rpartJoin _ => none
  | .rpartComplete _ => none
  | .workgroupDone _ => none
  | .nodeComplete _ => none
  | .queKick _ _ => none
  | .parsePad _ => none
  | .parseLaunch _ => none
  | .parseLoad _ => none
  | .parseUnload _ => none
  | .parseJoin _ => none
  | .unloadComplete _ => none
  | .distributorPass => none
  | .queWdraw _ => none
  | .translationComplete _ => none
  | .reoptimisationComplete _ => none
  | .stokerFailure _ => none
  | .coreRetirement _ => none
  | .ctxCreate _ _ => none
  | .ctxDestroy _ _ => none
  | .ctxPreempt _ _ => none
  | .ctxResume _ _ => none
  | .qcreate _ _ => none
  | .qdestroy _ _ => none
  | .qreset _ _ => none
  | .readsave _ _ => none
  | .gangrec _ _ => none
  | .dbgcont _ _ => none
  | .rearm _ _ => none
  | .politeWindowExpiry _ => none
  | .cutBackTimeout _ _ => none
  | .workgroupSave _ => none
  | .pageMap _ _ => none
  | .pageUnmap _ _ => none
  | .pageProt _ _ => none
  | .pageEvict _ _ => none
  | .pageMigrate _ _ => none
  | .pageQuery _ _ => none
  | .demandFill _ _ => none
  | .tlbMissWalk _ _ _ => none
  | .linkRead _ => none
  | .linkWrite _ => none
  | .linkAtomic _ => none
  | .linkReply _ => none
  | .linkAck _ => none
  | .linkRpart _ => none
  | .linkControl _ _ => none
  | .gangAbortReceived _ _ _ _ => none
  | .retransmitTimeout _ _ => none
  | .peerUnreachable _ => none
  | .rotorSlot => none
  | .lightDetected _ => none
  | .portTrained _ _ => none
  | .trainTimeout _ => none
  | .flitCrcFail _ => none
  | .lossOfLight _ => none
  | .portRetrain _ => none
  | .lnkKeyld _ => none
  | .keyExhaustTimeout _ => none
  | .ptpMessage _ => none
  | .ptpLockAchieved => none
  | .ptpLockLost => none
  | .holdoverExpiry => none
  | .gangInstant _ => none
  | .gangGraceExpiry _ => none
  | .ctxFqWrite _ _ => none
  | .hostRegisterWrite _ _ => none
  | .hostMemoryWrite _ _ => none
  | .hostMemoryRead _ _ => none
  | .mgmtIdent _ => none
  | .mgmtSetid _ _ => none
  | .mgmtReset _ _ => none
  | .powerUp _ => none
  | .perst _ => none
  | .hotReset _ => none
  | .functionLevelReset _ => none
  | .fwWatchdogExpiry _ => none
  | .thermalWarning => none
  | .thermalTrip => none
  | .pkgOverChange _ => none
  | .d3hotEntry => none
  | .d0Return => none
  | .softError _ => none
  | .scrubbing _ => none
  | .firmwareUpdate => none
  | .feedValueArrival _ _ => none
  | .powerLoss => none

end Sys2Proof
end

