-- ==== Sys2Proof/WellFormed.lean ====
section
/-! DEFINITION. Well-formed instructions: the portable encodings that R73 accepts, the retired codes with words of
their own length, the native forms whose fields R99 to R103 allow, and events whose arguments the manual's ranges allow. -/
namespace Sys2Proof

open Legal

/-- Raw words of a retired or rejected encoding: an extension word stands exactly where X is 1 (R58). -/
def wfWords (w0 : BitVec 64) (x : Option (BitVec 64)) : Bool := x.isSome = xField w0.toNat

/-- R99: the fields of a clause header that must be zero are zero. -/
def wfHeader (h : ClauseHeader) : Bool :=
  (h.setA.toNat ≤ 11 || h.setA = 15) && (h.setB.toNat ≤ 11 || h.setB = 15) && (!h.idem || h.commit) &&
  h.uni.toNat < 2 ^ (h.nb.toNat + 1) && (h.ctlG ≠ 15 || !h.ctlGN) &&
  (h.ctlV || (h.ctlOp = 0 && h.ctlG = 0 && !h.ctlGN && h.ctlImm = 0)) && (h.commit || h.sidx = 0)

/-- R104: the ports a move can name as source and destination, with their indices. -/
def wfMove (m : Move) : Bool :=
  !m.rsv && (m.grd ≠ 15 || !m.gn) &&
  (if m.sport = 0 || m.sport = 10 then m.sidx ≠ 255 && m.ssub = 0
   else if m.sport.toNat ≤ 6 then m.ssub.toNat ≤ 1
   else if m.sport = 7 || m.sport = 9 then m.sidx.toNat ≤ 15 && m.ssub = 0
   else if m.sport = 8 then m.ssub = 0
   else m.sport = 15 && (m.ssub = 0 || m.ssub = 2)) &&
  (if m.dport = 0 || m.dport = 10 then m.didx ≠ 255
   else if m.dport.toNat ≤ 6 then true
   else if m.dport = 7 || m.dport = 9 then m.didx.toNat ≤ 15
   else m.dport = 15)

def wfSlot : Slot → Bool
  | .move m => wfMove m
  | .lit _ => true

/-- R102, R103. -/
def wfBundle (b : Bundle) : Bool :=
  wfSlot b.s0 && wfSlot b.s1 && wfSlot b.s2 && wfSlot b.s3 && wfSlot b.s4 && wfSlot b.s5

/-- Well-formed instructions. Events carry what the environment hands over and are always well formed. -/
def Instr.wf : Instr → Bool
  | .movi e _ => legalMovi e
  | .ldsh w0 x => wfWords w0 x && opField w0.toNat = 0x0FE
  | .pmma w0 x => wfWords w0 x && opField w0.toNat = 0x13E
  | .bwt w0 x => wfWords w0 x && opField w0.toNat = 0x14F
  | .trapStubIssue w0 x => wfWords w0 x && !legalWords w0.toNat x
  | .clauseStart h => wfHeader h
  | .bundleIssue b => wfBundle b
  | i =>
    match i.opEnc with
    | some (op, e) => legal op e
    | none => true

end Sys2Proof
end

