-- ==== Sys2Proof/Decode.lean ====
section
/-! DEFINITION. The decoder and the encoder of portable words (R58 to R66, R73, R84, R91 to R93) and of the native form
(R99 to R104). Every portable word decodes: an encoding that R73 rejects is a trap stub of its own length. -/
namespace Sys2Proof

open Legal

/-- Constructors of major opcodes 0x000 to 0x03F (R84). -/
def ctorInt : List (Nat × (Enc → Instr)) := [
  (0x000, Instr.mov),
  (0x002, Instr.add),
  (0x003, Instr.sub),
  (0x004, Instr.addc),
  (0x005, Instr.subb),
  (0x006, Instr.mul),
  (0x007, Instr.mulhi),
  (0x008, Instr.mad),
  (0x009, Instr.madhi),
  (0x00A, Instr.div),
  (0x00B, Instr.rem),
  (0x00C, Instr.neg),
  (0x00D, Instr.abs),
  (0x00E, Instr.min),
  (0x00F, Instr.max),
  (0x010, Instr.clamp),
  (0x011, Instr.sad),
  (0x012, Instr.and),
  (0x013, Instr.or),
  (0x014, Instr.xor),
  (0x015, Instr.not),
  (0x016, Instr.andn),
  (0x017, Instr.shl),
  (0x018, Instr.shr),
  (0x019, Instr.sar),
  (0x01A, Instr.rotl),
  (0x01B, Instr.rotr),
  (0x01C, Instr.clz),
  (0x01D, Instr.ctz),
  (0x01E, Instr.popc),
  (0x01F, Instr.brev),
  (0x020, Instr.bfe),
  (0x021, Instr.bfi),
  (0x022, Instr.sel),
  (0x023, Instr.setp),
  (0x024, Instr.lea),
  (0x03E, Instr.mad24)]

/-- Constructors of major opcodes 0x040 to 0x09F (R84). -/
def ctorFloat : List (Nat × (Enc → Instr)) := [
  (0x040, Instr.fadd),
  (0x041, Instr.fsub),
  (0x042, Instr.fmul),
  (0x043, Instr.fma),
  (0x044, Instr.fmin),
  (0x045, Instr.fmax),
  (0x046, Instr.fabs),
  (0x047, Instr.fneg),
  (0x048, Instr.fsgn),
  (0x049, Instr.fsetp),
  (0x04A, Instr.fclass),
  (0x04B, Instr.frnd),
  (0x04C, Instr.frcp),
  (0x04D, Instr.frsq),
  (0x04E, Instr.fsqrt),
  (0x04F, Instr.fdiv),
  (0x050, Instr.fexp2),
  (0x051, Instr.flog2),
  (0x052, Instr.fsin),
  (0x053, Instr.fcos),
  (0x054, Instr.ftanh),
  (0x055, Instr.fscale),
  (0x056, Instr.fexpo),
  (0x07D, Instr.frcpa),
  (0x080, Instr.cvt),
  (0x081, Instr.pack),
  (0x082, Instr.prm),
  (0x083, Instr.dot2),
  (0x084, Instr.dot4),
  (0x085, Instr.dot8),
  (0x086, Instr.lcdec)]

/-- Constructors of major opcodes 0x0A0 to 0x0CF (R84). -/
def ctorControl : List (Nat × (Enc → Instr)) := [
  (0x0A0, Instr.bra),
  (0x0A1, Instr.brx),
  (0x0A2, Instr.call),
  (0x0A3, Instr.callx),
  (0x0A4, Instr.ret),
  (0x0A5, Instr.exit),
  (0x0A6, Instr.loop),
  (0x0A7, Instr.endloop),
  (0x0A8, Instr.yield),
  (0x0A9, Instr.reconv),
  (0x0AA, Instr.rjoin),
  (0x0AB, Instr.mpush),
  (0x0AC, Instr.minv),
  (0x0AD, Instr.mpop),
  (0x0AE, Instr.bzm),
  (0x0AF, Instr.dqpop),
  (0x0B0, Instr.nop),
  (0x0B1, Instr.brk),
  (0x0B2, Instr.trap),
  (0x0C0, Instr.xprev),
  (0x0C1, Instr.xnext),
  (0x0C2, Instr.xbcast),
  (0x0C3, Instr.xscan),
  (0x0C4, Instr.xred),
  (0x0C5, Instr.ballot),
  (0x0C6, Instr.vote),
  (0x0C7, Instr.xmatch),
  (0x0C8, Instr.tidx),
  (0x0C9, Instr.actc)]

/-- Constructors of major opcodes 0x0D0 to 0x0FF (R84). -/
def ctorAccess : List (Nat × (Enc → Instr)) := [
  (0x0D0, Instr.ld),
  (0x0D1, Instr.st),
  (0x0D2, Instr.ldg),
  (0x0D3, Instr.stsc),
  (0x0D4, Instr.cst),
  (0x0D5, Instr.exl),
  (0x0D6, Instr.atom),
  (0x0D7, Instr.red),
  (0x0D8, Instr.fence),
  (0x0D9, Instr.pf),
  (0x0DA, Instr.cinv),
  (0x0DB, Instr.cwb),
  (0x0DC, Instr.sbind),
  (0x0DD, Instr.sclose)]

/-- Constructors of major opcodes 0x100 to 0x1FF (R84). -/
def ctorEngine : List (Nat × (Enc → Instr)) := [
  (0x100, Instr.cpy),
  (0x101, Instr.cpyt),
  (0x102, Instr.cpyg),
  (0x103, Instr.ringpush),
  (0x104, Instr.kvpatch),
  (0x105, Instr.rerot),
  (0x106, Instr.cwait),
  (0x107, Instr.cstat),
  (0x120, Instr.fmt),
  (0x121, Instr.nestw),
  (0x122, Instr.pgo),
  (0x123, Instr.pwait),
  (0x124, Instr.pstat),
  (0x125, Instr.vclr),
  (0x126, Instr.vld),
  (0x127, Instr.vst),
  (0x128, Instr.vacc),
  (0x129, Instr.ringinit),
  (0x12A, Instr.ringstat),
  (0x140, Instr.binit),
  (0x141, Instr.barr),
  (0x142, Instr.bwait),
  (0x143, Instr.bsync),
  (0x144, Instr.blink),
  (0x145, Instr.binv),
  (0x146, Instr.btest),
  (0x150, Instr.srd),
  (0x151, Instr.swr),
  (0x152, Instr.clk),
  (0x153, Instr.nsend),
  (0x154, Instr.nrecv),
  (0x155, Instr.rpart),
  (0x156, Instr.wdraw),
  (0x157, Instr.prof),
  (0x158, Instr.halt),
  (0x159, Instr.sleep)]

/-- The constructor of a major opcode that carries an operation with an `Enc`. -/
def ctorOf (op : Nat) : Option (Enc → Instr) :=
  if op < 0x40 then look op ctorInt
  else if op < 0xA0 then look op ctorFloat
  else if op < 0xD0 then look op ctorControl
  else if op < 0x100 then look op ctorAccess
  else look op ctorEngine

/-- The instruction of word 0 and its extension word, which is present exactly when X is 1 (R58, R73, R91). -/
def decodeWords (w0 : BitVec 64) (x : Option (BitVec 64)) : Instr :=
  let n := w0.toNat
  let op := opField n
  if op = 0x0FE then .ldsh w0 x
  else if op = 0x13E then .pmma w0 x
  else if op = 0x14F then .bwt w0 x
  else if op = 0x001 then
    match encMovi n, x with
    | some e, some lit => if legalMovi e then .movi e lit else .trapStubIssue w0 x
    | _, _ => .trapStubIssue w0 x
  else
    match encOf n ((x.getD 0).toNat), ctorOf op with
    | some e, some k => if legal op e then k e else .trapStubIssue w0 x
    | _, _ => .trapStubIssue w0 x

/-- Little-endian value of bytes (R3). -/
def leNat : List Byte → Nat
  | [] => 0
  | b :: r => b.toNat + 256 * leNat r

/-- The `n` little-endian bytes of a number. -/
def leBytes : Nat → Nat → List Byte
  | 0, _ => []
  | n + 1, x => BitVec.ofNat 8 x :: leBytes n (x / 256)

/-- Decodes the instruction at the front of portable `.text` bytes and answers the rest; none where the bytes end
inside it (R58). -/
def decode (bs : List Byte) : Option (Instr × List Byte) :=
  if bs.length < 8 then none
  else
    let w0 := BitVec.ofNat 64 (leNat (bs.take 8))
    if xField w0.toNat then
      if bs.length < 16 then none
      else some (decodeWords w0 (some (BitVec.ofNat 64 (leNat ((bs.drop 8).take 8)))), bs.drop 16)
    else some (decodeWords w0 none, bs.drop 8)

/-- The instruction of the word `w` of `nbits` bits; bits above `nbits` are zero. -/
def decodeTableWord (nbits w : Nat) : Option Instr :=
  (decode (leBytes 16 (w % 2 ^ nbits))).map Prod.fst

/-! The encoder. -/

/-- The 14-bit field of an operand (R61, R62). -/
def fieldOf : Operand → Nat
  | .v n => n.toNat % 4096
  | .s n => 0x1000 + n.toNat % 4096
  | .zero => 0x2000
  | .p n => 0x2010 + n.toNat
  | .q n => 0x2020 + n.toNat
  | .bar n => 0x2040 + n.toNat
  | .ring n => 0x2070 + n.toNat
  | .vt n => 0x2080 + n.toNat
  | .tk n => 0x2100 + n.toNat
  | .imm n => 0x3000 + n.toNat % 4096

/-- The five high bits of an operand (R63, R64). -/
def highOf : Operand → Nat
  | .v n => n.toNat / 4096
  | .s n => n.toNat / 4096
  | .imm n => n.toNat / 4096
  | _ => 0

/-- Word 0 (R59) with the given A field. -/
def word0 (op : Nat) (e : Enc) (a : Nat) : Nat :=
  fieldOf e.b + a * 2 ^ 14 + fieldOf e.d * 2 ^ 28 + e.gn.toNat * 2 ^ 42 + e.g.toNat * 2 ^ 43 + e.ext.toNat * 2 ^ 47 +
    e.var.toNat * 2 ^ 48 + e.ty.toNat * 2 ^ 51 + op * 2 ^ 55

/-- The extension word (R65). -/
def wordX (e : Enc) : Nat :=
  fieldOf e.c + e.selA.toNat * 2 ^ 14 + e.selB.toNat * 2 ^ 18 + e.selC.toNat * 2 ^ 22 + e.selD.toNat * 2 ^ 26 +
    e.hint.toNat * 2 ^ 30 + highOf e.d * 2 ^ 44 + highOf e.a * 2 ^ 49 + highOf e.b * 2 ^ 54 + highOf e.c * 2 ^ 59

/-- The words of an instruction: word 0 and the extension word, none for an action that has no portable words. -/
def encodeWords : Instr → Option (BitVec 64 × Option (BitVec 64))
  | .movi e lit => some (BitVec.ofNat 64 (word0 0x001 e (highOf e.d)), some lit)
  | .ldsh w0 x => some (w0, x)
  | .pmma w0 x => some (w0, x)
  | .bwt w0 x => some (w0, x)
  | .trapStubIssue w0 x => some (w0, x)
  | i =>
    match i.opEnc with
    | some (op, e) =>
      some (BitVec.ofNat 64 (word0 op e (fieldOf e.a)), if e.ext then some (BitVec.ofNat 64 (wordX e)) else none)
    | none => none

/-- The bytes of an instruction in `.text`. -/
def encode (i : Instr) : List Byte :=
  match encodeWords i with
  | some (w0, x) => leBytes 8 w0.toNat ++ (match x with | some x => leBytes 8 x.toNat | none => [])
  | none => []

/-! The native form. -/

/-- A clause header from its 128 bits (R99). -/
def headerOf (x : Nat) : ClauseHeader :=
  { wait := BitVec.ofNat 12 x, setA := BitVec.ofNat 4 (bits 15 12 x), setB := BitVec.ofNat 4 (bits 19 16 x),
    stop := bits 20 20 x = 1, commit := bits 21 21 x = 1, idem := bits 22 22 x = 1, nb := BitVec.ofNat 3 (bits 25 23 x),
    uni := BitVec.ofNat 8 (bits 33 26 x), ctlOp := BitVec.ofNat 8 (bits 41 34 x), ctlG := BitVec.ofNat 4 (bits 45 42 x),
    ctlGN := bits 46 46 x = 1, ctlV := bits 47 47 x = 1, ctlImm := BitVec.ofNat 48 (bits 95 48 x),
    sidx := BitVec.ofNat 32 (bits 127 96 x) }

/-- The 128 bits of a clause header. -/
def headerBits (h : ClauseHeader) : Nat :=
  h.wait.toNat + h.setA.toNat * 2 ^ 12 + h.setB.toNat * 2 ^ 16 + h.stop.toNat * 2 ^ 20 + h.commit.toNat * 2 ^ 21 +
    h.idem.toNat * 2 ^ 22 + h.nb.toNat * 2 ^ 23 + h.uni.toNat * 2 ^ 26 + h.ctlOp.toNat * 2 ^ 34 + h.ctlG.toNat * 2 ^ 42 +
    h.ctlGN.toNat * 2 ^ 46 + h.ctlV.toNat * 2 ^ 47 + h.ctlImm.toNat * 2 ^ 48 + h.sidx.toNat * 2 ^ 96

/-- A move slot from its 40 bits (R102). -/
def moveOf (x : Nat) : Move :=
  { sidx := BitVec.ofNat 8 x, ssub := BitVec.ofNat 2 (bits 9 8 x), sport := BitVec.ofNat 4 (bits 13 10 x),
    didx := BitVec.ofNat 8 (bits 21 14 x), dsub := BitVec.ofNat 2 (bits 23 22 x), dport := BitVec.ofNat 4 (bits 27 24 x),
    sel := BitVec.ofNat 4 (bits 31 28 x), grd := BitVec.ofNat 4 (bits 35 32 x), gn := bits 36 36 x = 1,
    w := BitVec.ofNat 2 (bits 38 37 x), rsv := bits 39 39 x = 1 }

/-- The 40 bits of a move slot. -/
def moveBits (m : Move) : Nat :=
  m.sidx.toNat + m.ssub.toNat * 2 ^ 8 + m.sport.toNat * 2 ^ 10 + m.didx.toNat * 2 ^ 14 + m.dsub.toNat * 2 ^ 22 +
    m.dport.toNat * 2 ^ 24 + m.sel.toNat * 2 ^ 28 + m.grd.toNat * 2 ^ 32 + m.gn.toNat * 2 ^ 36 + m.w.toNat * 2 ^ 37 +
    m.rsv.toNat * 2 ^ 39

/-- The 40 bits of a slot, and whether it is a literal. -/
def slotBits : Slot → Nat
  | .move m => moveBits m
  | .lit x => x.toNat

def slotLit : Slot → Nat
  | .move _ => 0
  | .lit _ => 1

/-- Slot `i` of a bundle of 256 bits (R102, R103). -/
def slotOf (i x : Nat) : Slot :=
  let y := bits (40 * i + 39) (40 * i) x
  if bits (240 + i) (240 + i) x = 1 then .lit (BitVec.ofNat 32 y) else .move (moveOf y)

/-- A bundle from its 256 bits (R102, R103). -/
def bundleOf (x : Nat) : Bundle :=
  { s0 := slotOf 0 x, s1 := slotOf 1 x, s2 := slotOf 2 x, s3 := slotOf 3 x, s4 := slotOf 4 x, s5 := slotOf 5 x,
    lmw := BitVec.ofNat 3 (bits 248 246 x) }

/-- The 256 bits of a bundle. -/
def bundleBits (b : Bundle) : Nat :=
  slotBits b.s0 + slotBits b.s1 * 2 ^ 40 + slotBits b.s2 * 2 ^ 80 + slotBits b.s3 * 2 ^ 120 + slotBits b.s4 * 2 ^ 160 +
    slotBits b.s5 * 2 ^ 200 + slotLit b.s0 * 2 ^ 240 + slotLit b.s1 * 2 ^ 241 + slotLit b.s2 * 2 ^ 242 + slotLit b.s3 * 2 ^ 243 +
    slotLit b.s4 * 2 ^ 244 + slotLit b.s5 * 2 ^ 245 + b.lmw.toNat * 2 ^ 246

end Sys2Proof
end

