-- ==== Sys2Proof/Machine/Sparse.lean ====
section
/-! DEFINITION. Sparse data in one canonical form: (index, value) pairs with indices strictly rising and no value equal to
what an unlisted index reads as. Register files, scratchpads, vat and DRAM are held so. Also small tables by key. -/
namespace Sys2Proof.Machine

/-- The value at an index; an unlisted index reads `d`. -/
def spGet {α : Type} (d : α) : List (Nat × α) → Nat → α
  | [], _ => d
  | (k, x) :: r, i => if i = k then x else spGet d r i

/-- The list with one index set, in canonical form. -/
def spSet {α : Type} [DecidableEq α] (d : α) : List (Nat × α) → Nat → α → List (Nat × α)
  | [], i, x => if x = d then [] else [(i, x)]
  | (k, y) :: r, i, x =>
    if i < k then (if x = d then (k, y) :: r else (i, x) :: (k, y) :: r)
    else if i = k then (if x = d then r else (i, x) :: r)
    else (k, y) :: spSet d r i x

/-- Every index of the list lies above a bound. -/
def spAbove {α : Type} (b : Nat) : List (Nat × α) → Bool
  | [] => true
  | (k, _) :: r => b < k && spAbove b r

/-- Canonical form. -/
def spWf {α : Type} [DecidableEq α] (d : α) : List (Nat × α) → Bool
  | [] => true
  | (k, x) :: r => x ≠ d && spAbove k r && spWf d r

/-- Sets consecutive indices from `i`. -/
def spPut {α : Type} [DecidableEq α] (d : α) (m : List (Nat × α)) (i : Nat) : List α → List (Nat × α)
  | [] => m
  | x :: r => spPut d (spSet d m i x) (i + 1) r

/-- Reads `n` consecutive indices from `i`. -/
def spTake {α : Type} (d : α) (m : List (Nat × α)) (i : Nat) : Nat → List α
  | 0 => []
  | n + 1 => spGet d m i :: spTake d m (i + 1) n

/-- Looks a key up in a table. -/
def tabGet {α : Type} (k : Nat) : List (Nat × α) → Option α
  | [] => none
  | (n, x) :: r => if n = k then some x else tabGet k r

/-- Removes a key from a table. -/
def tabDel {α : Type} (k : Nat) (t : List (Nat × α)) : List (Nat × α) := t.filter (fun e => e.1 ≠ k)

/-- Sets a key in a table, in place where it stands, else at the end. -/
def tabSet {α : Type} (k : Nat) (x : α) : List (Nat × α) → List (Nat × α)
  | [] => [(k, x)]
  | (n, y) :: r => if n = k then (k, x) :: r else (n, y) :: tabSet k x r

/-- Little-endian number of bytes, zero for a missing one (R3). -/
def bytesNat : List Byte → Nat
  | [] => 0
  | b :: r => b.toNat + 256 * bytesNat r

/-- The `n` little-endian bytes of a number (R3). -/
def natBytes : Nat → Nat → List Byte
  | 0, _ => []
  | n + 1, x => BitVec.ofNat 8 x :: natBytes n (x / 256)

/-- The unsigned field of `n` bytes at offset `o` of a byte list. -/
def fieldAt (bs : List Byte) (o n : Nat) : Nat := bytesNat ((bs.drop o).take n)

/-- The same field read as a two's complement number. -/
def signedAt (bs : List Byte) (o n : Nat) : Int :=
  let x := fieldAt bs o n
  if x < 2 ^ (8 * n - 1) then x else (x : Int) - 2 ^ (8 * n)

/-- Every byte of a range of a byte list is zero. -/
def zeroAt (bs : List Byte) (o n : Nat) : Bool := ((bs.drop o).take n).all (· = 0)

end Sys2Proof.Machine
end

