-- ==== Sys2Proof/Machine/Float.lean ====
section
/-! DEFINITION. Floating-point values, rounding and arithmetic (R26 to R36 of 02_numbers.md, R136 to R144 of
06_thread.md). A value is computed exactly, as an integer times a power of two, and rounded once. -/
namespace Sys2Proof.Machine

/-! Flags in the positions of R41. -/
def fNV : BitVec 6 := 1
def fDZ : BitVec 6 := 2
def fOF : BitVec 6 := 4
def fUF : BitVec 6 := 8
def fNX : BitVec 6 := 16
def fSAT : BitVec 6 := 32

/-- A floating-point format (R26 to R28). `inf` and `nan` say which encodings it has; `sat` that a finite result
beyond its range saturates (R36). `maxCode` is the encoding of the largest finite value. -/
structure FFmt where
  eb : Nat
  mb : Nat
  bias : Nat
  inf : Bool
  nan : Bool
  sat : Bool
  maxCode : Nat
  /-- canonical NaN (R27, R28); +0 for a format without one (R36) -/
  cnan : Nat
  deriving DecidableEq, Repr

def fmtF64 : FFmt := ⟨11, 52, 1023, true, true, false, 0x7FEFFFFFFFFFFFFF, 0x7FF8000000000000⟩
def fmtF32 : FFmt := ⟨8, 23, 127, true, true, false, 0x7F7FFFFF, 0x7FC00000⟩
def fmtF16 : FFmt := ⟨5, 10, 15, true, true, false, 0x7BFF, 0x7E00⟩
def fmtBF16 : FFmt := ⟨8, 7, 127, true, true, false, 0x7F7F, 0x7FC0⟩
def fmtE4M3 : FFmt := ⟨4, 3, 7, false, true, true, 0x7E, 0x7F⟩
def fmtE5M2 : FFmt := ⟨5, 2, 15, true, true, true, 0x7B, 0x7E⟩
def fmtE3M2 : FFmt := ⟨3, 2, 3, false, false, true, 0x1F, 0⟩
def fmtE2M3 : FFmt := ⟨2, 3, 1, false, false, true, 0x1F, 0⟩
def fmtE2M1 : FFmt := ⟨2, 1, 1, false, false, true, 0x7, 0⟩

/-- A value: a NaN (signalling or quiet), an infinity, or ±m × 2^e. -/
inductive FVal where
  | nan (sig : Bool)
  | inf (neg : Bool)
  | fin (neg : Bool) (m : Nat) (e : Int)
  deriving DecidableEq, Repr

/-- The sign bit of an encoding. -/
def fSign (f : FFmt) (x : Nat) : Bool := x / 2 ^ (f.eb + f.mb) % 2 = 1

/-- The value of an encoding (R26 to R28). -/
def fVal (f : FFmt) (x : Nat) : FVal :=
  let s := fSign f x
  let e := x / 2 ^ f.mb % 2 ^ f.eb
  let m := x % 2 ^ f.mb
  let top := e = 2 ^ f.eb - 1
  if f.inf && top then
    (if m = 0 then .inf s else .nan (m / 2 ^ (f.mb - 1) = 0))
  else if f.nan && !f.inf && top && m = 2 ^ f.mb - 1 then .nan false
  else if e = 0 then .fin s m (1 - (f.bias : Int) - f.mb)
  else .fin s (2 ^ f.mb + m) ((e : Int) - f.bias - f.mb)

/-- Encodes a sign above a magnitude code. -/
def fSigned (f : FFmt) (neg : Bool) (code : Nat) : Nat := code + if neg then 2 ^ (f.eb + f.mb) else 0

/-- The encoding of infinity, or of the largest finite value where the format has none. -/
def fInf (f : FFmt) (neg : Bool) : Nat :=
  fSigned f neg (if f.inf then (2 ^ f.eb - 1) * 2 ^ f.mb else f.maxCode)

/-- Whether rounding raises the magnitude, by mode (R34): the dropped part is `rem` of `2^sh`. -/
def roundsUp (mode : Nat) (neg : Bool) (odd : Bool) (rem half : Nat) : Bool :=
  if mode = 0 then rem > half || (rem = half && rem ≠ 0 && odd)
  else if mode = 1 then false
  else if mode = 2 then !neg && rem ≠ 0
  else neg && rem ≠ 0

/-- The magnitude `m × 2^e` rounded to a multiple of `2^q`, in units of `2^q`, and whether it is inexact. -/
def roundAt (mode : Nat) (neg : Bool) (m : Nat) (e q : Int) : Nat × Bool :=
  if q ≤ e then (m * 2 ^ (e - q).toNat, false)
  else
    let sh := (q - e).toNat
    let k := m / 2 ^ sh
    let rem := m % 2 ^ sh
    (if roundsUp mode neg (k % 2 = 1) rem (2 ^ (sh - 1)) then k + 1 else k, rem ≠ 0)

/-- Floor of log2 of a non-zero number times 2^e. -/
def flog (m : Nat) (e : Int) : Int := (Nat.log2 m : Int) + e

/-- Rounds ±m × 2^e to a format by mode, with the flags of R35 and R36. Tininess is detected after rounding. -/
def fRound (f : FFmt) (mode : Nat) (neg : Bool) (m : Nat) (e : Int) : Nat × BitVec 6 :=
  if m = 0 then (fSigned f neg 0, 0)
  else
    let emin : Int := 1 - f.bias
    let lg := flog m e
    let q := max lg emin - f.mb
    let r := roundAt mode neg m e q
    -- the code grows by one mantissa unit per unit of 2^q, across binades as well
    let code : Nat := if r.1 < 2 ^ f.mb then r.1
      else r.1 + ((q + f.mb + f.bias - 1).toNat) * 2 ^ f.mb
    let tiny : Bool := lg < emin &&
      (lg < emin - 1 || (roundAt mode neg m e (lg - f.mb)).1 < 2 ^ (f.mb + 1))
    if code > f.maxCode then
      if f.sat then (fSigned f neg f.maxCode, fOF ||| fNX ||| fSAT)
      else
        let toInf := mode = 0 || (mode = 2 && !neg) || (mode = 3 && neg)
        (if toInf then fInf f neg else fSigned f neg f.maxCode, fOF ||| fNX)
    else (fSigned f neg code, if r.2 then (if tiny then fUF ||| fNX else fNX) else 0)

/-- A result that is a NaN: canonical (R32), with the given flags. -/
def fNaN (f : FFmt) (fl : BitVec 6) : Nat × BitVec 6 := (f.cnan, fl)

/-- NV for each signalling operand (R32). -/
def sigFlag : FVal → BitVec 6
  | .nan true => fNV
  | _ => 0

def isNaN : FVal → Bool
  | .nan _ => true
  | _ => false

/-- ±m as an integer. -/
def sInt (neg : Bool) (m : Nat) : Int := if neg then -(m : Int) else m

/-- The exact sum of two finite values, as an integer times a power of two. -/
def exactSum (n1 : Bool) (m1 : Nat) (e1 : Int) (n2 : Bool) (m2 : Nat) (e2 : Int) : Int × Int :=
  let e := min e1 e2
  (sInt n1 m1 * 2 ^ (e1 - e).toNat + sInt n2 m2 * 2 ^ (e2 - e).toNat, e)

/-- Rounds an exact integer times a power of two; an exact zero takes the given sign. -/
def fRoundInt (f : FFmt) (mode : Nat) (z : Bool) (x : Int) (e : Int) : Nat × BitVec 6 :=
  if x = 0 then (fSigned f z 0, 0) else fRound f mode (x < 0) x.natAbs e

/-- Addition of values (R138). -/
def addVal (f : FFmt) (mode : Nat) (a b : FVal) : Nat × BitVec 6 :=
  match a, b with
  | .nan s, b => fNaN f ((if s then fNV else 0) ||| sigFlag b)
  | a, .nan s => fNaN f ((if s then fNV else 0) ||| sigFlag a)
  | .inf s, .inf t => if s = t then (fInf f s, 0) else fNaN f fNV
  | .inf s, _ => (fInf f s, 0)
  | _, .inf s => (fInf f s, 0)
  | .fin n1 m1 e1, .fin n2 m2 e2 =>
    let r := exactSum n1 m1 e1 n2 m2 e2
    let z := if m1 = 0 ∧ m2 = 0 ∧ n1 = n2 then n1 else mode = 3
    fRoundInt f mode z r.1 r.2

/-- Negates a value; a NaN stays one. -/
def negVal : FVal → FVal
  | .nan s => .nan s
  | .inf s => .inf (!s)
  | .fin n m e => .fin (!n) m e

/-- The exact product of two values, none for an invalid one (∞ × 0). NaNs are handled by the callers. -/
def mulVal (a b : FVal) : Option FVal :=
  match a, b with
  | .nan s, _ => some (.nan s)
  | _, .nan s => some (.nan s)
  | .inf s, .inf t => some (.inf (s != t))
  | .inf s, .fin t m _ => if m = 0 then none else some (.inf (s != t))
  | .fin t m _, .inf s => if m = 0 then none else some (.inf (s != t))
  | .fin n1 m1 e1, .fin n2 m2 e2 => some (.fin (n1 != n2) (m1 * m2) (e1 + e2))

/-- Rounds a value. -/
def roundVal (f : FFmt) (mode : Nat) : FVal → Nat × BitVec 6
  | .nan s => fNaN f (if s then fNV else 0)
  | .inf s => (fInf f s, 0)
  | .fin n m e => fRound f mode n m e

def fAdd (f : FFmt) (mode a b : Nat) : Nat × BitVec 6 := addVal f mode (fVal f a) (fVal f b)
def fSub (f : FFmt) (mode a b : Nat) : Nat × BitVec 6 := addVal f mode (fVal f a) (negVal (fVal f b))

/-- Multiplication (R138). -/
def fMul (f : FFmt) (mode a b : Nat) : Nat × BitVec 6 :=
  let x := fVal f a
  let y := fVal f b
  if isNaN x || isNaN y then fNaN f (sigFlag x ||| sigFlag y)
  else match mulVal x y with
    | none => fNaN f fNV
    | some v => roundVal f mode v

/-- Fused multiply-add (R138): one rounding; ∞ × 0 raises NV even beside a quiet NaN. -/
def fFma (f : FFmt) (mode a b c : Nat) : Nat × BitVec 6 :=
  let x := fVal f a
  let y := fVal f b
  let z := fVal f c
  let sf := sigFlag x ||| sigFlag y ||| sigFlag z
  if isNaN x || isNaN y then fNaN f sf
  else match mulVal x y with
    | none => fNaN f (sf ||| fNV)
    | some v => addVal f mode v z

/-- Order of two values that are not NaN: -1, 0, 1. `zeros` says that −0 lies below +0 (R139). -/
def cmpVal (zeros : Bool) (a b : FVal) : Int :=
  match a, b with
  | .inf s, .inf t => if s = t then 0 else if s then -1 else 1
  | .inf s, _ => if s then -1 else 1
  | _, .inf t => if t then 1 else -1
  | .fin n1 m1 e1, .fin n2 m2 e2 =>
    let d := (exactSum n1 m1 e1 (!n2) m2 e2).1
    if d < 0 then -1 else if d > 0 then 1
    else if zeros && m1 = 0 && m2 = 0 && n1 != n2 then (if n1 then -1 else 1) else 0
  | _, _ => 0

/-- `fmin` and `fmax` (R139). `num` selects minimumNumber and maximumNumber. -/
def fMinMax (f : FFmt) (isMax num : Bool) (a b : Nat) : Nat × BitVec 6 :=
  let x := fVal f a
  let y := fVal f b
  let fl := sigFlag x ||| sigFlag y
  if isNaN x && isNaN y then fNaN f fl
  else if isNaN x then (if num then (b, fl) else fNaN f fl)
  else if isNaN y then (if num then (a, fl) else fNaN f fl)
  else
    let c := cmpVal true x y
    (if isMax then (if c ≥ 0 then a else b) else (if c ≤ 0 then a else b), fl)

/-- `fabs`, `fneg`, `fsgn` (R140): a new sign on A's magnitude. -/
def fResign (f : FFmt) (neg : Bool) (a : Nat) (fl : BitVec 6) : Nat × BitVec 6 :=
  let x := fVal f a
  if isNaN x then fNaN f (fl ||| sigFlag x) else (fSigned f neg (a % 2 ^ (f.eb + f.mb)), fl)

/-- The comparison codes of R87 on values, with the flags of R87. -/
def fCompare (f : FFmt) (code a b : Nat) : Bool × BitVec 6 :=
  let x := fVal f a
  let y := fVal f b
  let un := isNaN x || isNaN y
  let c := cmpVal false x y
  let fl := if (2 ≤ code ∧ code ≤ 5 ∧ un) then fNV else sigFlag x ||| sigFlag y
  (if code = 0 then !un && c = 0 else if code = 1 then un || c ≠ 0 else if code = 2 then !un && c < 0
   else if code = 3 then !un && c ≤ 0 else if code = 4 then !un && c > 0 else if code = 5 then !un && c ≥ 0
   else if code = 6 then !un else un, fl)

/-- `fclass` (R141). -/
def fClass (f : FFmt) (a : Nat) : Nat × BitVec 6 :=
  match fVal f a with
  | .nan true => (1, fNV)
  | .nan false => (2, 0)
  | .inf true => (4, 0)
  | .inf false => (512, 0)
  | .fin n m _ =>
    if m = 0 then (if n then 32 else 64, 0)
    else if m < 2 ^ f.mb then (if n then 16 else 128, 0)
    else (if n then 8 else 256, 0)

/-- `frnd` (R142): to an integral value, without NX. -/
def fRnd (f : FFmt) (mode a : Nat) : Nat × BitVec 6 :=
  match fVal f a with
  | .nan s => fNaN f (if s then fNV else 0)
  | .inf s => (fInf f s, 0)
  | .fin n m e =>
    if e ≥ 0 ∨ m = 0 then (a, 0)
    else ((fRound f 1 n (roundAt mode n m e 0).1 0).1, 0)

/-- `fscale` (R142). -/
def fScale (f : FFmt) (mode a : Nat) (b : Int) : Nat × BitVec 6 :=
  match fVal f a with
  | .nan s => fNaN f (if s then fNV else 0)
  | .inf s => (fInf f s, 0)
  | .fin n m e =>
    -- beyond ±4200 every result overflows or underflows alike
    fRound f mode n m (e + max (-4200) (min 4200 b))

/-- `fexpo` (R142), as a two's complement 32-bit number. -/
def fExpo (f : FFmt) (a : Nat) : Int × BitVec 6 :=
  match fVal f a with
  | .nan _ => (-(2 ^ 31), fNV)
  | .inf _ => (2 ^ 31 - 1, fNV)
  | .fin _ m e => if m = 0 then (-(2 ^ 31), fDZ) else (flog m e, 0)

/-- Quotient of magnitudes as a number of at least 200 significant bits with a sticky last bit. -/
def quoBits (m1 m2 : Nat) : Nat × Int :=
  let k := 200 + Nat.log2 m2
  let n := m1 * 2 ^ k
  (n / m2 * 2 + (if n % m2 = 0 then 0 else 1), -(k : Int) - 1)

/-- `fdiv` (R143). -/
def fDiv (f : FFmt) (mode a b : Nat) : Nat × BitVec 6 :=
  match fVal f a, fVal f b with
  | .nan s, y => fNaN f ((if s then fNV else 0) ||| sigFlag y)
  | x, .nan s => fNaN f ((if s then fNV else 0) ||| sigFlag x)
  | .inf _, .inf _ => fNaN f fNV
  | .inf s, .fin t _ _ => (fInf f (s != t), 0)
  | .fin s _ _, .inf t => (fSigned f (s != t) 0, 0)
  | .fin n1 m1 e1, .fin n2 m2 e2 =>
    if m2 = 0 then (if m1 = 0 then fNaN f fNV else (fInf f (n1 != n2), fDZ))
    else if m1 = 0 then (fSigned f (n1 != n2) 0, 0)
    else
      let q := quoBits m1 m2
      fRound f mode (n1 != n2) q.1 (q.2 + e1 - e2)

/-- `frcp` (R143). -/
def fRcp (f : FFmt) (mode a : Nat) : Nat × BitVec 6 := fDiv f mode (fSigned f false (f.bias * 2 ^ f.mb)) a

/-- Integer square root by binary digits: `k` digits of the root of `n` from `r`. -/
def isqrtGo : Nat → Nat → Nat → Nat
  | 0, _, r => r
  | k + 1, n, r =>
    let c := r + 2 ^ k
    isqrtGo k n (if c * c ≤ n then c else r)

/-- The integer square root. -/
def isqrt (n : Nat) : Nat := isqrtGo (Nat.log2 n / 2 + 1) n 0

/-- `fsqrt` (R143). -/
def fSqrt (f : FFmt) (mode a : Nat) : Nat × BitVec 6 :=
  match fVal f a with
  | .nan s => fNaN f (if s then fNV else 0)
  | .inf s => if s then fNaN f fNV else (fInf f false, 0)
  | .fin n m e =>
    if m = 0 then (a, 0)
    else if n then fNaN f fNV
    else
      let e1 := if e % 2 = 0 then e else e - 1
      let m1 := (if e % 2 = 0 then m else 2 * m) * 2 ^ 240
      let r := isqrt m1
      fRound f mode false (2 * r + if r * r = m1 then 0 else 1) (e1 / 2 - 121)

/-- `frsq` (R143). -/
def fRsq (f : FFmt) (mode a : Nat) : Nat × BitVec 6 :=
  match fVal f a with
  | .nan s => fNaN f (if s then fNV else 0)
  | .inf s => if s then fNaN f fNV else (fSigned f false 0, 0)
  | .fin n m e =>
    if m = 0 then (fInf f n, fDZ)
    else if n then fNaN f fNV
    else
      let e1 := if e % 2 = 0 then e else e - 1
      let m1 := if e % 2 = 0 then m else 2 * m
      let k := 200 + Nat.log2 m1
      let r := isqrt (2 ^ (2 * k) / m1)
      fRound f mode false (2 * r + if r * r * m1 = 2 ^ (2 * k) then 0 else 1) (-(e1 / 2) - k - 1)

/-! R144: functions of one argument, by fixed-point series with `prec` bits below the point. A value that is not exact
in these cases is irrational, so the truncated series decides its rounding unless it lies within the series' error of a
rounding boundary (PRESUMED never to happen in 16- and 32-bit formats; log entry 20). -/

def prec : Nat := 320

/-- π × 2^640 and ln 2 × 2^640, truncated. -/
def piBits : Nat := 14333329926761567455775730701799299831126131522901418329710873694248203755857903894978459978948837038337184470360789102305252273090192709030764248428292776480232102476327552185579501988876367276
def ln2Bits : Nat := 3162442850577000144542819255265044123884198300717798677536341180773118696995660441338367561063358767323571958122307070903190084685977847936741854327993944726832264493303953239866611699627604094

/-- Fixed-point product. -/
def fxMul (a b : Int) : Int := a * b / 2 ^ prec

/-- Taylor series of exp at `x` (fixed-point): `n` more terms from term `k` with current term `t`. -/
def expGo : Nat → Int → Nat → Int → Int
  | 0, _, _, t => t
  | n + 1, x, k, t => t + expGo n x (k + 1) (fxMul t x / (k + 1))

/-- exp x for a fixed-point x with |x| ≤ 1. -/
def fxExp (x : Int) : Int := expGo 90 x 0 (2 ^ prec)

/-- Alternating Taylor series of sine (from k = 1) and cosine (from k = 0). -/
def trigGo : Nat → Int → Nat → Int → Int
  | 0, _, _, t => t
  | n + 1, x2, k, t => t + trigGo n x2 (k + 2) (-(fxMul t x2 / ((k + 1) * (k + 2))))

def fxSin (x : Int) : Int := trigGo 60 (fxMul x x) 1 x
def fxCos (x : Int) : Int := trigGo 60 (fxMul x x) 0 (2 ^ prec)

/-- Series of atanh. -/
def atanhGo : Nat → Int → Nat → Int → Int
  | 0, _, _, _ => 0
  | n + 1, z2, k, t => t / k + atanhGo n z2 (k + 2) (fxMul t z2)

/-- ln y for a fixed-point y with 1 ≤ y < 2. -/
def fxLn (y : Int) : Int :=
  let one : Int := 2 ^ prec
  let z := (y - one) * one / (y + one)
  2 * atanhGo 110 (fxMul z z) 1 z

/-- A fixed-point result rounded to nearest in a format, as an inexact value: a sticky bit is appended. -/
def fRoundFx (f : FFmt) (x : Int) (e : Int) : Nat × BitVec 6 :=
  fRound f 0 (x < 0) (2 * x.natAbs + 1) (e - prec - 1)

/-- A value just below (in magnitude) ±m × 2^e, rounded to nearest. -/
def fRoundBelow (f : FFmt) (n : Bool) (m : Nat) (e : Int) : Nat × BitVec 6 :=
  fRound f 0 n (m * 2 ^ 200 - 1) (e - 200)

/-- The finite value ±m × 2^e as fixed-point, floor. -/
def toFx (n : Bool) (m : Nat) (e : Int) : Int :=
  let k := e + prec
  if k ≥ 0 then sInt n m * 2 ^ k.toNat else sInt n m / 2 ^ (-k).toNat

def fExp2 (f : FFmt) (a : Nat) : Nat × BitVec 6 :=
  match fVal f a with
  | .nan s => fNaN f (if s then fNV else 0)
  | .inf s => (if s then fSigned f false 0 else fInf f false, 0)
  | .fin n m e =>
    if m = 0 then (fSigned f false (f.bias * 2 ^ f.mb), 0)
    else if flog m e ≥ 12 then
      -- |A| ≥ 4096: beyond the range of every format
      (if n then fRound f 0 false 1 (-4096) else fRound f 0 false 1 4096)
    else
      let x := toFx n m e
      let i := x / 2 ^ prec
      let fr := x % 2 ^ prec
      if fr = 0 then fRound f 0 false 1 i
      else fRoundFx f (fxExp (fxMul fr (ln2Bits / 2 ^ 320))) i

def fLog2 (f : FFmt) (a : Nat) : Nat × BitVec 6 :=
  match fVal f a with
  | .nan s => fNaN f (if s then fNV else 0)
  | .inf s => if s then fNaN f fNV else (fInf f false, 0)
  | .fin n m e =>
    if m = 0 then (fInf f true, fDZ)
    else if n then fNaN f fNV
    else
      let lg := flog m e
      if m = 2 ^ Nat.log2 m then fRoundInt f 0 false lg 0
      else
        let y : Int := m * 2 ^ prec / 2 ^ Nat.log2 m
        let one : Int := 2 ^ prec
        let fr := fxLn y * one / (ln2Bits / 2 ^ 320)
        fRoundFx f (lg * one + fr) 0

/-- Argument reduction: quadrant and remainder (fixed-point, in [−π/4, π/4]) of a finite value. -/
def trigReduce (n : Bool) (m : Nat) (e : Int) : Nat × Int :=
  -- exact at 640 bits below the point
  let k := e + 640
  let x : Int := if k ≥ 0 then sInt n m * 2 ^ k.toNat else sInt n m / 2 ^ (-k).toNat
  let half : Int := piBits / 2
  let q := (x + half / 2) / half
  ((q % 4).toNat, (x - q * half) / 2 ^ 320)

/-- The sine of quadrant and remainder. -/
def sinOf (q : Nat) (r : Int) : Int :=
  if q = 0 then fxSin r else if q = 1 then fxCos r else if q = 2 then -fxSin r else -fxCos r

def fSin (f : FFmt) (a : Nat) : Nat × BitVec 6 :=
  match fVal f a with
  | .nan s => fNaN f (if s then fNV else 0)
  | .inf _ => fNaN f fNV
  | .fin n m e =>
    if m = 0 then (a, 0)
    else if flog m e < -20 then fRoundBelow f n m e
    else
      let q := trigReduce n m e
      fRoundFx f (sinOf q.1 q.2) 0

def fCos (f : FFmt) (a : Nat) : Nat × BitVec 6 :=
  match fVal f a with
  | .nan s => fNaN f (if s then fNV else 0)
  | .inf _ => fNaN f fNV
  | .fin n m e =>
    if m = 0 then (fSigned f false (f.bias * 2 ^ f.mb), 0)
    else if flog m e < -20 then fRoundBelow f false 1 0
    else
      let q := trigReduce n m e
      fRoundFx f (sinOf ((q.1 + 1) % 4) q.2) 0

def fTanh (f : FFmt) (a : Nat) : Nat × BitVec 6 :=
  match fVal f a with
  | .nan s => fNaN f (if s then fNV else 0)
  | .inf s => (fSigned f s (f.bias * 2 ^ f.mb), 0)
  | .fin n m e =>
    if m = 0 then (a, 0)
    else if flog m e < -20 then fRoundBelow f n m e
    else if flog m e ≥ 6 then fRoundBelow f n 1 0
    else
      -- tanh |x| = (1 - t) / (1 + t) with t = exp(-2|x|) = 2^-k × exp r
      let one : Int := 2 ^ prec
      let l2 : Int := ln2Bits / 2 ^ 320
      let x2 := 2 * toFx false m e
      let k := x2 / l2
      let t := fxExp (-(x2 - k * l2)) / 2 ^ k.toNat
      let y := (one - t) * one / (one + t)
      fRoundFx f (if n then -y else y) 0

end Sys2Proof.Machine
end

