-- ==== Sys2Proof/Machine/NumFmt.lean ====
section
/-! DEFINITION. Conversion formats and conversions (R36, R37, R145 to R149), the LC8 lattice (R38 to R40), and the exact
sum order of the press and the dot instructions (R44 to R48). -/
namespace Sys2Proof.Machine

/-- What the elements of a conversion format are (R145). -/
inductive FKind where
  | flt (f : FFmt)
  | sint (w : Nat)
  | uint (w : Nat)
  | mxi8
  | e8m0
  deriving DecidableEq, Repr

/-- The element kind of a conversion format code (R145); `.bsc` codes answer their element format. -/
def fkind (c : Nat) : FKind :=
  if c = 0 then .flt fmtF64 else if c = 1 then .flt fmtF32
  else if c = 2 ∨ c = 24 then .flt fmtF16 else if c = 3 ∨ c = 25 then .flt fmtBF16
  else if c = 4 ∨ c = 27 ∨ c = 40 ∨ c = 48 then .flt fmtE4M3 else if c = 5 ∨ c = 28 ∨ c = 41 ∨ c = 49 then .flt fmtE5M2
  else if c = 6 ∨ c = 30 ∨ c = 42 ∨ c = 50 then .flt fmtE3M2 else if c = 7 ∨ c = 31 ∨ c = 43 ∨ c = 51 then .flt fmtE2M3
  else if c = 8 ∨ c = 32 ∨ c = 44 ∨ c = 52 then .flt fmtE2M1
  else if c = 9 then .e8m0
  else if c = 10 ∨ c = 29 then .sint 8 else if c = 11 ∨ c = 26 then .sint 16 else if c = 12 then .sint 32
  else if c = 13 then .sint 64
  else if c = 14 then .uint 8 else if c = 15 then .uint 16 else if c = 16 then .uint 32 else if c = 17 then .uint 64
  else if c = 18 ∨ c = 33 then .sint 4
  else .mxi8

/-- Two's complement value of the low `w` bits. -/
def sVal (w x : Nat) : Int :=
  let y := x % 2 ^ w
  if y < 2 ^ (w - 1) then y else (y : Int) - 2 ^ w

/-- The low `w` bits of an integer. -/
def toBits (w : Nat) (x : Int) : Nat := (x % 2 ^ w).toNat

/-- An integer as a value. -/
def intVal (x : Int) : FVal := .fin (x < 0) x.natAbs 0

/-- The value of an element (R26 to R30). -/
def kindVal (k : FKind) (x : Nat) : FVal :=
  match k with
  | .flt f => fVal f x
  | .sint w => intVal (sVal w x)
  | .uint w => .fin false (x % 2 ^ w) 0
  | .mxi8 => match intVal (sVal 8 x) with
    | .fin n m _ => .fin n m (-6)
    | v => v
  | .e8m0 => if x % 256 = 255 then .nan false else .fin false 1 ((x % 256 : Nat) - 127 : Int)

/-- A value rounded to an integer range [lo, hi] in units of 2^u, with the flags given for a value beyond the range. -/
def toRange (mode : Nat) (lo hi : Int) (u : Int) (beyond : BitVec 6) (neg : Bool) (m : Nat) (e : Int) : Int × BitVec 6 :=
  let r := roundAt mode neg m e u
  let x := sInt neg r.1
  if x < lo then (lo, beyond) else if x > hi then (hi, beyond) else (x, if r.2 then fNX else 0)

/-- Conversion of a value to an element kind (R36, R147); the result is the element's bits. -/
def toKind (k : FKind) (mode : Nat) (v : FVal) : Nat × BitVec 6 :=
  match k with
  | .flt f => match v with
    | .nan s => (f.cnan, if !f.nan then fNV else if s then fNV else 0)
    | .inf s => (fInf f s, if f.inf then 0 else fSAT)
    | .fin n m e => fRound f mode n m e
  | .sint w => match v with
    | .nan _ => (0, fNV)
    | .inf s => (toBits w (if s then -(2 ^ (w - 1)) else 2 ^ (w - 1) - 1), fNV ||| fSAT)
    | .fin n m e =>
      let r := toRange mode (-(2 ^ (w - 1))) (2 ^ (w - 1) - 1) 0 (fNV ||| fSAT) n m e
      (toBits w r.1, r.2)
  | .uint w => match v with
    | .nan _ => (0, fNV)
    | .inf s => (if s then 0 else 2 ^ w - 1, fNV ||| fSAT)
    | .fin n m e =>
      let r := toRange mode 0 (2 ^ w - 1) 0 (fNV ||| fSAT) n m e
      (toBits w r.1, r.2)
  | .mxi8 => match v with
    | .nan _ => (0, fNV)
    | .inf s => (toBits 8 (if s then -128 else 127), fSAT)
    | .fin n m e =>
      let r := toRange mode (-128) 127 (-6) (fOF ||| fNX ||| fSAT) n m e
      (toBits 8 r.1, r.2)
  | .e8m0 => (0, 0)

/-- An integer format (R30), for which a conversion to another integer format saturates without a flag (R147). The MXINT8 element, which R30 lists
among them with fractional values, is taken as a fraction, as R147's rule for conversions to it takes it: its conversion to an integer
raises the flags of R36 (DEDUCED, log 122). -/
def isInt : FKind → Bool
  | .sint _ => true
  | .uint _ => true
  | _ => false

/-- A format as the target of an integer: one that has infinities overflows to them (R35, R36), E5M2 among them. -/
def FFmt.ofInt (f : FFmt) : FFmt := { f with sat := f.sat && !f.inf }

/-- The kind to which a source of a kind is converted (R36). -/
def targetFor (src dst : FKind) : FKind :=
  match dst with
  | .flt f => .flt (if isInt src then f.ofInt else f)
  | k => k

/-- Conversion of one element between two format codes (R36, R147). -/
def convert (dst src mode x : Nat) : Nat × BitVec 6 :=
  let r := toKind (targetFor (fkind src) (fkind dst)) mode (kindVal (fkind src) x)
  (r.1, if isInt (fkind dst) && isInt (fkind src) then 0 else r.2)

/-- emax of R37. -/
def emaxOf (c : Nat) : Int :=
  match fkind c with
  | .flt f => (if f.nan && !f.inf then 2 ^ f.eb - 1 else if f.inf then 2 ^ f.eb - 2 else 2 ^ f.eb - 1 : Int) - f.bias
  | _ => 0

/-- `.bsc`: the E8M0 scale of R37 step 1 for amax |A| (R148). -/
def blockScale (dst src x : Nat) : Nat × BitVec 6 :=
  match kindVal (fkind src) x with
  | .nan _ => (0xFF, fNV)
  | .inf _ => (0xFF, fNV)
  | .fin _ m e => if m = 0 then (0, 0) else ((max 0 (min 254 (flog m e - emaxOf dst + 127))).toNat, 0)

/-- `.scl`: one element under a scale (R148). -/
def scaledElem (dst src mode scale x : Nat) : Nat × BitVec 6 :=
  if scale % 256 = 255 then (0, 0)
  else
    match kindVal (fkind src) x with
    | .fin n m e => toKind (fkind dst) mode (.fin n m (e - (((scale % 256 : Nat) : Int) - 127)))
    | v => toKind (fkind dst) mode v

/-! The LC8 lattice (R38): entries 0 to 255 as their eight m digits, component 1 first. -/

def lattice0 : List Nat := [
  11111111, 11111113, 11111131, 11111311, 11113111, 11131111, 11311111, 13111111,
  31111111, 11111133, 11111313, 11111331, 11113113, 11113131, 11113311, 11131113,
  11131131, 11131311, 11133111, 11311113, 11311131, 11311311, 11313111, 11331111,
  13111113, 13111131, 13111311, 13113111, 13131111, 13311111, 31111113, 31111131,
  31111311, 31113111, 31131111, 31311111, 33111111, 11111115, 11111151, 11111333,
  11111511, 11113133, 11113313, 11113331, 11115111, 11131133, 11131313, 11131331,
  11133113, 11133131, 11133311, 11151111, 11311133, 11311313, 11311331, 11313113,
  11313131, 11313311, 11331113, 11331131, 11331311, 11333111, 11511111, 13111133]

def lattice1 : List Nat := [
  13111313, 13111331, 13113113, 13113131, 13113311, 13131113, 13131131, 13131311,
  13133111, 13311113, 13311131, 13311311, 13313111, 13331111, 15111111, 31111133,
  31111313, 31111331, 31113113, 31113131, 31113311, 31131113, 31131131, 31131311,
  31133111, 31311113, 31311131, 31311311, 31313111, 31331111, 33111113, 33111131,
  33111311, 33113111, 33131111, 33311111, 51111111, 11111135, 11111153, 11111315,
  11111351, 11111513, 11111531, 11113115, 11113151, 11113333, 11113511, 11115113,
  11115131, 11115311, 11131115, 11131151, 11131333, 11131511, 11133133, 11133313,
  11133331, 11135111, 11151113, 11151131, 11151311, 11153111, 11311115, 11311151]

def lattice2 : List Nat := [
  11311333, 11311511, 11313133, 11313313, 11313331, 11315111, 11331133, 11331313,
  11331331, 11333113, 11333131, 11333311, 11351111, 11511113, 11511131, 11511311,
  11513111, 11531111, 13111115, 13111151, 13111333, 13111511, 13113133, 13113313,
  13113331, 13115111, 13131133, 13131313, 13131331, 13133113, 13133131, 13133311,
  13151111, 13311133, 13311313, 13311331, 13313113, 13313131, 13313311, 13331113,
  13331131, 13331311, 13333111, 13511111, 15111113, 15111131, 15111311, 15113111,
  15131111, 15311111, 31111115, 31111151, 31111333, 31111511, 31113133, 31113313,
  31113331, 31115111, 31131133, 31131313, 31131331, 31133113, 31133131, 31133311]

def lattice3 : List Nat := [
  31151111, 31311133, 31311313, 31311331, 31313113, 31313131, 31313311, 31331113,
  31331131, 31331311, 31333111, 31511111, 33111133, 33111313, 33111331, 33113113,
  33113131, 33113311, 33131113, 33131131, 33131311, 33133111, 33311113, 33311131,
  33311311, 33313111, 33331111, 35111111, 51111113, 51111131, 51111311, 51113111,
  51131111, 51311111, 53111111, 11111335, 11111353, 11111533, 11113135, 11113153,
  11113315, 11113351, 11113513, 11113531, 11115133, 11115313, 11115331, 11131135,
  11131153, 11131315, 11131351, 11131513, 11131531, 11133115, 11133151, 11133333,
  11133511, 11135113, 11135131, 11135311, 11151133, 11151313, 11151331, 11153113]

/-- Entry `n` of the lattice table. -/
def latticeAt (n : Nat) : Nat :=
  if n < 64 then lattice0.getD n 0 else if n < 128 then lattice1.getD (n - 64) 0
  else if n < 192 then lattice2.getD (n - 128) 0 else lattice3.getD (n - 192) 0

/-- Component `j` of an entry, 1 to 8. -/
def latticeM (entry j : Nat) : Nat := entry / 10 ^ (8 - j) % 10

/-- Number of set bits among bits 7:1 of an index. -/
def negCount (x : Nat) : Nat := ((List.range 7).map (fun j => x / 2 ^ (j + 1) % 2)).foldl (· + ·) 0

/-- The sign of weight `j` of an LC8 index (R39). -/
def lcSign (x j : Nat) : Bool := if j = 8 then (negCount x + x % 2) % 2 = 1 else x / 2 ^ j % 2 = 1

/-- Weight `j`, 1 to 8, of an LC8 index as an E4M3 byte (R39). -/
def lcWeight (x j : Nat) : Nat :=
  let m := latticeM (latticeAt (x / 256 % 256)) j
  (if m = 1 then 0x30 else if m = 3 then 0x3C else 0x42) + if lcSign x j then 0x80 else 0

/-! Exact sums. A product is a value, or `none` for an invalid one. -/

/-- The product of a list of factors (R45): none for ∞ × 0. -/
def prodVal : List FVal → Option FVal
  | [] => some (.fin false 1 0)
  | v :: r =>
    match prodVal r with
    | none => none
    | some w => if isNaN v then some (.nan false) else if isNaN w then some w else mulVal v w

/-- A product that is a NaN, or invalid. -/
def prodBad : Option FVal → Bool
  | none => true
  | some v => isNaN v

/-- The product as a value; an invalid one is a NaN. -/
def prodOf : Option FVal → FVal
  | none => .nan true
  | some v => if isNaN v then .nan true else v

/-- Some value of a list is an infinity of the given sign. -/
def hasInf (s : Bool) (vs : List FVal) : Bool := vs.any (fun v => v = .inf s)

/-- Exact sum of the finite values of a list. -/
def sumFin : List FVal → Int × Int
  | [] => (0, 0)
  | .fin n m e :: r =>
    let s := sumFin r
    if m = 0 then s
    else if s.1 = 0 then (sInt n m, e)
    else exactSum n m e (s.1 < 0) s.1.natAbs s.2
  | _ :: r => sumFin r

/-- A value that is −0. -/
def isNegZero (v : FVal) : Bool :=
  match v with
  | .fin true 0 _ => true
  | _ => false

/-- R47: a K-step summed exactly and rounded once. -/
def sumNbv2 (f : FFmt) (acc : Nat) (ps : List (Option FVal)) : Nat × BitVec 6 :=
  let a := fVal f acc
  let vs := a :: ps.map prodOf
  if ps.any prodBad then fNaN f fNV
  else if hasInf true (vs.drop 1) && hasInf false (vs.drop 1) then fNaN f fNV
  else if isNaN a then fNaN f (sigFlag a)
  else if hasInf true vs && hasInf false vs then fNaN f fNV
  else if hasInf true vs then (fInf f true, 0)
  else if hasInf false vs then (fInf f false, 0)
  else
    let s := sumFin vs
    if s.1 = 0 then (fSigned f (vs.all isNegZero) 0, 0) else fRound f 0 (s.1 < 0) s.1.natAbs s.2

/-- A rounded product as an operand of the tree (R46). -/
def rneProd (f : FFmt) (p : Option FVal) : Nat × BitVec 6 := roundVal f 0 (prodOf p)

/-- rne(a + b) with the flags so far. -/
def addF (f : FFmt) (a b : Nat × BitVec 6) : Nat × BitVec 6 :=
  let r := fAdd f 0 a.1 b.1
  (r.1, a.2 ||| b.2 ||| r.2)

/-- R46: groups of four products (or of two), added pairwise with a rounding after each level. -/
def sumNbv1 (f : FFmt) : Nat → Nat × BitVec 6 → List (Option FVal) → Nat × BitVec 6
  | 0, acc, _ => acc
  | k + 1, acc, p0 :: p1 :: p2 :: p3 :: r =>
    sumNbv1 f k (addF f acc (addF f (addF f (rneProd f p0) (rneProd f p1)) (addF f (rneProd f p2) (rneProd f p3)))) r
  | _ + 1, acc, [p0, p1] => addF f acc (addF f (rneProd f p0) (rneProd f p1))
  | _ + 1, acc, _ => acc

/-- A K-step into a floating-point accumulator under a rule set (R44). -/
def sumStep (f : FFmt) (nbv acc : Nat) (ps : List (Option FVal)) : Nat × BitVec 6 :=
  if nbv = 1 then sumNbv1 f (ps.length / 2 + 1) (acc, 0) ps else sumNbv2 f acc ps

/-- A K-step into an INT32 accumulator (R47). -/
def sumInt (sat : Bool) (acc : Nat) (ps : List Int) : Nat × BitVec 6 :=
  let x := ps.foldl (· + ·) (sVal 32 acc)
  if sat && x > 2 ^ 31 - 1 then (2 ^ 31 - 1, fSAT)
  else if sat && x < -(2 ^ 31) then (2 ^ 31, fSAT)
  else (toBits 32 x, 0)

/-- An FP32, FP16, BF16 or FP64 format by TY (R67). -/
def tyFmt (ty : Nat) : FFmt :=
  if ty = 10 ∨ ty = 14 then fmtF16 else if ty = 11 ∨ ty = 15 then fmtBF16 else if ty = 13 then fmtF64 else fmtF32

end Sys2Proof.Machine
end

