-- ==== Sys2Proof/Machine/Flags.lean ====
section
/-! DEFINITION. Results and flags of an operation (R41, R123 to R125), the element selects (R69 to R72), and the value of
an immediate operand (R64). -/
namespace Sys2Proof.Machine

/-- What an arithmetic operation gives: the bits for D (extended to 32 bits, or 64 for a pair), a new value of the
predicate C where the operation writes it, and the floating-point flags it raises. -/
structure AluOut where
  d : Nat
  pc : Option Bool := none
  fl : BitVec 6 := 0
  deriving DecidableEq, Repr

/-- The signed integer types (R67). -/
def tySigned (ty : Nat) : Bool := 2 ≤ ty && ty ≤ 5

/-- An operand's value at an integer type: signed types as two's complement (R125). -/
def intAt (ty x : Nat) : Int := if tySigned ty then sVal (Legal.tyWidth ty) x else ((x % 2 ^ Legal.tyWidth ty : Nat) : Int)

/-- Least and greatest value of an integer type. -/
def tyLo (ty : Nat) : Int := if tySigned ty then -(2 ^ (Legal.tyWidth ty - 1)) else 0
def tyHi (ty : Nat) : Int := if tySigned ty then 2 ^ (Legal.tyWidth ty - 1) - 1 else 2 ^ Legal.tyWidth ty - 1

/-- `sat(x)` of R125. -/
def satAt (ty : Nat) (x : Int) : Int := max (tyLo ty) (min (tyHi ty) x)

/-- A result of a type as register bits (R123): the low bits, extended to 32 by the type's sign; 64 for a pair. -/
def regOf (ty : Nat) (x : Int) : Nat :=
  let w := Legal.tyWidth ty
  let y := toBits w x
  if tySigned ty && w < 32 then toBits 32 (sVal w y) else y

/-! Selects (R69 to R72). -/

/-- The source element that element `i` takes, by the 8-bit select code (R70). -/
def sel8 (k i : Nat) : Nat :=
  ([[0, 1, 2, 3], [1, 0, 3, 2], [2, 3, 0, 1], [3, 2, 1, 0], [0, 0, 0, 0], [1, 1, 1, 1], [2, 2, 2, 2], [3, 3, 3, 3],
    [0, 0, 1, 1], [2, 2, 3, 3], [0, 2, 1, 3], [0, 1, 0, 1], [2, 3, 2, 3], [1, 2, 3, 0], [3, 0, 1, 2],
    [1, 3, 0, 2]].getD k []).getD i 0

/-- The same for 4-bit elements (R71). -/
def sel4 (k i : Nat) : Nat :=
  ([[0, 1, 2, 3, 4, 5, 6, 7], [1, 0, 3, 2, 5, 4, 7, 6], [2, 3, 0, 1, 6, 7, 4, 5], [4, 5, 6, 7, 0, 1, 2, 3],
    [7, 6, 5, 4, 3, 2, 1, 0], [0, 0, 0, 0, 0, 0, 0, 0], [1, 1, 1, 1, 1, 1, 1, 1], [2, 2, 2, 2, 2, 2, 2, 2],
    [3, 3, 3, 3, 3, 3, 3, 3], [4, 4, 4, 4, 4, 4, 4, 4], [5, 5, 5, 5, 5, 5, 5, 5], [6, 6, 6, 6, 6, 6, 6, 6],
    [7, 7, 7, 7, 7, 7, 7, 7], [0, 2, 4, 6, 1, 3, 5, 7], [0, 4, 1, 5, 2, 6, 3, 7],
    [0, 0, 1, 1, 2, 2, 3, 3]].getD k []).getD i 0

/-- Element `i` of width `w`. -/
def elemAt (w x i : Nat) : Nat := x / 2 ^ (w * i) % 2 ^ w

/-- A word made of `n` elements of width `w`, element 0 lowest. -/
def ofElems (w : Nat) (f : Nat → Nat) : Nat → Nat
  | 0 => 0
  | n + 1 => ofElems w f n + f n % 2 ^ w * 2 ^ (w * n)

/-- A register value after a source select at a width (R69 to R71). -/
def selSrc (w k x : Nat) : Nat :=
  if k = 0 then x
  else if w = 16 then
    (if k = 1 then ofElems 16 (fun i => elemAt 16 x (1 - i)) 2
     else if k = 2 then ofElems 16 (fun _ => elemAt 16 x 0) 2
     else ofElems 16 (fun _ => elemAt 16 x 1) 2)
  else if w = 8 then ofElems 8 (fun i => elemAt 8 x (sel8 k i)) 4
  else if w = 4 then ofElems 4 (fun i => elemAt 4 x (sel4 k i)) 8
  else x

/-- What a destination register holds after a result is written under SELD (R72). -/
def selDst (w k old x : Nat) : Nat :=
  if k = 0 then x
  else if w = 16 then
    (if k = 1 then ofElems 16 (fun i => elemAt 16 x (1 - i)) 2
     else if k = 2 then elemAt 16 x 0 + elemAt 16 old 1 * 2 ^ 16
     else elemAt 16 old 0 + elemAt 16 x 1 * 2 ^ 16)
  else selSrc w k x

/-! Immediates (R64). Codes 32 and 33 stand for eight E2M1 and eight INT4 elements, which TY cannot name. -/

/-- An integer converted to a float format with no flag (R34 code 0). -/
def immFlt (f : FFmt) (n : Int) : Nat := (fRoundInt f.ofInt 0 false n 0).1

/-- The value an immediate operand gives at a type: converted, extended, and placed in every element. -/
def immVal (ty : Nat) (n : BitVec 17) : Nat :=
  let x := n.toInt
  if ty = 10 then immFlt fmtF16 x else if ty = 11 then immFlt fmtBF16 x
  else if ty = 12 then immFlt fmtF32 x else if ty = 13 then immFlt fmtF64 x
  else if ty = 14 ∨ ty = 20 then ofElems 16 (fun _ => immFlt fmtF16 x) 2
  else if ty = 15 ∨ ty = 21 then ofElems 16 (fun _ => immFlt fmtBF16 x) 2
  else if ty = 16 then ofElems 16 (fun _ => toBits 16 x) 2
  else if ty = 17 then ofElems 8 (fun _ => toBits 8 x) 4
  else if ty = 18 then ofElems 8 (fun _ => immFlt fmtE4M3 x) 4
  else if ty = 19 then ofElems 8 (fun _ => immFlt fmtE5M2 x) 4
  else if ty = 32 then ofElems 4 (fun _ => immFlt fmtE2M1 x) 8
  else if ty = 33 then ofElems 4 (fun _ => toBits 4 x) 8
  else if Legal.ty64 ty then toBits 64 x
  else toBits 32 x

/-- The type codes at which A, B and C are read (R123, R126 to R152, R182). An immediate of `cvt` or `pack` is read at TY, a type of raw bits, not at
its source format (DEDUCED, log 123). -/
def readTypes (op : Nat) (e : Enc) : Nat × Nat × Nat :=
  let t := Legal.tyCode op e
  if op = 0x011 then (t, t, 8)
  else if 0x017 ≤ op ∧ op ≤ 0x01B then (t, 8, t)
  else if op = 0x020 then (t, 8, 8)
  else if op = 0x021 then (t, t, 8)
  else if op = 0x024 then (1, 4, 4)
  else if op = 0x055 then (t, 4, t)
  else if op = 0x080 then (if Legal.fmt64 (Legal.fmtSrc e.b) then 1 else 0, 0, 0)
  else if op = 0x081 then
    (if Legal.fmt64 (Legal.fmtSrc e.c) then 1 else 0, if Legal.fmt64 (Legal.fmtSrc e.c) then 1 else 0, 0)
  else if op = 0x083 then (t, t, if t = 16 then 4 else 12)
  else if op = 0x084 then (t, t, if t = 17 then 4 else 12)
  else if op = 0x085 then
    (if e.var.toNat ≥ 2 then 32 else 33, if e.var.toNat ≥ 2 then 32 else 33, if e.var.toNat ≥ 2 then 12 else 4)
  else if op = 0x086 then (0, 0, 0)
  else if op = 0x0C2 then (t, 8, t)
  else if 0x0D0 ≤ op ∧ op ≤ 0x0DB then (t, 4, t)
  else (t, t, t)

end Sys2Proof.Machine
end

