-- ==== Sys2Proof/Config.lean ====
section
/-! DEFINITION. What the manual leaves to other standards or leaves open. Each is a constant without a body: nothing in
Lean can evaluate it or prove a value of it (notes/assumptions names each). -/
namespace Sys2Proof.Config

/-- SHA-384 of FIPS 180-4, which R312 names and does not define. -/
opaque sha384 : List Byte → BitVec 384

/-- AES-256-GCM of R426: ciphertext and tag of a payload under a key, an IV and the header bytes. -/
opaque gcm : BitVec 256 → Nat → List Byte → List Byte → List Byte

/-- A free value of 64 bits, by the number of free values read before it. -/
opaque freeValue : Nat → BitVec 64

/-- Whether a core's L1 keeps a line it has read, or writes a dirty line back now (R221, R223), by the number of free
values read before. -/
opaque l1Keeps : Nat → Bool
opaque l1Evicts : Nat → Nat → Bool

/-- Core clock cycles that pass in a step, by the step's cycle counter: the manual fixes no time for most actions. -/
opaque elapsed : Nat → Nat

/-- A byte of the save area whose place the manual does not give (R372), by context and offset. -/
opaque saveByte : Nat → Nat → Byte

/-- A byte that a page held at another package when it migrated here (R408), by the number of free values read before and its offset. -/
opaque foreignByte : Nat → Nat → Byte

/-- The route that the loader puts into a slot (R119, R120), by the core, the displacement as two 16-bit fields and the
feature version at which it is made: where several shortest live paths exist, which one is open. -/
opaque routeString : Nat → Nat → Nat → Nat → BitVec 64

/-- Whether the cellar's directory can hold an object beside some others (R311): no size is given. -/
opaque directoryHolds : Nat → Bool

/-- The SHA-384 digest of a translation (R320), by identity, offset, version and generation: the native code is not given. -/
opaque translationDigest : BitVec 384 → Nat → Nat → Nat → BitVec 384

/-- The package's serial number (R444). -/
opaque serial : Nat

/-- A register's field where the value that the manual gives it does not fit it (R348), by the field's width and that value. -/
opaque beyond : Nat → Nat → BitVec 64

end Sys2Proof.Config
end

