-- ==== Sys2Proof/Machine/Units.lean ====
section
/-! DEFINITION. The state of the units inside a core: threads, teams, workgroups, operations, core (06_thread.md to
12_barrier.md). Everything is plain data; registers never written read zero, so register files are sorted lists of the
non-zero ones. -/
namespace Sys2Proof.Machine

/-- Sparse data: (index, value) pairs, indices strictly rising, no value equal to the default. -/
abbrev SparseB := List (Nat × Byte)
abbrev SparseW := List (Nat × Word)

/-- A fault of R367, with the fields of the record of R371 that the raising instruction or engine knows. -/
structure FaultInfo where
  cls : Nat
  sub : Nat
  addr : Nat := 0
  /-- token of the owning or faulting operation, 255 for none -/
  token : Nat := 255
  engine : Bool := false
  imprecise : Bool := false
  gang : Bool := false
  code : Nat := 0
  ppc : Nat := 0
  deriving DecidableEq, Repr

/-- R153. -/
inductive ThreadSt where
  | run | park | hold | fault | exit
  deriving DecidableEq, Repr

/-- One result pair of a native unit (R109): readable from issue-clock time `ready`. -/
structure UnitResult where
  port : Nat
  r0 : Word
  r1 : Word
  ready : Nat
  deriving DecidableEq, Repr

/-- R207: the rank of a participant of `cst` or `exl`, and the address that a participant has computed: each stands until the participant
has executed. -/
structure Held where
  rank : Nat
  addr : Option Nat
  deriving DecidableEq, Repr

structure Thread where
  st : ThreadSt
  /-- virtual address of the next instruction (portable word 0, or native clause header) -/
  pc : Nat
  v : SparseW
  p : BitVec 16
  /-- return stack, newest first, at most 64 (R167) -/
  ret : List Nat
  /-- the private `.lane` bytes (R194) -/
  lane : SparseB
  held : Option Held
  /-- native `rf` registers a1 to a254 (R104) -/
  a : SparseW
  results : List UnitResult
  /-- where a HOLD waits: true for `rjoin`, false for `reconv` (R171, R172) -/
  holdJoin : Bool
  deriving DecidableEq, Repr

/-- R168. -/
structure LoopEntry where
  count : Nat
  head : Nat
  last : Nat
  deriving DecidableEq, Repr

/-- A barrier named by an instruction or a link: a core barrier of the workgroup, or an object's address (R302). -/
inductive BarRef where
  | core (n : Nat)
  | obj (addr : Nat)
  deriving DecidableEq, Repr

/-- A pending link of a token (R308). -/
structure Link where
  wait : Option (BarRef × Nat)
  arr : Option BarRef
  deriving DecidableEq, Repr

/-- What a team in STALL waits for (R154). The program PC of a `sleep` has passed it already. -/
inductive Stall where
  /-- element of a read stream not arrived (R214) -/
  | stream (q : Nat)
  /-- `sclose` of a write stream, or a stream a copy holds (R213, R289) -/
  | streamBusy (q : Nat)
  /-- next feed value not arrived (R181) -/
  | feed
  /-- native completion flags (R99, R110): flags named by the mask must clear -/
  | flags (m : Nat)
  /-- a completion flag at 255 (R110) -/
  | flagFull (f : Nat)
  /-- the token's operation must end (R247, R269, R293) -/
  | token (t : Nat)
  /-- a place in the press, with direct mode free (R244, R276) -/
  | pressFull
  /-- a BUSY place in the racker (R280) -/
  | rackerFull
  /-- free range-lock entries (R234) -/
  | locks (n : Nat)
  /-- a barrier phase (R305, R306, R308) -/
  | phase (b : BarRef) (ph : Nat)
  /-- a free entry of channel `ch` of workgroup `wg` (R188) -/
  | chanSend (wg ch : Nat)
  /-- an entry of the own channel (R188) -/
  | chanRecv (ch : Nat)
  /-- free bytes of a ring (R290) -/
  | ringRoom (r bytes : Nat)
  /-- no BUSY operation names the ring (R273) -/
  | ringIdle (r : Nat)
  /-- direct mode: no nest operation QUEUED or ACTIVE on the core (R276) -/
  | direct
  /-- every started micro-tile has retired (R276) -/
  | directRetire
  /-- replies or acknowledgements of remote accesses outstanding (R170, R239) -/
  | remote
  /-- a send key for the peer (R428), room in the send store (R415), the end of a gang's quiet (R383) -/
  | key (peer : Nat)
  | sendStore
  | quiet
  /-- a page that a withdrawal must read packet headers from (R357) -/
  | withdraw
  /-- `sleep` until the given `cc` count or TAI time (R394) -/
  | sleepCc (t : Nat)
  | sleepTai (t : Nat)
  /-- the translation of the function at an address (R330) -/
  | translate (addr : Nat)
  /-- stopped at `brk` (R370) -/
  | brk
  /-- no thread in RUN while some are in PARK or HOLD -/
  | noRun
  deriving DecidableEq, Repr

/-- Why a team is in REPLAY (R177, R369): the page that must be resolved, or the lock owner that must end. -/
inductive ReplayWhy where
  | page (va : Nat)
  | lock (op : Nat)
  deriving DecidableEq, Repr

/-- R154. FREE is a team slot that holds no team; `zero` is a team being zeroed as R157 says. -/
inductive TeamSt where
  | zero
  | ready
  | stall (why : Stall)
  | replay (why : ReplayWhy)
  | done
  | saved
  deriving DecidableEq, Repr

/-- A fetched stream element (R214, R215): its value, or the fault its consumption raises. -/
structure StreamElem where
  val : Nat
  fault : Option FaultInfo
  deriving DecidableEq, Repr

/-- A stream register (R77, R213, R289). `pos` is the next element to consume or append; `buf` the fetched elements
from `pos` on. -/
structure Stream where
  bound : Bool
  base : Nat
  pos : Nat
  buf : List StreamElem
  /-- the copy that holds the register (R289) -/
  copy : Option Nat
  total : Nat
  write : Bool
  esz : Nat
  deriving DecidableEq, Repr

/-- A nest row (R250), as its eight words. -/
abbrev NestRow := List Word

/-- A combining-buffer entry (R241): 64 bytes of a remote page held for one thread. -/
structure CombEntry where
  thread : Nat
  /-- virtual address of the block, a multiple of 64 -/
  block : Nat
  bytes : SparseB
  mask : BitVec 64
  opened : Nat
  ppc : Nat
  deriving DecidableEq, Repr

/-- A WRITE or ATOMIC not yet acknowledged (R239, R420): the request, the package that must answer, whether the page is mirrored, and for
an imprecise fault the portable PC of the store and its address (R238, R423). -/
structure Unacked where
  req : Nat
  peer : Nat
  mir : Bool
  ppc : Nat
  va : Nat
  deriving DecidableEq, Repr

/-- A store of another team of the same tier, which a team of a context may not have seen yet (R221): where it stands (a scratchpad by
workgroup, a context's die bytes, physical bytes by core), the bytes it replaced, and whether a release has covered it since (R224). -/
structure Stale where
  ctx : Nat
  wg : Nat
  tix : Nat
  space : Nat
  tag : Nat
  lo : Nat
  old : List Byte
  covered : Bool
  deriving DecidableEq, Repr

/-- A remote load or atomic of a team waiting for its reply (R419, R421). -/
structure RemoteWait where
  /-- number of the request, whose low 16 bits stand in the packet's RID -/
  req : Nat
  peer : Nat
  /-- threads whose destination the reply writes, in mask order; one for a uniform request -/
  threads : BitVec 32
  d : Operand
  ty : Nat
  size : Nat
  /-- an `atom`, its operation and operand, for the flags of its result (R208) -/
  atomic : Bool
  aop : Nat
  operand : Nat
  /-- the payload sent, for a second request (R425) -/
  pay : List Byte
  /-- scope of an acquire, 0 for none (R419) -/
  acq : Nat
  /-- address asked for, for a fault or a second request (R423, R425) -/
  va : Nat
  conf : Bool
  ppc : Nat
  /-- threads wait in PARK (R170) -/
  parked : Bool
  deriving DecidableEq, Repr

/-- A long-latency operation of native code that has not completed (R110): its flag, and its WREG write for one thread or for the team.
`rel` marks a release store, which completes when everything the team sent is acknowledged, with the scope of the acquire that comes then;
`due` is the `cc` from which it can complete (R107), `seq` its place among the commit records. -/
structure LongLat where
  flag : Option Nat
  wreg : Nat
  val : Word
  hi : Word
  wide : Bool
  thread : Option Nat
  rel : Option Nat
  due : Nat
  seq : Nat
  deriving DecidableEq, Repr

/-- An operation that a native bundle has triggered and that has still to execute: its unit port (0 for CTL), major
opcode and fields, the threads, and for a long-latency one WREG and flag. -/
structure NatSub where
  port : Nat
  op : Nat
  e : Enc
  m : Nat
  mask : BitVec 32
  uni : Bool
  flag : Option Nat
  deriving DecidableEq, Repr

/-- What an operation of a native clause has met (R116). -/
inductive NatWhy where
  | replay (why : ReplayWhy)
  | fatal (f : FaultInfo)
  deriving DecidableEq, Repr

/-- A fault recorded against threads of a native team, to be delivered before the next clause whose WAIT names the flag, or at the next STOP
point (R116). -/
structure NatFault where
  mask : BitVec 32
  flag : Option Nat
  why : NatWhy
  deriving DecidableEq, Repr

/-- The state of native threads at the latest COMMIT record they have passed (R116, R327), the record's clause and index, and when each
thread and the team passed it, among the identities of the package. -/
structure CommitRec where
  pc : Nat
  sidx : Nat
  at_ : Nat
  since : List (Nat × Nat)
  threads : List (Nat × Thread)
  gf : SparseW
  fstat : BitVec 6
  deriving DecidableEq, Repr

/-- The native loop unit's entry (R115). -/
structure HwLoop where
  count : Nat
  head : Nat
  last : Nat
  deriving DecidableEq, Repr

/-- Native state of a team (R99 to R118). -/
structure NatTeam where
  /-- a clause has started, with its address and these threads; its next bundle -/
  started : Bool
  pc : Nat
  mask : BitVec 32
  bundle : Nat
  /-- the occupancy of the bundle under way, 0 before its first issue; its active threads, and those that have not executed it -/
  occ : Nat
  act : BitVec 32
  todo : BitVec 32
  /-- operations that the executing thread has triggered; operations of the exchange unit, which act when every thread has executed -/
  subs : List NatSub
  late : List NatSub
  /-- how many threads have triggered the access unit in the bundle (R206) -/
  rank : Nat
  /-- the threads for which the CTL operation is due; it has still to act once for the whole clause -/
  ctl : Option (BitVec 32)
  ctlLeft : Bool
  /-- the result of a CTL operation that acts once in a bundle, for the threads that come later -/
  once : Option (Word × Word)
  /-- threads of the clause that a CTL transfer has sent elsewhere -/
  jumped : BitVec 32
  /-- what the team waits for at the end of the clause -/
  post : Option Stall
  gf : SparseW
  uniResults : List UnitResult
  flags : List Nat
  outstanding : List LongLat
  loops : List HwLoop
  /-- faults recorded and not delivered -/
  faults : List NatFault
  /-- threads whose moves have met a team-replayable fault: they leave the clause, with the latest cause -/
  stuck : BitVec 32
  why : ReplayWhy
  /-- a long-latency operation is executing, whose context-fatal fault is recorded here -/
  deferring : Bool
  deferred : Option FaultInfo
  /-- the loop head that a back edge has reached, a STOP point (R113) -/
  back : Option Nat
  /-- an alias rollback is being made good: HOIST records nothing up to the check point -/
  inOrder : Bool
  /-- a hold of direct mode saved by a cut, to be acquired again (R278) -/
  direct : Bool
  /-- the record of the IDEM clause that has opened a region that has not ended (R117) -/
  region : Option CommitRec
  deriving DecidableEq, Repr

structure Team where
  tix : Nat
  lane : Nat
  slot : Nat
  st : TeamSt
  threads : List Thread
  s : SparseW
  /-- mask stack, top first; its length is the depth plus 1 (R162) -/
  masks : List (BitVec 32)
  loops : List LoopEntry
  fstat : BitVec 6
  prsFstat : BitVec 6
  pfmt : BitVec 32
  /-- writes of PFMT inside the shadow of R118: (issue-clock time of effect, value), oldest first -/
  pfmtLater : List (Nat × BitVec 32)
  fmask : BitVec 32
  wdog : BitVec 32
  wdogExp : Bool
  /-- the next lead selection is made by R173 with this Y -/
  yieldAt : Option Nat
  /-- participants of a stalled instruction that have still to execute it (R179) -/
  pend : Option (BitVec 32)
  /-- the phase a `bsync` has arrived in and still waits for (R305) -/
  heldPhase : Option (BarRef × Nat)
  /-- the phase that a cut has found the team waiting for (R310): the barrier keeps the waiter until the team issues again -/
  savedWait : Option (BarRef × Nat)
  /-- a wait that has ended, before its instruction goes on (R305, R306) -/
  passed : Option (BarRef × Nat)
  nest : List NestRow
  nrows : Nat
  /-- token to operation identity -/
  tokens : List (Nat × Nat)
  links : List (Nat × Link)
  feedPos : Nat
  /-- the decision queue: feed values arrived and not consumed, oldest first, at most 64 (R181) -/
  feedBuf : List Word
  streams : List (Nat × Stream)
  /-- faults to deliver at the next STOP point (R238, R240) -/
  pendFaults : List FaultInfo
  comb : List CombEntry
  remote : List RemoteWait
  /-- remote stores and atomics not yet acknowledged (R239) -/
  unacked : List Unacked
  /-- the team has issued a release that completes with those acknowledgements, and issues nothing before (R239): the scope of the acquire
  that comes then, 0 for none (R228) -/
  awaits : Option Nat
  /-- a fence's release at this scope, which the team's next store performs (R227) -/
  relPend : Option Nat
  /-- answers to requests whose result is no register: blocks read for `vld` and `vacc`, answers of a remote barrier object;
  by virtual address -/
  fetched : List (Nat × List Byte)
  /-- blocks read for a read stream of another package's page: stream register, address, bytes (R214) -/
  streamBlocks : List (Nat × Nat × List Byte)
  /-- issue clock of R108 -/
  clock : Nat
  /-- a `halt` has reached the team, which ends at its next STOP point (R393) -/
  halting : Bool
  /-- the address past the `brk` the team has stopped at (R370) -/
  brkNext : Option Nat
  nat : NatTeam
  commit : CommitRec
  deriving DecidableEq, Repr

/-- A core barrier (R298). -/
structure CoreBar where
  armed : Bool
  /-- 0: LIVE; otherwise EXPECT of COUNTED mode -/
  expect : Nat
  arr : BitVec 64
  count : Nat
  phase : BitVec 32
  deriving DecidableEq, Repr

/-- R255. -/
structure Ring where
  base : Nat
  size : Nat
  head : Nat
  tail : Nat
  deriving DecidableEq, Repr

/-- The boundary triple of R195 in KiB, with teams per lane and workgroups per core. -/
structure Triple where
  b0 : Nat
  b1 : Nat
  b2 : Nat
  n : Nat
  wmax : Nat
  deriving DecidableEq, Repr

/-- R155. FREE is a slot that holds no workgroup. -/
inductive WgSt where
  | alloc | run | done | saved
  deriving DecidableEq, Repr

structure Workgroup where
  uid : Nat
  ctx : Nat
  node : Nat
  core : Nat
  wgx : Nat
  /-- neighbourhood: identity, index, own position, shape -/
  nbId : Nat
  nbx : Nat
  nbPosX : Nat
  nbPosY : Nat
  nbW : Nat
  nbH : Nat
  triple : Triple
  st : WgSt
  /-- a cut has found every team at its STOP point: its press operations issue and start nothing more (R260) -/
  pressStop : Bool
  teams : List Team
  teamSize : Nat
  /-- scratchpad bytes SW -/
  sw : Nat
  scratch : SparseB
  rings : List Ring
  bars : List CoreBar
  chans : List (List Word)
  /-- vat tiles allocated -/
  vt : Nat
  /-- vat words: index = tile × 4096 + row × 64 + column -/
  vat : SparseW
  /-- private `.lane` bytes per thread -/
  priv : Nat
  /-- code object and kernel index -/
  obj : Nat
  kernel : Nat
  deriving DecidableEq, Repr

/-- Status of a copy or press operation (R245, R279). `killed` is a copy of a discarded context with an element started: it starts no further
element, ends without signalling anything, and is BUSY until then (R281). -/
inductive OpSt where
  | queued | active | busy | done | faulted | rejected | overflow | saved | killed
  deriving DecidableEq, Repr

/-- A started micro-tile: its step, the NBV in force and the `cc` of its start (R248). -/
structure Started where
  step : Nat
  nbv : Nat
  at_ : Nat
  deriving DecidableEq, Repr

/-- The body of a press operation (R245 to R258). -/
structure PressBody where
  rows : List NestRow
  pfmt : BitVec 32
  cbase : Nat
  ringA : Nat
  ringB : Nat
  /-- head counts of the rings when `pgo` issued (R251) -/
  headA : Nat
  headB : Nat
  /-- slots popped by the operation so far -/
  popsA : Nat
  popsB : Nat
  next : Nat
  wbase : Nat
  doneBits : BitVec 64
  started : List Started
  total : Nat
  deriving DecidableEq, Repr

/-- The body of a copy (R287 to R292): its kind, its command block or the three values of `cpy`, and its progress. -/
structure CopyBody where
  kind : Nat
  block : List Byte
  dst : Nat
  src : Nat
  len : Nat
  /-- next element -/
  idx : Nat
  total : Nat
  bytes : Nat
  flags : BitVec 6
  why : Nat
  deriving DecidableEq, Repr

/-- The body of an `rpart` (R431 to R440). Its stages: 0 issued, 1 announced, 2 histograms, 3 counts, 4 records, 5 written. -/
structure RpartBody where
  block : List Byte
  stage : Nat
  /-- boundaries B[0] to B[P], once known -/
  bounds : List Nat
  /-- histogram, count and record bytes received from each member so far, in order -/
  hist : List (Nat × List Byte)
  cnts : List (Nat × List Byte)
  recs : List (Nat × List Byte)
  /-- records received, and whether some member kept one -/
  recv : Nat
  kept : Bool
  why : Nat
  deriving DecidableEq, Repr

inductive OpBody where
  | press (b : PressBody)
  | copy (b : CopyBody)
  | rpart (b : RpartBody)
  deriving DecidableEq, Repr

/-- A copy or press operation (R244, R279). -/
structure Op where
  id : Nat
  ctx : Nat
  wg : Nat
  tix : Nat
  tk : Nat
  core : Nat
  st : OpSt
  scope : Nat
  link : Link
  /-- portable PC of the issuing instruction -/
  ppc : Nat
  /-- READs of the engine not yet answered (R419): (request number, address, bytes) -/
  waits : List (Nat × Nat × Nat)
  /-- bytes of other packages' pages read for the next element, by virtual address -/
  got : List (Nat × Byte)
  /-- WRITEs of the engine not yet acknowledged -/
  unacked : List Unacked
  /-- the peer whose send key the operation waits for (R428) -/
  keyWait : Option Nat
  body : OpBody
  deriving DecidableEq, Repr

/-- An entry of a core's range-lock table (R234), kept in order of registration. -/
structure Lock where
  space : Nat
  /-- identity of the space: workgroup for `.core`, context otherwise; thread for `.lane` -/
  tag : Nat
  lo : Nat
  hi : Nat
  write : Bool
  op : Nat
  tk : Nat
  deriving DecidableEq, Repr

/-- One byte of a line held by a core's L1 (R199). -/
structure L1Byte where
  addr : Nat
  val : Byte
  dirty : Bool
  deriving DecidableEq, Repr

/-- An entry of a lane's alias-detection table (R326): its team, thread and bytes, and the fault that the load met. -/
structure AliasEntry where
  lane : Nat
  wg : Nat
  tix : Nat
  thread : Nat
  space : Nat
  lo : Nat
  hi : Nat
  flt : Option FaultInfo
  deriving DecidableEq, Repr

/-- A mapped page of a context, the content of its leaf (R398) with what firmware keeps beside it (R406). -/
structure Leaf where
  va : Nat
  sz : Nat
  w : Bool
  x : Bool
  res : Bool
  mig : Bool
  mir : Bool
  conf : Bool
  d : Bool
  zf : Bool
  /-- RES = 1: physical address of the frame; RES = 0, ZF = 0: the backing slot -/
  frame : Nat
  home : Nat
  peer : Nat
  /-- the backing slot firmware keeps for the page -/
  slot : Option Nat
  /-- mapped with RES: the frame is the host's and returns to it -/
  hostFrame : Bool
  /-- an old frame freed when migration ends (R408), and stores held meanwhile (R238): (address, bytes) -/
  heldStores : List (Nat × List Byte)
  deriving DecidableEq, Repr

/-- A table of a context's tree (R396): its level, its physical address, and its valid non-leaf entries by index, as words of R397. Leaf entries
stand in the context's pages. -/
structure Table where
  level : Nat
  base : Nat
  nexts : List (Nat × DWord)
  deriving DecidableEq, Repr

/-- A cached translation (R402): a copy of the leaf that mapped the page. -/
structure TlbEntry where
  ctx : Nat
  leaf : Leaf
  deriving DecidableEq, Repr

/-- A direct-mode micro-tile that has started and not retired (R276). -/
structure DirectStart where
  wg : Nat
  tix : Nat
  tile : Nat
  offA : Nat
  offB : Nat
  pfmt : BitVec 32
  nbv : Nat
  at_ : Nat
  deriving DecidableEq, Repr

/-- A line of a core's instruction buffer (R15): 256 bytes of a context's code by address, with the number of teams whose next instruction
stands in it. -/
structure CodeLine where
  ctx : Nat
  line : Nat
  refs : Nat
  deriving DecidableEq, Repr

/-- A grid core, by its virtual core number, or a firmware core, which has the same units (R11, R15). -/
structure Core where
  id : Nat
  phys : Nat
  triple : Option Triple
  l1 : List L1Byte
  l1ctx : Nat
  locks : List Lock
  bankser : DWord
  aliasRb : DWord
  alias_ : List AliasEntry
  tlb : List TlbEntry
  /-- `cc` of the last micro-tile start, and starts since the last idle interval (R259) -/
  lastStart : Option Nat
  rampStarts : Nat
  /-- the operation that started a micro-tile last (R244) -/
  lastOp : Nat
  /-- holder of direct mode: workgroup and team (R276) -/
  direct : Option (Nat × Nat)
  directStarted : List DirectStart
  /-- the NBV value in force on the core for each context that has had a workgroup placed on it (R44) -/
  nbv : List (Nat × Nat)
  /-- the instruction buffer, newest line first (R15) -/
  ibuf : List CodeLine
  /-- route slots 0 to 63 (R120), the filled ones -/
  routes : List (Nat × DWord)
  deriving DecidableEq, Repr

end Sys2Proof.Machine
end

