-- ==== Sys2Proof/Machine/Device.lean ====
section
/-! DEFINITION. The state of the package outside its cores: code objects and the cellar (13_kernel.md), queues and nodes
(14_queue.md), contexts (15_context.md), pages (16_page.md), link (17_link.md), host, firmware and power (18_host.md). -/
namespace Sys2Proof.Machine

/-- A symbol of a code object (R79, R330). -/
structure Sym where
  name : List Byte
  addr : Nat
  global : Bool
  func : Bool
  defined : Bool
  deriving DecidableEq, Repr

/-- A linkage entry (R329): its address, the symbol it is bound to, its trampoline, the target it has been written with,
and the target of a resolution under way. -/
structure LinkEntry where
  addr : Nat
  sym : List Byte
  tramp : Nat
  bound : Option Nat
  resolving : Option Nat
  deriving DecidableEq, Repr

/-- R314. -/
inductive ObjSt where
  | loaded | quarantined | unloading | unloaded
  deriving DecidableEq, Repr

/-- A code object as one context holds it (R311 to R314). -/
structure CodeObj where
  handle : Nat
  ctx : Nat
  st : ObjSt
  order : Nat
  identity : BitVec 384
  native : Bool
  priv : Bool
  /-- virtual address and size of `.text` -/
  text : Nat
  textSize : Nat
  digests : List (BitVec 384)
  /-- the loader's image of `.text` after relocation, from which the digests and the word 0 addresses come -/
  image : List Byte
  kernels : List Byte
  streams : List Byte
  rings : List Byte
  nests : List Byte
  side : List Byte
  syms : List Sym
  linkage : List LinkEntry
  /-- virtual ranges mapped for the object: (base, bytes) -/
  ranges : List (Nat × Nat)
  /-- the unload request waiting: its node -/
  unloadNode : Option Nat
  /-- loaded for a request of another package of the gang: that package and its number (R311) -/
  gangKey : Option (Nat × Nat)
  deriving DecidableEq, Repr

/-- R315. -/
inductive DirSt where
  | translating | translated | hot | reoptimised | failed
  deriving DecidableEq, Repr

/-- The profile counts of one context for one generation of a translation (R323, R392). -/
structure ProfCount where
  ctx : Nat
  gen : Nat
  nodes : Nat
  rollbacks : Nat
  /-- sampled issues, as far as a read has shown them -/
  samples : Nat
  deriving DecidableEq, Repr

/-- An entry of the translation directory (R315). -/
structure DirEntry where
  id : Nat
  identity : BitVec 384
  off : Nat
  version : Nat
  st : DirSt
  gen : Nat
  kernel : Bool
  prof : List ProfCount
  /-- order of the last dispatch, for eviction (R319) -/
  lastUse : Nat
  /-- register spill per team of the current translation, in KiB (R194) -/
  spill : Nat
  /-- packages asked for the translation that have not answered (R320) -/
  asked : List Nat
  /-- the translation, which another package sent, holds a reserved code (R90, R320) -/
  reserved : Bool
  deriving DecidableEq, Repr

/-- A verified or failed code page of an identity (R321): its bytes when verified. -/
structure CodePage where
  identity : BitVec 384
  page : Nat
  bytes : Option (List Byte)
  deriving DecidableEq, Repr

/-- R333. -/
inductive QueueSt where
  | free | active | suspended | error
  deriving DecidableEq, Repr

/-- A user queue with its control block (R333, R360). -/
structure Queue where
  id : Nat
  ctx : Nat
  st : QueueSt
  log2sz : Nat
  prio : Nat
  base : Nat
  widx : Nat
  ridx : Nat
  ticket : Nat
  ridxAddr : Nat
  err : Nat
  eoff : Nat
  msix : Nat
  lostC : Bool
  lostR : Bool
  /-- sequence word of the control block (R360, R361) -/
  seq : BitVec 32
  /-- starts of unparsed packets that a withdrawal has completed (R357) -/
  withdrawn : List (Nat × Nat)
  /-- tickets at or above CDONE that have completed, and CDONE (R368) -/
  doneTickets : List Nat
  cdone : Nat
  /-- publication of RIDX waiting for its page (R334) -/
  publish : Option Nat
  deriving DecidableEq, Repr

/-- What a node does (R340, R341). -/
inductive NodeKind where
  | launch | load | unload | join
  deriving DecidableEq, Repr

/-- A graph node (R344) from stage 2 on. -/
structure Node where
  id : Nat
  ctx : Nat
  queue : Nat
  ticket : Nat
  stamp : Nat
  prio : Nat
  /-- stage under R23 -/
  stage : Nat
  kind : NodeKind
  packet : List Byte
  tag : Nat
  compl : Nat
  cscope : Nat
  irq : Bool
  pred : Nat
  succs : List Nat
  /-- LAUNCH: object, kernel, next `.wgx` and `.nbx`, start die (R352), argument copy (R355), SYS_FEATVER generation -/
  obj : Nat
  kernel : Nat
  triple : Option Triple
  nextWgx : Nat
  nextNbx : Nat
  startDie : Option Nat
  args : List Word
  feat : Nat
  dir : Option Nat
  dirGen : Nat
  /-- workgroups placed and not DONE -/
  running : Nat
  /-- no further workgroup is placed after `halt.node` (R393) -/
  halted : Bool
  passedOver : Nat
  /-- objects a team of the node has entered (R331) -/
  entered : List Nat
  /-- outcome waiting to be recorded: (STATUS, REASON, VALUE) -/
  outcome : Option (Nat × Nat × Nat)
  /-- LOAD: the packages of the gang that have not loaded the object, the highest status so far and the handle here (R311) -/
  loading : Option (List Nat × Nat × Nat)
  deriving DecidableEq, Repr

/-- R365. -/
inductive CtxSt where
  | free | running | polite | cutting | saved | resuming | faulted
  deriving DecidableEq, Repr

/-- A timed gang record (R379). -/
structure GangRec where
  kind : Nat
  time : Nat
  grace : Nat
  gen : Nat
  members : List Nat
  deriving DecidableEq, Repr

/-- A fault record (R371). -/
structure FaultRec where
  cls : Nat
  sub : Nat
  flags : Nat
  pkg : Nat
  lane : Nat
  core : Nat
  tslot : Nat
  token : Nat
  others : Nat
  tmask : BitVec 32
  ppc : Nat
  addr : Nat
  node : Nat
  time : Nat
  code : Nat
  dropBrk : Nat
  deriving DecidableEq, Repr

/-- The save area of a context (R372): its header fields, and the saved workgroups with their operations. -/
structure SaveArea where
  kind : Nat
  time : Nat
  nnode : Nat
  nwg : Nat
  fault : Option FaultRec
  missing : List Nat
  gen : Nat
  cregs : List Nat
  ladder : List Nat
  /-- saved workgroups not yet placed again, with their operations -/
  wgs : List Workgroup
  ops : List Op
  /-- range locks of the saved operations (R237) -/
  locks : List Lock
  /-- traffic counts frozen at a gang's save (R385) -/
  frozenTx : List (Nat × Nat)
  frozenRx : List (Nat × Nat)
  deriving DecidableEq, Repr

/-- A page operation under way or waiting for its turn (R404): its number, OP and block, the pages done, and whether the next page is
MIGRATING. -/
structure PageJob where
  id : Nat
  op : Nat
  b : PageBlock
  done : Nat
  moving : Bool
  /-- submitted to another member of the gang: that package and its number -/
  from_ : Option (Nat × Nat)
  /-- applied here, REASON and VALUE, and the members that have not applied it -/
  result : Option (Nat × Nat)
  waits : List Nat
  deriving DecidableEq, Repr

structure Context where
  id : Nat
  st : CtxSt
  nbv : Nat
  brk : Bool
  lrh : Bool
  gang : Bool
  gangId : Nat
  politeWindow : Nat
  quota : Nat
  budget : DWord
  dq : Nat
  fqvec : Nat
  coreset : BitVec 1024
  fpBase : Nat
  fpSize : Nat
  bkBase : Nat
  bkSize : Nat
  doorbell : Nat
  /-- the creation record's values that REARM restores: NBV, BRK, LRH, POLITE, QUOTA, BUDGET -/
  created : List Nat
  pages : List Leaf
  /-- the tables of the tree (R396, R397); the root is the one of level 3 -/
  tables : List Table
  /-- frames of the pool in use, as physical bases of 256 KiB units -/
  usedFrames : List Nat
  /-- die scratchpad bytes: index = die × 2^26 + offset -/
  dieq : SparseB
  ladder : List Nat
  /-- charges of running workgroups: (uid, core, EBW, EPWR) -/
  charges : List (Nat × Nat × Nat × Nat)
  /-- fault queue (R443) -/
  fqHead : Nat
  fqTail : Nat
  fq : List (Nat × FaultRec)
  fqWaiting : Option FaultRec
  dropBrk : Nat
  cause : Option FaultRec
  save : SaveArea
  heldWithdrawals : List Nat
  /-- PREEMPT or RESUME requests not completed: (code, COMPL) -/
  openReqs : List (Nat × Nat)
  /-- requests waiting for their turn (R459) -/
  waiting : List (Nat × Request)
  /-- a DESTROY under way, held until copies that have started an element have ended (R281): its COMPL -/
  destroying : Option Nat
  politeAt : Nat
  firmwarePreempt : Bool
  cutAt : Nat
  /-- resumes are served in this order (R376) -/
  resumeOrder : Nat
  /-- the gang gate's OPEN (R382) -/
  gangOpen : Bool
  gangPending : Option GangRec
  gangGen : Nat
  gangMembers : List Nat
  /-- arrivals at gang barriers: generation × 256 + package -/
  gangArrived : List Nat
  gangArrivedAt : Nat
  gangTaken : Bool
  /-- a PREEMPT instant was taken: no further gang request is sent (R383); its counts have been frozen (R385) -/
  gangQuiet : Bool
  gangFrozen : Bool
  /-- the counts and unanswered flag last announced to each member (R385) -/
  announced : List (Nat × Nat × Nat × Bool)
  /-- joins of `rpart` rounds received or made: (package, ROUND, compared fields) (R434) -/
  rpartJoins : List (Nat × Nat × List Byte)
  peerCounts : List (Nat × Nat × Nat × Bool)
  txc : List (Nat × Nat)
  rxc : List (Nat × Nat)
  /-- blocks of other packages' pages that firmware, the loader or the queue processor has read, by virtual address, and
  the READs not yet answered: (request number, address) -/
  fetched : List (Nat × List Byte)
  asks : List (Nat × Nat)
  /-- page operations in arrival order, the first under way (R404) -/
  pageOps : List PageJob
  deriving DecidableEq, Repr

/-- A fabric key (R427). -/
structure SendKey where
  key : BitVec 256
  ix : Nat
  ctr : Nat
  /-- 1 LIVE, 2 WARN, 3 EXHAUSTED -/
  st : Nat
  deriving DecidableEq, Repr

/-- What kind of packet stands in a store (R414). -/
inductive PktType where
  | read | write | atomic | reply | ack | rpart | control (m : Control)
  deriving DecidableEq, Repr

/-- A packet in the send store (R415) or the relay store (R416). -/
structure OutPkt where
  type : PktType
  p : Packet
  /-- TAI ns of the last send; none while it waits for its first -/
  sentAt : Option Nat
  firstAt : Nat
  deriving DecidableEq, Repr

/-- State kept per peer package (R415 to R418, R427). -/
structure Peer where
  id : Nat
  txSeq : BitVec 32
  rxSeq : BitVec 32
  /-- packets that arrived early -/
  early : List OutPkt
  credit : Nat
  reach : Nat
  txKeys : List (Nat × BitVec 256)
  txKey : Option SendKey
  /-- a send key installed and not yet current -/
  txNext : Option (Nat × BitVec 256)
  /-- TAI ns at which a CONF packet was first refused under the present key: the exhaustion timer (R428) -/
  refused : Option Nat
  rx0 : Option (BitVec 256)
  rx1 : Option (BitVec 256)
  /-- peer's ports known to be UP -/
  portsUp : List Nat
  /-- relay credit has been granted to the peer (R416) -/
  granted : Bool
  deriving DecidableEq, Repr

/-- An optical port (R412). -/
structure Port where
  st : Nat
  crcf : Nat
  crcCycle : Nat
  trains : Nat
  deriving DecidableEq, Repr

/-- A request this package serves as home, or a remote atomic, waiting for its acknowledgement (R424). -/
structure HomeWait where
  req : Nat
  peer : Nat
  reply : OutPkt
  deriving DecidableEq, Repr

/-- A wait of another package's team for a phase of a barrier object homed here (R300: the home notifies waiters). -/
structure BarWait where
  peer : Nat
  rid : Nat
  ctx : Nat
  va : Nat
  ph : Nat
  conf : Bool
  deriving DecidableEq, Repr

/-- An operation of another package that is linked to a barrier object homed here and has not ended (R300, R303). -/
structure BarLink where
  peer : Nat
  ctx : Nat
  va : Nat
  op : Nat
  deriving DecidableEq, Repr

/-- Something the package sends out of itself: an interrupt, a management reply, a value read by the host. -/
inductive Output where
  | msix (vector : Nat)
  | mgmtIdent (serial boot memerr : Nat)
  | mgmtRefused
  | hostRead (addr : Nat) (bytes : List Byte)
  | sent (port : Nat) (p : OutPkt)
  | pmeRefused
  deriving DecidableEq, Repr

/-- R448. -/
inductive PowerSt where
  | d0 | d3hot | off
  deriving DecidableEq, Repr

end Sys2Proof.Machine
end

