-- ==== Sys2Proof/Machine/State.lean ====
section
/-! DEFINITION. The whole state of the package as plain data, its state after reset, and the reasons a step can stop. -/
namespace Sys2Proof.Machine

/-- Why a step stops with a fault. Faults of the machine's own (R367) are no stops: the context is discarded or the team
replays, and the step answers a next state. -/
inductive Fault where
  /-- Raised by the meaning of an instruction that a team issues when no team is issuing. Safe: the machine has no such
  step; nothing else can raise it. -/
  | noIssuingTeam
  deriving DecidableEq, Repr

/-- Why a step is refused. -/
inductive Refusal where
  /-- An arm of `exec` whose instruction has no meaning in the model. Safe: nothing is claimed of it. -/
  | notModelled (mnemonic : String)
  deriving DecidableEq, Repr

/-- The package. -/
structure State where
  /-- `SYS_BOOT` (R445) -/
  bootStage : Nat
  /-- a boot under way, with what its self-tests and flash checks will find (R445) -/
  booting : Option BootInfo
  bootSlot : Bool
  bootDies : BitVec 8
  pkg : Nat
  /-- SETID accepted since the reset (R444) -/
  idSet : Bool
  /-- a context has been created since the reset: SETID is refused (R444) -/
  ctxMade : Bool
  power : PowerSt
  /-- grid cores present, in ascending virtual number (R10, R11) -/
  cores : List Core
  /-- `SYS_ABSENT` (R13, R366) -/
  absent : BitVec 1024
  /-- physical numbers of the spares of each die, in ascending order (R10, R14), as (die, number) -/
  spares : List (Nat × Nat)
  /-- each die's firmware core (R10), which has a grid core's units (R15): its number is that of its die -/
  fwCores : List Core
  /-- reserved-region table (R458): base and size -/
  regions : List (Nat × Nat)
  /-- stacked DRAM by physical address; an unlisted byte is zero (R449) -/
  dram : SparseB
  /-- host memory by host physical address -/
  hostMem : SparseB
  /-- units with bad check bits (R216) -/
  bad : List ErrLoc
  /-- `SYS_MEMERR` (R218) -/
  memCe : Nat
  memUe : Nat
  /-- current generation of `SYS_FEATVER` (R332), and the translator's version (R315) -/
  featGen : BitVec 32
  version : Nat
  /-- stokers that work (R17) -/
  stokers : List Nat
  contexts : List Context
  /-- request blocks of the host aperture, 56 bytes for each context page written (R443): index = context × 64 + offset -/
  reqBytes : SparseB
  queues : List Queue
  nodes : List Node
  wgs : List Workgroup
  ops : List Op
  /-- stores that a team of the same tier may not have seen yet, oldest first (R221) -/
  stale : List Stale
  objects : List CodeObj
  dir : List DirEntry
  codePages : List CodePage
  quarantined : List (BitVec 384)
  /-- shared TLB of each die: (die, entry), and the miss tables: (die, context, 256 KiB page) (R402) -/
  dieTlb : List (Nat × TlbEntry)
  misses : List (Nat × Nat × Nat)
  /-- packets held at stage 2 or waiting are read again from their queues; last queue served at each PRIO (R346) -/
  lastServed : List (Nat × Nat)
  nextStamp : Nat
  nextId : Nat
  /-- the die that received the first workgroup of the node most recently first placed (R352) -/
  lastFirstDie : Option Nat
  /-- a distributor pass is due (R353) -/
  passDue : Bool
  pkgOver : Bool
  thermal : Bool
  /-- link (R411 to R430) -/
  ports : List Port
  peers : List Peer
  slot : Nat
  cycle : Nat
  trained : Bool
  sendStore : List OutPkt
  relayStore : List OutPkt
  homeWaits : List HomeWait
  barWaits : List BarWait
  barLinks : List BarLink
  /-- linked arrivals of operations that have ended, at objects: not made yet, or made at another package and not answered (R308) -/
  arrivals : List Op
  /-- requests that wait at this home for their page or operation (R408, R420), and replies and acknowledgements that wait for a
  send key or for room (R383, R429) -/
  heldReqs : List OutPkt
  owed : List OutPkt
  authF : Nat
  rlyUe : Nat
  badPkt : Nat
  keyTmo : Nat
  /-- package cycle counter (R391) -/
  cc : Nat
  /-- TAI ns (R391), clock mode and the TAI ns at which HOLDOVER began (R378) -/
  tai : Nat
  clockMode : Nat
  holdSince : Nat
  /-- ns by which TAI is still to be slewed towards the grandmaster (R377, R378) -/
  slew : Int
  /-- grid cores whose retirement is under way (R14) -/
  retiring : List Nat
  /-- firmware recovering on these dies, and host writes held meanwhile (R446) -/
  recovering : List Nat
  held : List Instr
  out : List Output
  /-- MODEL'S OWN: the actions that happen next, in order; data that orders the agents -/
  agenda : List Instr
  /-- MODEL'S OWN: the team that issues next: workgroup and team index -/
  cur : Option (Nat × Nat)
  /-- MODEL'S OWN: counter of free values read so far -/
  free : Nat
  deriving DecidableEq, Repr

/-- A port after package reset (R412, R430). -/
def Port.reset : Port := { st := 0, crcf := 0, crcCycle := 0, trains := 0 }

/-- The package right after reset, before the stokers run (R445 stage ROM, R449): no context, queue, page or key
exists, stacked DRAM is zero, `SYS_MEMERR` is 0 and every register has its Reset value. -/
def State.reset : State :=
  { bootStage := 0, booting := none, bootSlot := false, bootDies := 0, pkg := 0xFF, idSet := false, ctxMade := false, power := .d0, cores := [],
    absent := 0, spares := [], fwCores := [], regions := [], dram := [], hostMem := [], bad := [], memCe := 0, memUe := 0,
    featGen := 1, version := 0, stokers := [0, 1, 2, 3, 4, 5, 6, 7], contexts := [], reqBytes := [], queues := [], nodes := [],
    wgs := [], ops := [], stale := [], objects := [], dir := [], codePages := [], quarantined := [], dieTlb := [], misses := [],
    lastServed := [], nextStamp := 0, nextId := 1, lastFirstDie := none, passDue := false, pkgOver := false,
    thermal := false, ports := List.replicate 16 Port.reset, peers := [], slot := 0, cycle := 0, trained := false,
    sendStore := [], relayStore := [], homeWaits := [], barWaits := [], barLinks := [], arrivals := [], heldReqs := [], owed := [], authF := 0, rlyUe := 0, badPkt := 0, keyTmo := 100000, cc := 0,
    tai := 0, clockMode := 2, holdSince := 0, slew := 0, retiring := [], recovering := [], held := [], out := [], agenda := [], cur := none, free := 0 }

end Sys2Proof.Machine
end

