-- ==== Sys2Proof/Machine/Access.lean ====
section
/-! DEFINITION. Reading and replacing the parts of the state: contexts, cores, workgroups, teams, threads, operations,
queues, nodes, objects and the registers they hold. -/
namespace Sys2Proof.Machine

/-- The first element of a list that a test accepts. -/
def findBy {α : Type} (p : α → Bool) : List α → Option α
  | [] => none
  | x :: r => if p x then some x else findBy p r

/-- Replaces each element that has the key of `x`. -/
def putBy {α : Type} (key : α → Nat) (x : α) (l : List α) : List α := l.map (fun y => if key y = key x then x else y)

/-- Replaces the element at a position. -/
def setNth {α : Type} : List α → Nat → α → List α
  | [], _, _ => []
  | _ :: r, 0, x => x :: r
  | y :: r, n + 1, x => y :: setNth r n x

/-- Changes the element at a position. -/
def modNth {α : Type} (f : α → α) : List α → Nat → List α
  | [], _ => []
  | y :: r, 0 => f y :: r
  | y :: r, n + 1 => y :: modNth f r n

/-- Bit `i` of a thread mask. -/
def bit32 (i : Nat) : BitVec 32 := BitVec.ofNat 32 (2 ^ i)

/-- Whether a mask names thread `i`. -/
def hasBit (m : BitVec 32) (i : Nat) : Bool := m.getLsbD i

/-- The threads a mask names, in ascending order, among the first `n`. -/
def maskList (m : BitVec 32) (n : Nat) : List Nat := (List.range n).filter (hasBit m)

/-- The mask of a list of threads. -/
def listMask : List Nat → BitVec 32
  | [] => 0
  | i :: r => bit32 i ||| listMask r

/-! Parts of the package. -/

def State.getCtx (s : State) (c : Nat) : Option Context := findBy (fun x => x.id = c) s.contexts
def State.putCtx (s : State) (x : Context) : State := { s with contexts := putBy Context.id x s.contexts }
def State.getCore (s : State) (c : Nat) : Option Core := findBy (fun x => x.id = c) s.cores
def State.putCore (s : State) (x : Core) : State := { s with cores := putBy Core.id x s.cores }
def State.getWg (s : State) (u : Nat) : Option Workgroup := findBy (fun x => x.uid = u) s.wgs
def State.putWg (s : State) (x : Workgroup) : State := { s with wgs := putBy Workgroup.uid x s.wgs }
def State.getOp (s : State) (i : Nat) : Option Op := findBy (fun x => x.id = i) s.ops
def State.putOp (s : State) (x : Op) : State := { s with ops := putBy Op.id x s.ops }
def State.getQueue (s : State) (q : Nat) : Option Queue := findBy (fun x => x.id = q) s.queues
def State.putQueue (s : State) (x : Queue) : State := { s with queues := putBy Queue.id x s.queues }
def State.getNode (s : State) (n : Nat) : Option Node := findBy (fun x => x.id = n) s.nodes
def State.putNode (s : State) (x : Node) : State := { s with nodes := putBy Node.id x s.nodes }
def State.getObj (s : State) (h : Nat) : Option CodeObj := findBy (fun x => x.handle = h) s.objects
def State.putObj (s : State) (x : CodeObj) : State := { s with objects := putBy CodeObj.handle x s.objects }
def State.getDir (s : State) (d : Nat) : Option DirEntry := findBy (fun x => x.id = d) s.dir
def State.putDir (s : State) (x : DirEntry) : State := { s with dir := putBy DirEntry.id x s.dir }
def State.getPeer (s : State) (p : Nat) : Option Peer := findBy (fun x => x.id = p) s.peers

/-- A peer no packet has passed with yet (R415, R430): counters zero, and reachable when an assigned ID of another
package. -/
def Peer.fresh (i : Nat) : Peer :=
  { id := i, txSeq := 0, rxSeq := 0, early := [], credit := 0, reach := if i < 192 then 1 else 0, txKeys := [], txKey := none,
    txNext := none, refused := none, rx0 := none, rx1 := none, portsUp := [], granted := false }

/-- The state kept for a peer. -/
def State.peer (s : State) (p : Nat) : Peer := (s.getPeer p).getD (Peer.fresh p)

/-- Stores a peer's state. -/
def State.putPeer (s : State) (x : Peer) : State :=
  { s with peers := if (s.getPeer x.id).isSome then putBy Peer.id x s.peers else x :: s.peers }

/-- Team `i` of a workgroup. -/
def Workgroup.getTeam (w : Workgroup) (i : Nat) : Option Team := findBy (fun t => t.tix = i) w.teams
def Workgroup.putTeam (w : Workgroup) (t : Team) : Workgroup := { w with teams := putBy Team.tix t w.teams }

/-- A workgroup and a team of it. -/
def State.teamOf (s : State) (u i : Nat) : Option (Workgroup × Team) :=
  (s.getWg u).bind (fun w => (w.getTeam i).map (fun t => (w, t)))

/-- Changes one team of one workgroup; nothing where it does not exist. -/
def State.modTeam (s : State) (u i : Nat) (f : Team → Team) : State :=
  match s.getWg u with
  | some w => match w.getTeam i with
    | some t => s.putWg (w.putTeam (f t))
    | none => s
  | none => s

/-- A fresh identity. -/
def State.fresh (s : State) : Nat × State := (s.nextId, { s with nextId := s.nextId + 1 })

/-- A free value of 64 bits: one the manual does not give. -/
def State.freeValue (s : State) : BitVec 64 × State := (Config.freeValue s.free, { s with free := s.free + 1 })

/-- Emits an output of the package. -/
def State.emit (s : State) (o : Output) : State := { s with out := s.out ++ [o] }

/-- The die of a core by its virtual number (R11). -/
def dieOf (core : Nat) : Nat := core / 32 / 8 * 2 + core % 32 / 16

/-- The NBV in force for a context on a core (R44). -/
def State.nbvOn (s : State) (core c : Nat) : Nat :=
  match (s.getCore core).bind (fun k => tabGet c k.nbv) with
  | some n => n
  | none => ((s.getCtx c).map Context.nbv).getD 2

/-! Threads and registers of a team. -/

/-- The thread that stands where none exists: a team's threads are 0 to TEAM − 1 (R153). -/
def Thread.none : Thread :=
  { st := .exit, pc := 0, v := [], p := 0, ret := [], lane := [], held := Option.none, a := [], results := [], holdJoin := false }

/-- A thread at a PC with every register zero (R157). -/
def Thread.start (pc : Nat) : Thread := { Thread.none with st := .run, pc := pc }

def Team.thread (t : Team) (i : Nat) : Thread := t.threads.getD i Thread.none
def Team.setThread (t : Team) (i : Nat) (x : Thread) : Team := { t with threads := setNth t.threads i x }
def Team.modThread (t : Team) (i : Nat) (f : Thread → Thread) : Team := { t with threads := modNth f t.threads i }

/-- The v register `n` of thread `i`. -/
def Team.vGet (t : Team) (i n : Nat) : Word := spGet 0 (t.thread i).v n
def Team.vSet (t : Team) (i n : Nat) (x : Word) : Team := t.modThread i (fun h => { h with v := spSet 0 h.v n x })
/-- The s register `n`. -/
def Team.sGet (t : Team) (n : Nat) : Word := spGet 0 t.s n
def Team.sSet (t : Team) (n : Nat) (x : Word) : Team := { t with s := spSet 0 t.s n x }
/-- Predicate `n` of thread `i`. -/
def Team.pGet (t : Team) (i n : Nat) : Bool := (t.thread i).p.getLsbD n
def Team.pSet (t : Team) (i n : Nat) (b : Bool) : Team :=
  t.modThread i (fun h => { h with p := if b then h.p ||| BitVec.ofNat 16 (2 ^ n) else h.p &&& ~~~(BitVec.ofNat 16 (2 ^ n)) })

/-- Threads in RUN. -/
def Team.runMask (t : Team) : BitVec 32 :=
  listMask ((List.range t.threads.length).filter (fun i => (t.thread i).st = .run))

/-- Threads not in EXIT. -/
def Team.liveMask (t : Team) : BitVec 32 :=
  listMask ((List.range t.threads.length).filter (fun i => (t.thread i).st ≠ .exit))

/-- The PCs of threads in RUN. -/
def Team.runPcs (t : Team) : List Nat :=
  ((List.range t.threads.length).filter (fun i => (t.thread i).st = .run)).map (fun i => (t.thread i).pc)

/-- Least element of a list. -/
def listMin : List Nat → Option Nat
  | [] => none
  | x :: r => match listMin r with
    | some y => some (min x y)
    | none => some x

/-- The lowest PC of the threads that a mask names. -/
def Team.maskPc (t : Team) (m : BitVec 32) : Option Nat :=
  listMin (((List.range t.threads.length).filter (hasBit m)).map (fun i => (t.thread i).pc))

/-- The selection of R160 and R173: the lowest PC of a thread in RUN, but for one selection after a yield at Y. -/
def Team.selectPc (t : Team) : Option Nat :=
  match t.yieldAt with
  | some y =>
    match listMin (t.runPcs.filter (fun p => p > y)) with
    | some p => some p
    | none => match listMin (t.runPcs.filter (fun p => p < y)) with
      | some p => some p
      | none => listMin t.runPcs
  | none => listMin t.runPcs

/-- The PC at which the team issues. A team with a non-zero `TEAM_FMASK` replays at its faulting threads' PC (R177), one that has stalled
goes on at the instruction where its participants wait (R179), and one inside a native clause stays in it (R99); any other selects. -/
def Team.leadPc (t : Team) : Option Nat :=
  if t.nat.started then some t.nat.pc
  else if t.fmask ≠ 0 then t.maskPc t.fmask
  else
    match t.pend with
    | some m => match t.maskPc m with
      | some p => some p
      | none => t.selectPc
    | none => t.selectPc

/-- `TEAM_STAT.DIV`: threads in RUN hold more than one PC (R158). -/
def Team.diverged (t : Team) : Bool :=
  match t.runPcs with
  | [] => false
  | p :: r => r.any (· ≠ p)

/-- `TEAM_STAT.SPLIT`: some thread is parked (R158). -/
def Team.split (t : Team) : Bool := t.threads.any (fun h => h.st = .park)

/-- The top of the mask stack (R162). -/
def Team.top (t : Team) : BitVec 32 := t.masks.headD 0

/-- The mask-stack depth. -/
def Team.depth (t : Team) : Nat := t.masks.length - 1

/-- A stream register; one never bound is unbound. -/
def Team.stream (t : Team) (q : Nat) : Stream :=
  (tabGet q t.streams).getD
    { bound := false, base := 0, pos := 0, buf := [], copy := none, total := 0, write := false, esz := 0 }
def Team.setStream (t : Team) (q : Nat) (x : Stream) : Team := { t with streams := tabSet q x t.streams }

/-- The operation a token names (R247). -/
def Team.token (t : Team) (k : Nat) : Option Nat := tabGet k t.tokens

/-- A pending link of a token (R308). -/
def Team.link (t : Team) (k : Nat) : Link := (tabGet k t.links).getD { wait := none, arr := none }

/-- Whether an operation's status reads BUSY (R245, R279). -/
def OpSt.isBusy : OpSt → Bool
  | .queued => true
  | .active => true
  | .busy => true
  | .killed => true
  | _ => false

/-- The status code of R279. -/
def OpSt.code : OpSt → Nat
  | .queued => 1 | .active => 1 | .busy => 1 | .saved => 1 | .killed => 1
  | .done => 2 | .faulted => 3 | .rejected => 4 | .overflow => 5

end Sys2Proof.Machine
end

