-- ==== Sys2Proof/Machine/Ops.lean ====
section
/-! DEFINITION. Taking a fault (R367 to R371): the fault record, the fault queue, and the discard of a context, which is
this machine's exception entry; the release of what a context holds; and beside them the ways back: the release of teams in
REPLAY (R177, R403), and the return of a discarded context to RUNNING (R363). -/
namespace Sys2Proof.Machine

/-! Fault classes (R367). -/

def clsPageNr : Nat := 1
def clsPageMig : Nat := 2
def clsIllegal : Nat := 3
def clsFormat : Nat := 4
def clsLocked : Nat := 5
def clsIntegrity : Nat := 6
def clsMemUe : Nat := 7
def clsHung : Nat := 8
def clsLink : Nat := 9
def clsStraggler : Nat := 10
def clsKey : Nat := 11
def clsStack : Nat := 12
def clsAddress : Nat := 13
def clsBarrier : Nat := 14
def clsTrap : Nat := 15
def clsPage : Nat := 16
def clsGang : Nat := 17
def clsBreak : Nat := 18

/-! Host memory (R363, R442). -/

/-- Writes bytes to host memory. -/
def State.hostPut (s : State) (a : Nat) (bs : List Byte) : State := { s with hostMem := spPut 0 s.hostMem a bs }

/-- Reads bytes of host memory. -/
def State.hostTake (s : State) (a n : Nat) : List Byte := spTake 0 s.hostMem a n

/-- A completion record (R342): STATUS, REASON, TAG, VALUE. -/
def complBytes (status reason tag value : Nat) : List Byte :=
  natBytes 2 status ++ natBytes 2 reason ++ natBytes 4 tag ++ natBytes 8 value

/-- The completion record of a host request, written at a 16-byte-aligned host address; none at 0 (R443). -/
def State.hostComplete (s : State) (compl status reason value : Nat) : State :=
  if compl = 0 ∨ compl % 16 ≠ 0 then s else s.hostPut compl (complBytes status reason 0 value)

/-! Fault records (R371). -/

/-- The 64 bytes of a fault record. -/
def FaultRec.bytes (r : FaultRec) : List Byte :=
  natBytes 1 r.cls ++ natBytes 1 r.sub ++ natBytes 2 r.flags ++ natBytes 1 r.pkg ++ natBytes 1 r.lane ++ natBytes 2 r.core ++
  natBytes 1 r.tslot ++ natBytes 1 r.token ++ natBytes 2 r.others ++ natBytes 4 r.tmask.toNat ++ natBytes 8 r.ppc ++
  natBytes 8 r.addr ++ natBytes 8 r.node ++ natBytes 8 r.time ++ natBytes 8 r.code ++ natBytes 2 r.dropBrk ++ natBytes 6 0

/-- The NODE field: queue and ticket of a node. -/
def nodeField (s : State) (n : Nat) : Nat :=
  match s.getNode n with
  | some x => x.queue * 2 ^ 52 + x.ticket % 2 ^ 52
  | none => 0

/-- The record of a fault met by threads of a team. -/
def teamRecord (s : State) (w : Workgroup) (t : Team) (tmask : BitVec 32) (f : FaultInfo) : FaultRec :=
  { cls := f.cls, sub := f.sub,
    flags := (if f.imprecise then 1 else 0) + (if f.gang then 2 else 0) + (if f.engine then 4 else 0),
    pkg := s.pkg, lane := t.lane, core := w.core, tslot := t.slot, token := f.token, others := 0, tmask := tmask,
    ppc := f.ppc, addr := f.addr, node := nodeField s w.node, time := s.tai, code := f.code, dropBrk := 0 }

/-- The record of a fault delivered to a context with no team (R238, R308, R423). -/
def ctxRecord (s : State) (f : FaultInfo) : FaultRec :=
  { cls := f.cls, sub := f.sub,
    flags := (if f.imprecise then 1 else 0) + (if f.gang then 2 else 0) + (if f.engine then 4 else 0),
    pkg := s.pkg, lane := 0, core := 0, tslot := 0, token := f.token, others := 0, tmask := 0,
    ppc := f.ppc, addr := f.addr, node := 0, time := s.tai, code := f.code, dropBrk := 0 }

/-- The fault queue is full: HEAD − TAIL ≡ 64 modulo 128 (R443). -/
def Context.fqFull (x : Context) : Bool := (x.fqHead + 128 - x.fqTail) % 128 = 64

/-- Writes a record to a context's fault queue with its place free, and advances HEAD (R371, R443). -/
def Context.fqWrite (x : Context) (r : FaultRec) : Context :=
  { x with fq := tabSet (x.fqHead % 64) { r with dropBrk := min x.dropBrk 65535 } x.fq, fqHead := (x.fqHead + 1) % 128,
           dropBrk := 0 }

/-- A class 18 record (R370, R371): dropped and counted while the queue is full. -/
def State.fqBreak (s : State) (c : Nat) (r : FaultRec) : State :=
  match s.getCtx c with
  | none => s
  | some x => if x.fqFull || x.fqWaiting.isSome then s.putCtx { x with dropBrk := x.dropBrk + 1 }
              else (s.putCtx (x.fqWrite r)).emit (.msix x.fqvec)

/-- The record of a cause (R371): written at once where a place is free, else it waits for one. -/
def State.fqCause (s : State) (c : Nat) (r : FaultRec) : State :=
  match s.getCtx c with
  | none => s
  | some x => if x.fqFull then s.putCtx { x with fqWaiting := some r }
              else (s.putCtx (x.fqWrite r)).emit (.msix x.fqvec)

/-! Freeing what a context holds. -/

/-- A core without the locks, alias entries and direct mode of a set of workgroups (R237, R276, R326); its boundary
triple is unset when it holds no other workgroup (R196). -/
def Core.release (k : Core) (wgs : List Workgroup) (opIds uids : List Nat) : Core :=
  { k with locks := k.locks.filter (fun l => !opIds.contains l.op),
           alias_ := k.alias_.filter (fun a => !uids.contains a.wg),
           direct := match k.direct with
             | some (u, i) => if uids.contains u then none else some (u, i)
             | none => none,
           directStarted := k.directStarted.filter (fun d => !uids.contains d.wg),
           triple := if wgs.any (fun w => w.core = k.id && !uids.contains w.uid) then k.triple else none }

/-- The identities of a context's workgroups and operations. -/
def State.ctxWgs (s : State) (c : Nat) : List Nat := (s.wgs.filter (fun w => w.ctx = c)).map Workgroup.uid
def State.ctxOps (s : State) (c : Nat) : List Nat := (s.ops.filter (fun o => o.ctx = c)).map Op.id

/-- Completes as overtaken each PREEMPT and RESUME of a context (R459 reason 3). -/
def overtakeGo (s : State) : List (Nat × Nat) → State
  | [] => s
  | (_, a) :: r => overtakeGo (s.hostComplete a 3 3 0) r

/-- Removes workgroups from their cores, with their operations, and what their teams had still to see. -/
def State.removeWgs (s : State) (uids : List Nat) : State :=
  let oids := (s.ops.filter (fun (o : Op) => uids.contains o.wg)).map Op.id
  { s with cores := s.cores.map (fun k => k.release s.wgs oids uids),
           wgs := s.wgs.filter (fun (w : Workgroup) => !uids.contains w.uid),
           ops := s.ops.filter (fun (o : Op) => !uids.contains o.wg),
           stale := s.stale.filter (fun e => !uids.contains e.wg) }

/-- What is left of an operation on a discard (R281): a copy that has started an element performs it and no more. -/
def Op.kill (o : Op) : Option Op :=
  if o.st.isBusy && (o.waits ≠ [] || o.unacked ≠ []) then
    match o.body with
    | .copy b => some { o with st := .killed, link := { wait := none, arr := none }
                               body := .copy { b with total := min b.total (if o.waits = [] then b.idx else b.idx + 1) } }
    | _ => none
  else none

/-- A workgroup of which only the pool regions are still held. -/
def Workgroup.shell (w : Workgroup) : Workgroup := { w with st := .done, teams := [], bars := [], chans := [], vt := 0, vat := [] }

/-- Frees the workgroups, operations, locks and pool nodes of a context (R368 items 2 to 4). No completion is written. The regions of a
workgroup stay held while one of its copies ends (R281). -/
def State.freeWork (s : State) (c : Nat) : State :=
  let dying := (s.ops.filter (fun o => o.ctx = c)).filterMap Op.kill
  let kept := fun (u : Nat) => dying.any (fun o => o.wg = u)
  let uids := s.ctxWgs c
  let oids := (s.ctxOps c).filter (fun i => !dying.any (fun o => o.id = i))
  { s with cores := s.cores.map (fun k => k.release (s.wgs.filter (fun w => w.ctx ≠ c || kept w.uid)) oids (uids.filter (fun u => !kept u))),
           wgs := s.wgs.filterMap (fun w => if w.ctx ≠ c then some w else if kept w.uid then some w.shell else none),
           ops := s.ops.filter (fun o => o.ctx ≠ c) ++ dying,
           stale := s.stale.filter (fun e => e.ctx ≠ c),
           arrivals := s.arrivals.filter (fun o => o.ctx ≠ c),
           nodes := s.nodes.filter (fun n => n.ctx ≠ c),
           misses := s.misses.filter (fun m => m.2.1 ≠ c),
           passDue := true,
           cur := match s.cur with
             | some (u, i) => if uids.contains u then none else some (u, i)
             | none => none }

/-- States in which a context-fatal fault discards the context (R365, R368). -/
def CtxSt.live : CtxSt → Bool
  | .running => true | .polite => true | .cutting => true | .resuming => true | _ => false

/-- TAKING A CONTEXT-FATAL FAULT (R368): the cause discards the context as a whole. A later one is only counted. Data
consumed from an uncorrectable unit counts the unit as found (R218). -/
def State.discard (s0 : State) (c : Nat) (r : FaultRec) (missing : List Nat) : State :=
  let s := if r.cls = clsMemUe then { s0 with memUe := min 65535 (s0.memUe + 1) } else s0
  match s.getCtx c with
  | none => s
  | some x =>
    if x.st.live then
      let s1 := overtakeGo s (x.openReqs.filter (fun q => q.1 = 3 ∨ q.1 = 4))
      let x1 := { x with st := .faulted, cause := some r, charges := [], openReqs := [], heldWithdrawals := [],
                         firmwarePreempt := false, gangPending := none, gangQuiet := false,
                         save := { x.save with kind := 3, time := s.tai, nnode := 0, nwg := 0, fault := some r, missing := missing,
                                               gen := x.gangGen, cregs := [x.nbv, x.politeWindow, (if x.brk then 1 else 0) +
                                                 (if x.lrh then 2 else 0), x.quota, x.budget.toNat], ladder := x.ladder,
                                               wgs := [], ops := [], locks := [] } }
      ((s1.putCtx x1).freeWork c).fqCause c r
    else
      match x.cause with
      | some r0 => s.putCtx { x with cause := some { r0 with others := min 65535 (r0.others + 1) },
                                     save := { x.save with fault := some { r0 with others := min 65535 (r0.others + 1) } } }
      | none => s

/-- A context-fatal fault with no missing members. -/
def State.fatal (s : State) (c : Nat) (r : FaultRec) : State := s.discard c r []

/-- A context-fatal fault met by threads of a team. -/
def State.teamFatal (s : State) (w : Workgroup) (t : Team) (tmask : BitVec 32) (f : FaultInfo) : State :=
  s.fatal w.ctx (teamRecord s w t tmask f)

/-! The ways back. -/

/-- A team in REPLAY whose cause a test accepts goes to READY (R177 step 4). -/
def Team.releaseIf (p : ReplayWhy → Bool) (t : Team) : Team :=
  match t.st with
  | .replay why => if p why then { t with st := .ready } else t
  | _ => t

/-- Releases the teams in REPLAY of a context whose cause a test accepts, at one instant (R369, R403, R408). -/
def State.releaseReplay (s : State) (c : Nat) (p : ReplayWhy → Bool) : State :=
  { s with wgs := s.wgs.map (fun w => if w.ctx = c then { w with teams := w.teams.map (Team.releaseIf p) } else w) }

/-- Releases the teams that replay on a lock owned by an operation (R369). -/
def State.releaseLock (s : State) (op : Nat) : State :=
  { s with wgs := s.wgs.map (fun w =>
      { w with teams := w.teams.map (Team.releaseIf (fun y => y = .lock op)) }) }

/-! Core barriers (R298, R299). -/

/-- A phase is complete (R298). -/
def phaseDone (phase b : Nat) : Bool :=
  1 ≤ (phase + 2 ^ 32 - b % 2 ^ 32) % 2 ^ 32 && (phase + 2 ^ 32 - b % 2 ^ 32) % 2 ^ 32 ≤ 2 ^ 31

/-- The teams of a workgroup that are not DONE. -/
def Workgroup.liveTeams (w : Workgroup) : BitVec 64 :=
  (w.teams.filter (fun t => t.st ≠ .done)).foldl (fun m t => m ||| BitVec.ofNat 64 (2 ^ t.tix)) 0

/-- `check` of R298. -/
def CoreBar.check (live : BitVec 64) (b : CoreBar) : CoreBar :=
  if (b.expect = 0 && live ≠ 0 && live &&& ~~~b.arr = 0) || (b.expect ≠ 0 && b.count = b.expect) then
    { b with phase := b.phase + 1, arr := 0, count := 0 }
  else b

/-- `arrive` of R298: by a team, or by an operation, which has no bit and finds a LIVE barrier unfit (R308). The answer is
the sub-code of BAR_MISUSE, or the barrier and the phase arrived in. -/
def CoreBar.arrive (live : BitVec 64) (team : Option Nat) (n : Nat) (b : CoreBar) : Nat ⊕ (CoreBar × Nat) :=
  if !b.armed then .inl 1
  else if b.expect = 0 then
    match team with
    | none => .inl 2
    | some i => if n ≠ 1 || b.arr.getLsbD i then .inl 2
                else .inr (({ b with arr := b.arr ||| BitVec.ofNat 64 (2 ^ i), count := b.count + 1 } : CoreBar).check live, b.phase.toNat)
  else if b.count + n > b.expect then .inl 2
  else .inr (({ b with count := b.count + n } : CoreBar).check live, b.phase.toNat)

/-- What a team's end does to its workgroup and core: `check` runs on every barrier (R299), direct mode is released
(R276), and pending links are dropped (R308). -/
def State.teamEnded (s : State) (u i : Nat) : State :=
  match s.getWg u with
  | none => s
  | some w =>
    let w1 := { w with teams := w.teams.map (fun t => if t.tix = i then { t with links := [] } else t),
                       bars := w.bars.map (CoreBar.check w.liveTeams) }
    { (s.putWg w1) with cores := s.cores.map (fun k => if k.direct = some (u, i) then { k with direct := none } else k) }

end Sys2Proof.Machine
end

