-- ==== Sys2Proof/Machine/Memory.lean ====
section
/-! DEFINITION. Memory: the five spaces (R190 to R200), the walk and the TLBs (R395 to R402), the L1 and scopes (R220 to
R229), range locks (R234 to R237), doorbells (R335, R336), errors (R216, R217), and packets to other packages
(R413 to R430). Wider accesses are built from bytes here, in one place. -/
namespace Sys2Proof.Machine

/-- Who accesses memory: a thread, or an engine for the team that issued the operation (R19). -/
structure Agent where
  ctx : Nat
  core : Nat
  wg : Nat
  tix : Nat
  thread : Nat
  deriving DecidableEq, Repr

/-- What an access does, for the checks of R401: a weak store is a plain store of a thread (R238). -/
inductive Acc where
  | load | weak | store | atomic
  deriving DecidableEq, Repr

/-- The bytes an address names. -/
inductive Place where
  | lane (off : Nat)
  | scratch (uid off : Nat)
  /-- context × 2^32 + die × 2^26 + offset -/
  | dieq (idx : Nat)
  | phys (pa : Nat)
  | host (a : Nat)
  | remote (leaf : Leaf) (va : Nat)
  | migr (leaf : Leaf) (va : Nat)
  | bell (va : Nat)
  deriving DecidableEq, Repr

/-- The outcome of the checks of R191 and R401. -/
inductive Located where
  | at_ (p : Place)
  | bad (f : FaultInfo)
  | replay (va cls : Nat)
  deriving DecidableEq, Repr

/-! Pages (R395 to R402). -/

/-- Bytes of a page by size code (R395). -/
def pageBytes (sz : Nat) : Nat := if sz = 2 then 2 ^ 30 else if sz = 1 then 2 ^ 24 else 2 ^ 18

/-- A leaf maps an address. -/
def Leaf.covers (l : Leaf) (va : Nat) : Bool := l.va ≤ va && va < l.va + pageBytes l.sz

/-- The level at which a page's leaf entries stand (R396). -/
def Leaf.level (l : Leaf) : Nat := if l.sz = 2 then 1 else 0

/-- The index that a level of the walk takes from an address. -/
def vaIndex (lv va : Nat) : Nat := if lv = 3 then va / 2 ^ 48 % 2 ^ 9 else va / 2 ^ (18 + 10 * lv) % 2 ^ 10

/-- A valid non-leaf entry (R397): V, LEAF 0, NEXT in bits 41:13, the rest zero. -/
def nextWord (base : Nat) : DWord := BitVec.ofNat 64 (1 + base % 2 ^ 42 / 2 ^ 13 * 2 ^ 13)

/-- The table that a non-leaf entry names. -/
def nextOf (e : DWord) : Option Nat := if e.getLsbD 0 && !e.getLsbD 1 then some (e.toNat % 2 ^ 42 / 2 ^ 13 * 2 ^ 13) else none

/-- The table at a physical address, and the root. -/
def Context.tableAt (x : Context) (base : Nat) : Option Table := findBy (fun (t : Table) => t.base = base) x.tables
def Context.root (x : Context) : Option Table := findBy (fun (t : Table) => t.level = 3) x.tables

/-- The leaf entry for an address in the table of a level. -/
def Context.leafAt (x : Context) (lv va : Nat) : Option Leaf := findBy (fun (l : Leaf) => l.covers va && l.level = lv) x.pages

/-- The entry at an address's index of a table names another table. -/
def Table.next (t : Table) (lv va : Nat) : Option Nat := (tabGet (vaIndex lv va) t.nexts).bind nextOf

/-- The walk of R396 from a table, the level counted down. -/
def Context.walkGo (x : Context) (va : Nat) : Nat → Option Table → Option Leaf
  | 0, _ => none
  | _ + 1, none => none
  | lv + 1, some t =>
    match x.leafAt lv va with
    | some l => some l
    | none => match t.next lv va with
      | some b => x.walkGo va lv (x.tableAt b)
      | none => none

/-- The walk of R396: the leaf that maps an address in the context's tree. -/
def Context.walk (x : Context) (va : Nat) : Option Leaf := x.walkGo va 4 x.root

/-- A cached translation in a core's TLB or the shared TLB of its die (R402). -/
def State.tlbHit (s : State) (c core va : Nat) : Option Leaf :=
  match (s.getCore core).bind (fun k => findBy (fun e => e.ctx = c && e.leaf.covers va) k.tlb) with
  | some e => some e.leaf
  | none => (findBy (fun e => e.1 = dieOf core && e.2.ctx = c && e.2.leaf.covers va) s.dieTlb).map (fun e => e.2.leaf)

/-- Translation: the TLBs, then the walk. A fault is never cached. -/
def State.translate (s : State) (c core va : Nat) : Option Leaf :=
  match s.tlbHit c core va with
  | some l => some l
  | none => (s.getCtx c).bind (fun x => x.walk va)

/-- Fills both TLBs after a walk (R402): 512 entries for a core, 32,768 for a die, the oldest leaving first. -/
def State.tlbFill (s : State) (c core va : Nat) : State :=
  match s.tlbHit c core va with
  | some _ => s
  | none =>
    match (s.getCtx c).bind (fun x => x.walk va) with
    | none => s
    | some l =>
      let e : TlbEntry := { ctx := c, leaf := l }
      { s with cores := s.cores.map (fun k => if k.id = core then { k with tlb := (e :: k.tlb).take 512 } else k),
               dieTlb := ((dieOf core, e) :: s.dieTlb).take 32768,
               misses := s.misses.filter (fun m => m ≠ (dieOf core, c, va / 2 ^ 18)) }

/-- Invalidates every TLB entry of a context's page (R407). No team has a store to the page's former frame still to see. -/
def State.tlbDrop (s : State) (c va : Nat) : State :=
  { s with stale := s.stale.filter (fun e => e.ctx ≠ c || e.space ≠ 4),
           cores := s.cores.map (fun k => { k with tlb := k.tlb.filter (fun e => !(e.ctx = c && e.leaf.va = va)) }),
           dieTlb := s.dieTlb.filter (fun e => !(e.2.ctx = c && e.2.leaf.va = va)) }

/-- A requester on a die that waits for a page: one entry for all that wait for it there (R402). -/
def State.missAdd (s : State) (die c va : Nat) : State :=
  if s.misses.contains (die, c, va / 2 ^ 18) then s else { s with misses := s.misses ++ [(die, c, va / 2 ^ 18)] }

/-- Replaces the leaf of a page in the tree and invalidates its translations (R407). -/
def State.putLeaf (s : State) (c : Nat) (l : Leaf) : State :=
  match s.getCtx c with
  | none => s
  | some x => (s.putCtx { x with pages := putBy Leaf.va l x.pages }).tlbDrop c l.va

/-- Sets the D bit of a page's leaf at the first write through it (R398). -/
def State.setDirty (s : State) (c va : Nat) : State :=
  match (s.getCtx c).bind (fun x => x.walk va) with
  | some l => if l.d then s else s.putLeaf c { l with d := true }
  | none => s

/-- Physical addresses have 42 bits (R395). -/
def pa42 (a : Nat) : Nat := a % 2 ^ 42

/-! Forming and checking an address (R191, R401). -/

/-- A fault with its class, sub-code and address. -/
def mkFault (cls sub addr : Nat) : FaultInfo := { cls := cls, sub := sub, addr := addr }

/-- The doorbell page of a context (R335). -/
def Context.isBell (x : Context) (va : Nat) : Bool := x.doorbell ≤ va && va < x.doorbell + 2 ^ 18

/-- Steps 5 of R191: the walk and the checks of R401 for a canonical, aligned global address. -/
def State.locateGlb (s : State) (ag : Agent) (va : Nat) (acc : Acc) : Located :=
  match s.getCtx ag.ctx with
  | none => .bad (mkFault clsPage 0 va)
  | some x =>
    if x.isBell va then
      (if acc = .atomic then .bad (mkFault clsAddress 3 va) else .at_ (.bell va))
    else
      match s.translate ag.ctx ag.core va with
      | none => .bad (mkFault clsPage 0 va)
      | some l =>
        if !l.res then .replay va clsPageNr
        else if l.mig && acc ≠ .weak then .replay va clsPageMig
        else if acc ≠ .load && !l.w then .bad (mkFault (if acc = .atomic then clsAddress else clsPage)
          (if acc = .atomic then 3 else 1) va)
        else if l.mig then .at_ (.migr l va)
        else if l.home = 255 then .at_ (.host (l.frame + (va - l.va)))
        else if l.home = s.pkg then .at_ (.phys (pa42 (l.frame + (va - l.va))))
        else .at_ (.remote l va)

/-- The member of a workgroup's neighbourhood with a number (R197). -/
def State.nbMember (s : State) (w : Workgroup) (m : Nat) : Option Workgroup :=
  findBy (fun y => y.nbId = w.nbId && y.ctx = w.ctx && y.nbPosY * y.nbW + y.nbPosX = m) s.wgs

/-- The size of a space other than `.glb` as a workgroup sees it (R190, R194, R197, R198). -/
def State.spaceSize (s : State) (ag : Agent) (w : Workgroup) (sp : Nat) : Nat :=
  if sp = 0 then w.priv
  else if sp = 1 then w.sw
  else if sp = 2 then w.sw * (w.nbW * w.nbH)
  else match s.getCtx ag.ctx with
    | some x => x.dq
    | none => 0

/-- The bytes an in-range offset of a space names. -/
def State.placeOf (s : State) (ag : Agent) (w : Workgroup) (sp o : Nat) : Place :=
  if sp = 0 then .lane o
  else if sp = 1 then .scratch w.uid o
  else if sp = 2 then
    match s.nbMember w (o / w.sw) with
    | some y => .scratch y.uid (o % w.sw)
    | none => .scratch w.uid (o % w.sw)
  else .dieq (ag.ctx * 2 ^ 32 + dieOf ag.core * 2 ^ 26 + o)

/-- The checks of R191 in their order, for an access of `n` bytes aligned to `al`. -/
def State.locate (s : State) (ag : Agent) (sp : Nat) (addr : Int) (n al : Nat) (acc : Acc) : Located :=
  if sp = 4 then
    let va := (addr % 2 ^ 64).toNat
    if va ≥ 2 ^ 57 then .bad (mkFault clsAddress 2 va)
    else if va % al ≠ 0 then .bad (mkFault clsAddress 1 va)
    else s.locateGlb ag va acc
  else
    match s.getWg ag.wg with
    | none => .bad (mkFault clsAddress 0 0)
    | some w =>
      if addr % al ≠ 0 then .bad (mkFault clsAddress 1 (addr % 2 ^ 32).toNat)
      else if addr < 0 then .bad (mkFault clsAddress 0 (addr % 2 ^ 32).toNat)
      else if addr.toNat + n > s.spaceSize ag w sp then .bad (mkFault clsAddress 0 addr.toNat)
      else .at_ (s.placeOf ag w sp addr.toNat)

/-! Range locks (R234 to R237). -/

/-- The space, identity and core under which a byte's locks are kept: the core that holds scratchpad and lane bytes, the
issuing core otherwise. `.core` covers `.nbh`. -/
def State.lockKey (s : State) (ag : Agent) (sp : Nat) (p : Place) (addr : Nat) : Nat × Nat × Nat × Nat :=
  match p with
  | .lane o => (0, ag.wg * 2048 + ag.tix * 32 + ag.thread, o, ag.core)
  | .scratch u o => (1, u, o, ((s.getWg u).map Workgroup.core).getD ag.core)
  | .dieq i => (3, ag.ctx, i % 2 ^ 32, ag.core)
  | _ => (sp, ag.ctx, addr, ag.core)

/-- The lock of a kind that covers a byte interval, the first registered. -/
def Core.lockOn (k : Core) (sp tag lo hi : Nat) (write : Bool) : Option Lock :=
  findBy (fun l => l.space = sp && l.tag = tag && l.write = write && l.lo ≤ hi && lo ≤ l.hi) k.locks

/-- R235, R236: the lock an access of `n` bytes meets, with the sub-code. -/
def State.lockMet (s : State) (ag : Agent) (sp : Nat) (p : Place) (addr n : Nat) (write : Bool) : Option (Nat × Lock) :=
  let key := s.lockKey ag sp p addr
  match s.getCore key.2.2.2 with
  | none => none
  | some k =>
    match k.lockOn key.1 key.2.1 key.2.2.1 (key.2.2.1 + n - 1) true with
    | some l => some (0, l)
    | none => if write then (k.lockOn key.1 key.2.1 key.2.2.1 (key.2.2.1 + n - 1) false).map (fun l => (1, l)) else none

/-! The L1 and the points of coherence (R199, R229). -/

/-- The byte a core's L1 holds for a physical address. -/
def Core.l1Byte (k : Core) (pa : Nat) : Option L1Byte := findBy (fun b => b.addr = pa) k.l1

/-- The value of a physical byte as the teams of a core see it: the L1's copy, else the point of coherence. -/
def State.viewByte (s : State) (core pa : Nat) : Byte :=
  match (s.getCore core).bind (fun k => k.l1Byte pa) with
  | some b => b.val
  | none => spGet 0 s.dram pa

def State.viewBytes (s : State) (core pa : Nat) : Nat → List Byte
  | 0 => []
  | n + 1 => s.viewByte core pa :: s.viewBytes core (pa + 1) n

/-- Puts one byte into a core's L1 as dirty. -/
def Core.l1Put (k : Core) (pa : Nat) (b : Byte) : Core :=
  { k with l1 := { addr := pa, val := b, dirty := true } :: k.l1.filter (fun x => x.addr ≠ pa) }

def Core.l1PutAll (k : Core) (pa : Nat) : List Byte → Core
  | [] => k
  | b :: r => (k.l1Put pa b).l1PutAll (pa + 1) r

/-- Changes one core. -/
def State.modCore (s : State) (core : Nat) (f : Core → Core) : State :=
  { s with cores := s.cores.map (fun k => if k.id = core then f k else k) }

/-- Writes dirty bytes back to the point of coherence. -/
def writeDirty (d : SparseB) : List L1Byte → SparseB
  | [] => d
  | b :: r => writeDirty (if b.dirty then spSet 0 d b.addr b.val else d) r

/-- A dirty unit with bad check bits that is written back leaves them in its DRAM unit, and nobody faults (R217). -/
def badAfterClean (k : Core) (p : Nat → Bool) (u : ErrLoc) : ErrLoc :=
  match u with
  | .dirtyLine c n => if c = k.id && k.l1.any (fun b => b.dirty && b.addr / 8 = n && p b.addr) then .dram (n / 4) else u
  | _ => u

/-- Writes back the dirty bytes of a core's L1 that a test accepts, and leaves them clean (R229). -/
def State.l1Clean (s : State) (core : Nat) (p : Nat → Bool) : State :=
  match s.getCore core with
  | none => s
  | some k =>
    { (s.putCore { k with l1 := k.l1.map (fun b => if p b.addr then { b with dirty := false } else b) }) with
      dram := writeDirty s.dram (k.l1.filter (fun b => p b.addr)), bad := s.bad.map (badAfterClean k p) }

/-- Drops the clean bytes of a core's L1 that a test accepts (R229). -/
def State.l1Drop (s : State) (core : Nat) (p : Nat → Bool) : State :=
  s.modCore core (fun k => { k with l1 := k.l1.filter (fun b => b.dirty || !p b.addr) })

/-- The core's side of a release at a scope: `.nbh` and wider write back (R229). -/
def State.releaseAt (s : State) (core scope : Nat) : State :=
  if scope ≥ 3 then s.l1Clean core (fun _ => true) else s

/-- The core's side of an acquire at a scope: `.nbh` and wider drop clean lines (R229). -/
def State.acquireAt (s : State) (core scope : Nat) : State :=
  if scope ≥ 3 then s.l1Drop core (fun _ => true) else s

/-- Bytes of the pool that are the L1's: what lies above the third boundary, or all of it (R193, R195). -/
def Core.l1Share (k : Core) : Nat := 2 ^ 22 - 1024 * (k.triple.map Triple.b2).getD 0

/-- The lines of 128 bytes of which a core's L1 holds bytes, the one filled last first. -/
def Core.l1Lines (k : Core) : List Nat := (k.l1.map (fun b => b.addr / 128)).eraseDups

/-- The lines beyond the L1's share of the pool leave it, dirty bytes written back: the oldest go first (R193, R199). -/
def State.l1Fit (s : State) (core : Nat) : State :=
  match s.getCore core with
  | none => s
  | some k =>
    if k.l1Lines.length * 128 ≤ k.l1Share then s
    else
      let out := fun a => !(k.l1Lines.take (k.l1Share / 128)).contains (a / 128)
      (s.l1Clean core out).l1Drop core out

/-- A load may leave clean copies in the L1 (R199); whether it does is open. -/
def State.l1Keep (s : State) (core pa n : Nat) : State :=
  if Config.l1Keeps s.free then
    ({ (s.modCore core (fun k => { k with
        l1 := ((List.range n).filter (fun i => (k.l1Byte (pa + i)).isNone)).map
                (fun i => { addr := pa + i, val := spGet 0 s.dram (pa + i), dirty := false }) ++ k.l1 })) with
      free := s.free + 1 } : State).l1Fit core
  else { s with free := s.free + 1 }

/-! Errors (R216, R217). -/

/-- The protected units that `n` bytes of a place of an agent touch: a store to a physical address stands in the core's L1 first. -/
def unitsOf (ag : Agent) (p : Place) (n : Nat) : List ErrLoc :=
  match p with
  | .lane o => (List.range ((o + n - 1) / 8 - o / 8 + 1)).map (fun i => .lane ag.wg ag.tix ag.thread (o / 8 + i))
  | .scratch u o => (List.range ((o + n - 1) / 8 - o / 8 + 1)).map (fun i => .scratch u (o / 8 + i))
  | .dieq x => (List.range ((x + n - 1) / 32 - x / 32 + 1)).map (fun i => .dieq (x / 2 ^ 26) (x % 2 ^ 26 / 32 + i))
  | .phys a => (List.range ((a + n - 1) / 32 - a / 32 + 1)).map (fun i => .dram (a / 32 + i)) ++
      (List.range ((a + n - 1) / 8 - a / 8 + 1)).map (fun i => .dirtyLine ag.core (a / 8 + i))
  | _ => []

/-- A physical byte that a core reads comes from a unit with bad check bits: of its L1 where that holds the byte dirty, of DRAM where it
holds none. -/
def State.badByte (s : State) (core a : Nat) : Bool :=
  match (s.getCore core).bind (fun k => k.l1Byte a) with
  | some b => b.dirty && s.bad.contains (.dirtyLine core (a / 8))
  | none => s.bad.contains (.dram (a / 32))

/-- A read of a place consumes data from a unit with bad check bits (R217). -/
def State.badRead (s : State) (ag : Agent) (p : Place) (n : Nat) : Bool :=
  match p with
  | .phys a => (List.range n).any (fun i => s.badByte ag.core (a + i))
  | _ => (unitsOf ag p n).any (fun u => s.bad.contains u)

/-- A unit lies whole within `n` bytes of a place. -/
def unitWithin (p : Place) (n : Nat) : ErrLoc → Bool
  | .lane _ _ _ k => match p with
    | .lane o => o ≤ 8 * k && 8 * k + 8 ≤ o + n
    | _ => false
  | .scratch _ k => match p with
    | .scratch _ o => o ≤ 8 * k && 8 * k + 8 ≤ o + n
    | _ => false
  | .dieq _ k => match p with
    | .dieq x => x % 2 ^ 26 ≤ 32 * k && 32 * k + 32 ≤ x % 2 ^ 26 + n
    | _ => false
  | .dram k => match p with
    | .phys a => a ≤ 32 * k && 32 * k + 32 ≤ a + n
    | _ => false
  | .dirtyLine _ k => match p with
    | .phys a => a ≤ 8 * k && 8 * k + 8 ≤ a + n
    | _ => false
  | _ => false

/-- The whole units that a write of `n` bytes covers. -/
def unitsCovered (ag : Agent) (p : Place) (n : Nat) : List ErrLoc := (unitsOf ag p n).filter (unitWithin p n)

/-- A partial write merges into a bad unit (R217). -/
def State.badMerge (s : State) (ag : Agent) (p : Place) (n : Nat) : Bool :=
  (unitsOf ag p n).any (fun u => s.bad.contains u && !(unitsCovered ag p n).contains u)

/-- A whole-unit write clears the unit's error (R217). -/
def State.healUnits (s : State) (ag : Agent) (p : Place) (n : Nat) : State :=
  { s with bad := s.bad.filter (fun u => !(unitsCovered ag p n).contains u) }

/-! Doorbells (R335, R336). -/

/-- A kick with value W (R336). -/
def Queue.kick (q : Queue) (w : Nat) : Queue :=
  if w % 64 ≠ 0 ∨ (q.widx < w ∧ w - q.ridx > 2 ^ q.log2sz) then
    (if q.st = .active ∨ q.st = .suspended then
      { q with st := .error, err := 4, eoff := q.ridx % 2 ^ q.log2sz / 64, seq := q.seq + 2 } else q)
  else if w ≤ q.widx then q
  else { q with widx := w, seq := q.seq + 2 }

/-- A kick of queue `n`; `owner` restricts it to the queues of one context. -/
def State.kick (s : State) (n w : Nat) (owner : Option Nat) : State :=
  match s.getQueue n with
  | none => s
  | some q =>
    if q.st = .free ∨ (owner.isSome ∧ owner ≠ some q.ctx) ∨ ((s.getCtx q.ctx).map Context.st) = some .faulted then s
    else s.putQueue (q.kick w)

/-- An 8-byte load of the doorbell page (R335). -/
def State.bellRead (s : State) (c va n : Nat) : List Byte :=
  match s.getCtx c with
  | none => natBytes n 0
  | some x =>
    match s.getQueue ((va - x.doorbell) / 8) with
    | some q => if n = 8 ∧ q.ctx = c ∧ q.st ≠ .free then natBytes 8 q.widx else natBytes n 0
    | none => natBytes n 0

/-- A store to the doorbell page (R335). -/
def State.bellWrite (s : State) (c va : Nat) (bs : List Byte) : State :=
  match s.getCtx c with
  | none => s
  | some x => if bs.length = 8 then s.kick ((va - x.doorbell) / 8) (bytesNat bs) (some c) else s

/-! Reading and writing the bytes of a place. -/

/-- The bytes read by an agent. Remote bytes are read by packets, not here. -/
def State.readPlace (s : State) (ag : Agent) (p : Place) (n : Nat) : List Byte :=
  match p with
  | .lane o => match (s.getWg ag.wg).bind (fun w => w.getTeam ag.tix) with
    | some t => spTake 0 (t.thread ag.thread).lane o n
    | none => natBytes n 0
  | .scratch u o => match s.getWg u with
    | some w => spTake 0 w.scratch o n
    | none => natBytes n 0
  | .dieq i => match s.getCtx ag.ctx with
    | some x => spTake 0 x.dieq (i % 2 ^ 32) n
    | none => natBytes n 0
  | .phys a => s.viewBytes ag.core a n
  | .host a => s.hostTake a n
  | .bell va => s.bellRead ag.ctx va n
  | .remote _ _ => natBytes n 0
  | .migr _ _ => natBytes n 0

/-- A packet's bytes for its place in a mirror or remote home: see `State.send`. The write itself: -/
def State.writePlace (s : State) (ag : Agent) (p : Place) (bs : List Byte) : State :=
  match p with
  | .lane o => (s.modTeam ag.wg ag.tix (fun t => t.modThread ag.thread (fun h => { h with lane := spPut 0 h.lane o bs }))).healUnits
      ag p bs.length
  | .scratch u o => match s.getWg u with
    | some w => (s.putWg { w with scratch := spPut 0 w.scratch o bs }).healUnits ag p bs.length
    | none => s
  | .dieq i => match s.getCtx ag.ctx with
    | some x => (s.putCtx { x with dieq := spPut 0 x.dieq (i % 2 ^ 32) bs }).healUnits ag p bs.length
    | none => s
  | .phys a => ((s.modCore ag.core (fun k => k.l1PutAll a bs)).healUnits ag p bs.length).l1Fit ag.core
  | .host a => s.hostPut a bs
  | .bell va => s.bellWrite ag.ctx va bs
  | .migr l va => s.putLeaf ag.ctx { l with heldStores := l.heldStores ++ [(va, bs)] }
  | .remote _ _ => s

/-! What a team has still to see of the stores of other teams (R221, R224). Plain accesses of different teams are not ordered: a load may
find what stood before a store of another team of the same tier, until an acquire after a release that covers the store. -/

/-- Where bytes that the teams of a tier share stand: the tier, its identity, and the place in it. -/
def staleKey (ag : Agent) : Place → Option (Nat × Nat × Nat)
  | .scratch u o => some (1, u, o)
  | .dieq i => some (3, ag.ctx, i % 2 ^ 32)
  | .phys a => some (4, ag.core, a)
  | _ => none

/-- An entry of a team touches `n` bytes. -/
def Stale.meets (e : Stale) (ag : Agent) (k : Nat × Nat × Nat) (n : Nat) : Bool :=
  e.wg = ag.wg && e.tix = ag.tix && e.space = k.1 && e.tag = k.2.1 && e.lo < k.2.2 + n && k.2.2 < e.lo + e.old.length

/-- The other teams of a context that reach the bytes of a tier. -/
def State.sharers (s : State) (ag : Agent) (space : Nat) : List (Nat × Nat) :=
  (s.wgs.filter (fun w => w.ctx = ag.ctx && (space ≠ 4 || w.core = ag.core))).flatMap (fun w =>
    (w.teams.filter (fun t => !(w.uid = ag.wg && t.tix = ag.tix))).map (fun t => (w.uid, t.tix)))

/-- What a store of `n` bytes by a thread leaves the other teams of the tier to see; its own team sees it at once (R220). -/
def State.keepStale (s : State) (ag : Agent) (p : Place) (n : Nat) : State :=
  match staleKey ag p with
  | none => s
  | some k =>
    { s with stale := s.stale.filter (fun e => !e.meets ag k n) ++ (s.sharers ag k.1).map (fun x =>
        { ctx := ag.ctx, wg := x.1, tix := x.2, space := k.1, tag := k.2.1, lo := k.2.2, old := s.readPlace ag p n, covered := false }) }

/-- Bytes from a place as they stood before a store. -/
def Stale.undo (lo : Nat) (bs : List Byte) (e : Stale) : List Byte :=
  (List.range bs.length).map (fun i => if e.lo ≤ lo + i then e.old.getD (lo + i - e.lo) (bs.getD i 0) else bs.getD i 0)

/-- What a team's load finds: how many of the newest stores that it has not seen stay unseen is open, and it then has seen the older ones. -/
def State.staleRead (s : State) (ag : Agent) (p : Place) (bs : List Byte) : State × List Byte :=
  match staleKey ag p with
  | none => (s, bs)
  | some k =>
    match s.stale.filter (fun e => e.meets ag k bs.length) with
    | [] => (s, bs)
    | e :: r =>
      let y := s.freeValue
      let m := y.1.toNat % (r.length + 2)
      let seen := (e :: r).take m
      ({ y.2 with stale := y.2.stale.filter (fun x => !seen.contains x) }, ((e :: r).drop m).reverse.foldl (Stale.undo k.2.2) bs)

/-- An acquire of a team at a scope: the core's side, and the stores that a release has covered are seen (R224, R229). -/
def State.acquire (s : State) (core wg tix scope : Nat) : State :=
  let s1 := s.acquireAt core scope
  if scope ≥ 2 then { s1 with stale := s1.stale.filter (fun e => !(e.wg = wg && e.tix = tix && e.covered)) } else s1

/-- Every store of a context so far is covered by a release at a scope (R224). -/
def State.cover (s : State) (c scope : Nat) : State :=
  if scope ≥ 2 then { s with stale := s.stale.map (fun e => if e.ctx = c then { e with covered := true } else e) } else s

/-- A release at a scope for a context: the core's side, and every store so far is covered (R224, R229). -/
def State.release (s : State) (core c scope : Nat) : State := (s.releaseAt core scope).cover c scope

/-- Forgets what the teams of a set of workgroups had still to see. -/
def State.staleDrop (s : State) (uids : List Nat) : State := { s with stale := s.stale.filter (fun e => !uids.contains e.wg) }

/-! Packets to other packages (R413 to R430). -/

/-- Flits of a packet (R413). -/
def flits (conf : Bool) (bytes : Nat) : Nat := (32 + bytes + (if conf then 16 else 0) + 63) / 64

/-- TYPE of R414. -/
def PktType.code : PktType → Nat
  | .read => 1 | .write => 2 | .atomic => 3 | .reply => 4 | .ack => 5 | .rpart => 6 | .control _ => 7

/-- The 32-byte header (R413). -/
def packetHeader (p : Packet) (ty : PktType) : List Byte :=
  natBytes 1 ty.code ++ natBytes 1 (p.len + (if p.conf then 8 else 0) + (if p.keyix then 16 else 0) +
    (if p.relayed then 32 else 0)) ++ natBytes 1 p.src ++ natBytes 1 p.dst ++ natBytes 4 p.seq ++ natBytes 1 p.ctx ++
  natBytes 1 (p.scope + 8 * p.ord) ++ natBytes 1 (p.aop + 16 * p.ty) ++ natBytes 1 0 ++ natBytes 4 p.rid ++
  natBytes 8 p.addr ++ natBytes 8 p.mask.toNat

/-- A packet with empty fields. -/
def blankPacket (dst ctx : Nat) : Packet :=
  { conf := false, keyix := false, relayed := false, len := 1, src := 0, dst := dst, seq := 0, ctx := ctx, scope := 0,
    ord := 0, aop := 0, ty := 0, rid := 0, addr := 0, mask := 0, payload := [], wellFormed := true, tagOk := true }

/-- Why a packet cannot be sent now. -/
inductive SendBar where
  | open_ | unreachable | key | full
  deriving DecidableEq, Repr

/-- Flits the send store holds (R430). -/
def State.sendFlits (s : State) : Nat := (s.sendStore.map (fun o => o.p.len)).foldl (· + ·) 0

/-- An ID names another assigned package that is reachable (R410, R418). -/
def State.reachable (s : State) (dst : Nat) : Bool := dst < 192 && dst ≠ s.pkg && (s.peer dst).reach = 1

/-- A CONF packet of `n` flits can be encrypted under the pair's send key (R428). -/
def Peer.keyReady (p : Peer) (n : Nat) : Bool :=
  p.txNext.isSome || (match p.txKey with
    | some k => k.st ≠ 3 && k.ctr + n ≤ 2 ^ 48 - 1
    | none => false)

/-- Whether a packet of some payload bytes can be sent (R415, R418, R428). -/
def State.sendBar (s : State) (dst : Nat) (conf : Bool) (bytes : Nat) : SendBar :=
  if !s.reachable dst then .unreachable
  else if conf && !(s.peer dst).keyReady (flits conf bytes) then .key
  else if s.sendFlits + flits conf bytes > 2 ^ 24 then .full
  else .open_

/-- The send key used for the next CONF packet: a newly installed one becomes current with its counter at 0 (R427). -/
def Peer.takeKey (p : Peer) : Peer :=
  match p.txNext with
  | some (ix, k) => { p with txKey := some { key := k, ix := ix, ctr := 0, st := 1 }, txNext := none, refused := none }
  | none => p

/-- The IV of R426. -/
def ivOf (ctr src dst ix : Nat) : Nat := ctr * 2 ^ 48 + src * 2 ^ 40 + dst * 2 ^ 32 + ix * 2 ^ 31

/-- Advances a key's counter; at 2^47 its state becomes WARN (R428). -/
def SendKey.advance (k : SendKey) (n : Nat) : SendKey :=
  { k with ctr := k.ctr + n, st := if k.ctr + n ≥ 2 ^ 47 then 2 else k.st }

/-- The refusal of a CONF packet for want of key counts makes the key EXHAUSTED and starts the timer (R428). -/
def State.exhaust (s : State) (dst : Nat) : State :=
  let p := s.peer dst
  s.putPeer { p with txKey := p.txKey.map (fun k => { k with st := 3 }),
                     refused := match p.refused with
                       | some t => some t
                       | none => some s.tai }

/-- Counts a gang packet sent to, or received from, a peer (R377, R380): every packet of a gang context that is no CONTROL. -/
def countOf (p : Nat) (l : List (Nat × Nat)) : List (Nat × Nat) := tabSet p (((tabGet p l).getD 0 + 1) % 2 ^ 64) l

def PktType.counted : PktType → Bool
  | .control _ => false
  | _ => true

def State.countTx (s : State) (ty : PktType) (c p : Nat) : State :=
  match s.getCtx c with
  | some x => if x.gang && ty.counted then s.putCtx { x with txc := countOf p x.txc } else s
  | none => s

def State.countRx (s : State) (ty : PktType) (c p : Nat) : State :=
  match s.getCtx c with
  | some x => if x.gang && ty.counted then s.putCtx { x with rxc := countOf p x.rxc } else s
  | none => s

/-- Puts a packet into the send store with the pair's next sequence number, encrypted where CONF (R415, R426). -/
def State.send (s0 : State) (ty : PktType) (q : Packet) : State :=
  let s := s0.countTx ty q.ctx q.dst
  let p := s.peer q.dst
  let n := flits q.conf q.payload.length
  if q.conf then
    let p1 := p.takeKey
    match p1.txKey with
    | none => s
    | some k =>
      let q1 := { q with src := s.pkg, seq := p.txSeq.toNat, len := n, keyix := k.ix = 1 }
      let q2 := { q1 with payload := Config.gcm k.key (ivOf k.ctr s.pkg q.dst k.ix) (packetHeader q1 ty) q1.payload }
      let s1 := s.putPeer { p1 with txSeq := p.txSeq + 1, txKey := some (k.advance n) }
      let s2 := { s1 with sendStore := s1.sendStore ++ [{ type := ty, p := q2, sentAt := none, firstAt := s.tai }] }
      if k.ctr < 2 ^ 47 ∧ k.ctr + n ≥ 2 ^ 47 then s2.emit (.msix 0) else s2
  else
    let q1 := { q with src := s.pkg, seq := p.txSeq.toNat, len := n }
    let s1 := s.putPeer { p with txSeq := p.txSeq + 1 }
    { s1 with sendStore := s1.sendStore ++ [{ type := ty, p := q1, sentAt := none, firstAt := s.tai }] }

/-- RID of a team's request (R413): core, lane, team slot and the request's number. -/
def ridOf (core lane slot n : Nat) : Nat := core % 1024 + lane % 16 * 2 ^ 10 + slot % 4 * 2 ^ 14 + n % 2 ^ 16 * 2 ^ 16

/-- The packages a store to a page goes to: its home and, where mirrored, its peer; a home that is this package needs no
packet (R424). -/
def Leaf.dests (l : Leaf) (pkg : Nat) : List Nat := ([l.home] ++ if l.mir then [l.peer] else []).filter (fun d => d ≠ pkg)

/-- Bits `lo` to `lo + n − 1` of a byte mask. -/
def byteMask (lo n : Nat) : BitVec 64 := BitVec.ofNat 64 ((2 ^ n - 1) * 2 ^ lo)

/-- A WRITE packet of consecutive bytes within one block (R420). -/
def writePacket (ctx dst : Nat) (conf : Bool) (scope ord rid va : Nat) (bs : List Byte) : Packet :=
  { blankPacket dst ctx with conf := conf, scope := scope, ord := ord, rid := rid, addr := va,
                              mask := byteMask (va % 64) bs.length, payload := bs }

/-- Sets physical bytes of DRAM at offsets from a base. -/
def putBytesAt (base : Nat) : List (Nat × Byte) → SparseB → SparseB
  | [], m => m
  | (k, b) :: r, m => putBytesAt base r (spSet 0 m (pa42 (base + k)) b)

/-- A store of this package to a mirrored page whose PEER is this package stands in the frame here, too (R424). -/
def State.mirrorHere (s : State) (c va : Nat) (bs : List (Nat × Byte)) : State :=
  match (s.getCtx c).bind (fun x => x.walk va) with
  | some l => if l.mir && l.peer = s.pkg && l.home ≠ s.pkg then { s with dram := putBytesAt (l.frame + (va - l.va)) bs s.dram } else s
  | none => s

/-- Sends one WRITE to each of a list of packages. -/
def State.sendWrites (s : State) (ctx : Nat) (conf : Bool) (scope ord rid va : Nat) (bs : List Byte) : List Nat → State
  | [] => s.mirrorHere ctx va ((List.range bs.length).map (fun k => (k, bs.getD k 0)))
  | d :: r => (s.send .write (writePacket ctx d conf scope ord rid va bs)).sendWrites ctx conf scope ord rid va bs r

/-- The barriers against sending to each of a list of packages: the first that is not open. -/
def State.barOf (s : State) (conf : Bool) (bytes : Nat) : List Nat → SendBar × Nat
  | [] => (.open_, 0)
  | d :: r => if s.sendBar d conf bytes = .open_ then s.barOf conf bytes r else (s.sendBar d conf bytes, d)

/-- Sends a reply or acknowledgement, or keeps it until it can go, behind those kept for the same package. -/
def State.owe (s : State) (ty : PktType) (p : Packet) : State :=
  let bar := s.sendBar p.dst p.conf p.payload.length
  if bar = .open_ && !s.owed.any (fun o => o.p.dst = p.dst) then s.send ty p
  else if bar = .unreachable then s
  else
    let s1 := if bar = .key then s.exhaust p.dst else s
    { s1 with owed := s1.owed ++ [{ type := ty, p := p, sentAt := none, firstAt := s.tai }] }

/-! Memory as firmware, the loader and the queue processor reach it: at the point of coherence. -/

/-- Reads `n` bytes of a context's memory; none where a byte is unmapped, not resident, migrating, or another package's. -/
def State.memGet (s : State) (c : Nat) : Nat → Nat → Option (List Byte)
  | _, 0 => some []
  | va, n + 1 =>
    match (s.getCtx c).bind (fun x => x.walk va) with
    | none => none
    | some l =>
      if !l.res || l.mig || (l.home ≠ 255 && l.home ≠ s.pkg) then none
      else
        let b := if l.home = 255 then spGet 0 s.hostMem (l.frame + (va - l.va))
                 else spGet 0 s.dram (pa42 (l.frame + (va - l.va)))
        (s.memGet c (va + 1) n).map (fun r => b :: r)

/-- Firmware, the loader and the queue processor as agents: they stand on no core. -/
def firmwareAgent (c : Nat) : Agent := { ctx := c, core := 1024, wg := 0, tix := 0, thread := 0 }

/-- Writes bytes of one page of a context's memory at the point of coherence. A partial write into a unit with bad check bits is an
imprecise MEM_UE of the context, and a whole unit written is good again (R217). -/
def State.pagePut (s : State) (c : Nat) (l : Leaf) (va : Nat) (bs : List Byte) : State :=
  let s1 := s.setDirty c va
  let pa := pa42 (l.frame + (va - l.va))
  if l.home = 255 then s1.hostPut (l.frame + (va - l.va)) bs
  else if l.home = s.pkg then
    let s2 : State := { s1 with dram := spPut 0 s1.dram pa bs,
                                cores := s1.cores.map (fun k => { k with
                                  l1 := k.l1.filter (fun b => b.dirty || !(pa ≤ b.addr && b.addr < pa + bs.length)) }) }
    let s3 := s2.healUnits (firmwareAgent c) (.phys pa) bs.length
    if s1.badMerge (firmwareAgent c) (.phys pa) bs.length then s3.fatal c (ctxRecord s3 { mkFault clsMemUe 0 va with imprecise := true })
    else s3
  else s1.sendWrites c l.conf 0 0 0 va bs (l.dests s.pkg)

/-- What stands in the way of a firmware write of `n` bytes at an aligned address. -/
inductive PutBar where
  | open_ (l : Leaf) | wait | never
  deriving DecidableEq, Repr

def State.putBar (s : State) (c va : Nat) : PutBar :=
  match (s.getCtx c).bind (fun x => x.walk va) with
  | none => .never
  | some l => if !l.w then .never else if !l.res || l.mig then .wait else .open_ l

end Sys2Proof.Machine
end

