-- ==== Sys2Proof/Machine/Operands.lean ====
section
/-! DEFINITION. Operands of an instruction as it issues (R61 to R64, R123): the running issue, reading a source, writing
a destination, and stream registers as operands (R213 to R215). -/
namespace Sys2Proof.Machine

/-- States in which an object's code can be reached (R167). -/
def ObjSt.reachable : ObjSt → Bool
  | .loaded => true | .quarantined => true | .unloading => true | .unloaded => false

/-- The object of a context whose `.text` holds an address. -/
def State.objAt (s : State) (c addr : Nat) : Option CodeObj :=
  findBy (fun o => o.ctx = c && o.st.reachable && o.text ≤ addr && addr < o.text + o.textSize) s.objects

/-- The directory entry of a function: the object's identity, its offset, and the translator's version. -/
def State.dirFind (s : State) (id : BitVec 384) (off : Nat) : Option DirEntry :=
  findBy (fun d => d.identity = id && d.off = off && d.version = s.version) s.dir

/-! The translation that a team runs, and its counts (R318, R323, R392). -/

/-- The start of the function that holds an address: the greatest function symbol at or below it. -/
def CodeObj.fnStart (o : CodeObj) (a : Nat) : Nat :=
  (o.syms.map (fun y => if y.func && y.defined && y.addr ≤ a then y.addr else 0)).foldl max 0

/-- The directory entry of the function at an address, and the generation that a workgroup runs (R318): that of its node for the kernel that
the node launches, whatever the translator's version is by now, and otherwise the current one. -/
def State.entryAt (s : State) (w : Workgroup) (pc : Nat) : Option (DirEntry × Nat) :=
  (s.objAt w.ctx pc).bind (fun o =>
    let off := o.fnStart pc - o.text
    match (s.getNode w.node).bind (fun n => (n.dir.bind s.getDir).bind (fun d =>
        if d.identity = o.identity ∧ d.off = off then some (d, n.dirGen) else none)) with
    | some x => some x
    | none => (s.dirFind o.identity off).map (fun d => (d, d.gen)))

/-- The counts of a context for a generation. -/
def DirEntry.counts (d : DirEntry) (c g : Nat) : ProfCount :=
  (findBy (fun p => p.ctx = c && p.gen = g) d.prof).getD { ctx := c, gen := g, nodes := 0, rollbacks := 0, samples := 0 }

/-- The retired operations that code executes again are counted again (R98): how many stand there is open, and only those that have executed
before can. -/
def State.countAgain (s : State) (c : Nat) : State :=
  match s.getCtx c with
  | none => s
  | some x =>
    let y := s.freeValue
    let more := fun (k n : Nat) => if n = 0 then 0 else min (n + (y.1.toNat / 2 ^ (8 * k)) % 256) (2 ^ 64 - 1)
    y.2.putCtx { x with ladder := modNth (more 1) (modNth (more 0) x.ladder 0) 1 }

/-- A rollback in a translation that a workgroup runs is counted (R327 item 4, R328). -/
def State.countRollback (s : State) (w : Workgroup) (pc : Nat) : State :=
  let s1 := s.modCore w.core (fun k => { k with aliasRb := BitVec.ofNat 64 ((k.aliasRb.toNat + 1) % 2 ^ 48) })
  match s1.entryAt w pc with
  | none => s1
  | some (d, g) =>
    let p := d.counts w.ctx g
    s1.putDir { d with prof := { p with rollbacks := p.rollbacks + 1 } :: d.prof.filter (fun q => !(q.ctx = w.ctx && q.gen = g)) }

/-- What has become of the part of an issue that is executing. -/
inductive Halt where
  | go
  | stall (w : Stall)
  /-- a team-replayable fault (R177) or a handled lock (R369) -/
  | replay (why : ReplayWhy)
  | fatal (f : FaultInfo)
  deriving DecidableEq, Repr

/-- An instruction while it issues: the state, with the issuing workgroup and team taken out of it; the instruction's
address and the address past it; the candidates, and the participants that have still to execute (R160). -/
structure Run where
  s : State
  w : Workgroup
  t : Team
  pc : Nat
  nxt : Nat
  halt : Halt
  cands : BitVec 32
  parts : List Nat
  active : Bool
  /-- threads that took a replayable fault, with the latest cause -/
  pf : BitVec 32
  why : ReplayWhy
  /-- participants that a stall leaves to execute -/
  pend : BitVec 32
  /-- candidates whose PC the instruction has set, or that it has taken out of RUN -/
  moved : BitVec 32
  /-- threads held responsible for a fatal fault -/
  tmask : BitVec 32
  /-- the team replays (R177 step 4) -/
  replaying : Bool
  /-- the instruction is a continuation after a stall (R179) -/
  resumed : Bool
  /-- `TEAM_STAT.DIV` as the bundle issued (R175) -/
  div : Bool
  /-- loads that go to another package: thread, page and address (R419) -/
  reads : List (Nat × Leaf × Nat)
  /-- threads that go to PARK at the end of the issue (R170) -/
  park : BitVec 32
  /-- what the team waits for after the instruction has completed -/
  post : Option Stall
  deriving DecidableEq, Repr

/-- The state with the workgroup and the team put back. -/
def Run.sync (r : Run) : State := r.s.putWg (r.w.putTeam r.t)

/-- The run over a state from which the workgroup and the team are taken again. -/
def Run.load (r : Run) (s : State) : Run :=
  match s.getWg r.w.uid with
  | none => { r with s := s }
  | some w => match w.getTeam r.t.tix with
    | none => { r with s := s, w := w }
    | some t => { r with s := s, w := w, t := t }

/-- The agent of a thread. -/
def Run.agent (r : Run) (i : Nat) : Agent := { ctx := r.w.ctx, core := r.w.core, wg := r.w.uid, tix := r.t.tix, thread := i }

def Run.stall (r : Run) (w : Stall) : Run := { r with halt := .stall w }

/-- Raises a context-fatal fault precisely at the instruction for thread `i`. -/
def Run.fatalAt (r : Run) (i : Nat) (f : FaultInfo) : Run :=
  { r with halt := .fatal { f with ppc := r.pc }, tmask := bit32 i }

def Run.fatal (r : Run) (i cls sub addr : Nat) : Run := r.fatalAt i (mkFault cls sub addr)

/-- Ends the access of a thread as its address check does (R191, R177). -/
def Run.replayAt (r : Run) (va : Nat) : Run := { r with halt := .replay (.page va) }

/-- LOCKED_RANGE (R236), handled by firmware when the context's fault control says so (R369). -/
def Run.lockedAt (r : Run) (i : Nat) (sub addr : Nat) (l : Lock) : Run :=
  match r.s.getCtx r.w.ctx with
  | some x => if x.lrh then { r with halt := .replay (.lock l.op) }
              else r.fatalAt i { mkFault clsLocked sub addr with token := l.tk }
  | none => r.fatalAt i { mkFault clsLocked sub addr with token := l.tk }

/-! Stream records (R77). -/

/-- The stream record of a kernel for a stream register, among the records of an object. -/
def recordOf (kernels streams : List Byte) (kernel q : Nat) : Option (List Byte) :=
  let d := (kernels.drop (64 * kernel)).take 64
  let first := fieldAt d 28 2
  let n := fieldAt d 30 1
  findBy (fun rec => fieldAt rec 0 1 = q)
    ((List.range n).map (fun i => (streams.drop (64 * (first + i))).take 64))

/-- The stream record of a workgroup's kernel for a stream register. -/
def State.streamRecord (s : State) (w : Workgroup) (q : Nat) : Option (List Byte) :=
  (s.getObj w.obj).bind (fun o => recordOf o.kernels o.streams w.kernel q)

/-- The product of a record's counts. -/
def recTotal (rec : List Byte) : Nat :=
  fieldAt rec 16 4 * fieldAt rec 20 4 * fieldAt rec 24 4 * fieldAt rec 28 4

/-- The byte offset of element `n` of a pattern: its mixed-radix digits by the strides, dimension 0 innermost. -/
def patternOff : List (Nat × Int) → Nat → Int
  | [], _ => 0
  | (c, st) :: r, n => ((n % c : Nat) : Int) * st + patternOff r (n / c)

/-- The dimensions of a record: counts and strides. -/
def recDims (rec : List Byte) : List (Nat × Int) :=
  (List.range (fieldAt rec 3 1)).map (fun d => (fieldAt rec (16 + 4 * d) 4, signedAt rec (32 + 8 * d) 8))

/-- The address of element `n`, before the checks of R191. -/
def elemAddr (rec : List Byte) (base n : Nat) : Int := (base : Int) + patternOff (recDims rec) n

/-! Reading memory for one thread, with every check: R191, R401, the range locks and MEM_UE. -/

/-- What a memory read or check for a thread answers: a place, or how the thread's part ends. -/
inductive Checked where
  | ok (p : Place)
  | halt (r : Run)

/-- The checks of an access of thread `i`: address, translation, then the lock table (R205). -/
def Run.check (r : Run) (i sp : Nat) (addr : Int) (n al : Nat) (acc : Acc) : Checked :=
  let s := r.sync
  match s.locate (r.agent i) sp addr n al acc with
  | .bad f => .halt (r.fatalAt i f)
  | .replay va _ => .halt (r.replayAt va)
  | .at_ p =>
    match s.lockMet (r.agent i) sp p addr.toNat n (acc ≠ .load) with
    | some (sub, l) => .halt (r.lockedAt i sub addr.toNat l)
    | none => .ok p

/-- The run after a read of a place: the bytes, the translations cached, and the lines the L1 keeps; MEM_UE when the data
comes from a bad unit (R217). -/
def Run.readAt (r : Run) (i sp : Nat) (addr n : Nat) (p : Place) : Run × List Byte :=
  let s := r.sync
  if s.badRead (r.agent i) p n then (r.fatal i clsMemUe 0 addr, natBytes n 0)
  else
    let bs := s.readPlace (r.agent i) p n
    match p with
    | .phys pa => (r.load ((s.tlbFill r.w.ctx r.w.core addr).l1Keep r.w.core pa n), bs)
    | _ => (if sp = 4 then r.load (s.tlbFill r.w.ctx r.w.core addr) else r, bs)

/-- What each package that a request goes to has still to acknowledge. -/
def ackKeys (q : Nat) (mir : Bool) (ppc va : Nat) (ds : List Nat) : List Unacked :=
  ds.map (fun d => { req := q, peer := d, mir := mir, ppc := ppc, va := va })

/-- A plain write of thread `i` to a checked place: the page's D bit, the mirror's packet, and the imprecise MEM_UE of a
partial merge into a bad unit (R217, R238, R398, R424). -/
def Run.writeAt (r : Run) (i sp : Nat) (addr : Nat) (p : Place) (bs : List Byte) : Run :=
  let s := r.sync
  let bad := s.badMerge (r.agent i) p bs.length
  let s1 := (s.keepStale (r.agent i) p bs.length).writePlace (r.agent i) p bs
  let s2 := if sp = 4 then (s1.tlbFill r.w.ctx r.w.core addr).setDirty r.w.ctx addr else s1
  let q := s2.nextId
  let ds := match p, s2.translate r.w.ctx r.w.core addr with
    | .phys _, some l => if l.mir then (l.conf, l.dests s.pkg) else (false, [])
    | _, _ => (false, [])
  let s3 := if ds.2.isEmpty then s2
            else ({ s2 with nextId := q + 1 } : State).sendWrites r.w.ctx ds.1 0 0 (ridOf r.w.core r.t.lane r.t.slot q) addr bs ds.2
  let r0 := r.load s3
  let r1 := { r0 with t := { r0.t with unacked := r0.t.unacked ++ ackKeys q true r.pc addr ds.2 } }
  if bad then
    { r1 with t := { r1.t with pendFaults := r1.t.pendFaults ++
        [{ mkFault clsMemUe 0 addr with imprecise := true, ppc := r.pc }] } }
  else r1

/-! Stream registers as operands (R214, R215). -/

/-- Whether packets can be sent for the context now: a gang that has taken a PREEMPT instant sends no request (R383). -/
def Run.bar (r : Run) (i : Nat) (conf : Bool) (bytes va : Nat) (ds : List Nat) : Option Run :=
  if ds.isEmpty then none
  else if ((r.s.getCtx r.w.ctx).map Context.gangQuiet).getD false then some (r.stall .quiet)
  else match r.s.barOf conf bytes ds with
    | (.unreachable, _) => some (r.fatal i clsLink 0 va)
    | (.key, d) => some (r.stall (.key d))
    | (.full, _) => some (r.stall .sendStore)
    | (.open_, _) => none

/-! The combining buffer (R241). -/

/-- The bytes of a combining entry in ascending order, as a WRITE's payload. -/
def CombEntry.payload (c : CombEntry) : List Byte :=
  ((List.range 64).filter (fun k => c.mask.getLsbD k)).map (fun k => spGet 0 c.bytes k)

/-- Sends the WRITE of a drained entry to a list of packages. -/
def sendMasked (s : State) (c : CombEntry) (ctx : Nat) (conf : Bool) (rid : Nat) : List Nat → State
  | [] => s.mirrorHere ctx c.block (((List.range 64).filter (fun k => c.mask.getLsbD k)).map (fun k => (k, spGet 0 c.bytes k)))
  | d :: r =>
    sendMasked (s.send .write { blankPacket d ctx with conf := conf, rid := rid, addr := c.block, mask := c.mask,
                                                       payload := c.payload }) c ctx conf rid r

/-- Puts a byte of a drained entry where its page stands here now: a page that migrates or is not resident holds it (R238, R408). -/
def State.storeHere (s : State) (ag : Agent) (va : Nat) (b : Byte) : State :=
  match (s.getCtx ag.ctx).bind (fun x => x.walk va) with
  | none => s
  | some l =>
    if !l.res || l.mig then s.writePlace ag (.migr l va) [b]
    else if l.home = 255 then s.writePlace ag (.host (l.frame + (va - l.va))) [b]
    else s.writePlace ag (.phys (pa42 (l.frame + (va - l.va)))) [b]

/-- Puts the bytes of a drained entry where they stand here, in ascending order. -/
def State.storesHere (s : State) (ag : Agent) (c : CombEntry) : List Nat → State
  | [] => s
  | k :: r => (s.storeHere ag (c.block + k) (spGet 0 c.bytes k)).storesHere ag c r

/-- Drains one entry: it becomes one WRITE for each home of its page (R420, R424); where the page has come to this package, to the host,
or is between two places, it is stored there (R408). An unreachable home is an imprecise fault (R423); a page no longer mapped leaves
nothing to send. -/
def Run.drainOne (r : Run) (c : CombEntry) : Run :=
  let r0 := { r with t := { r.t with comb := r.t.comb.filter (fun x => x ≠ c) } }
  match (r.s.getCtx r.w.ctx).bind (fun x => x.walk c.block) with
  | none => r0
  | some l =>
    if !l.res || l.mig || l.home = 255 || l.home = r.s.pkg then
      r0.load (r0.sync.storesHere (r.agent c.thread) c ((List.range 64).filter (fun k => c.mask.getLsbD k)))
    else
      let ds := l.dests r.s.pkg
      match r.bar c.thread l.conf c.payload.length c.block ds with
      | some r1 =>
        match r1.halt with
        | .fatal _ => { r0 with t := { r0.t with pendFaults := r0.t.pendFaults ++
            [{ mkFault clsLink 0 c.block with imprecise := true, ppc := c.ppc }] } }
        | .stall (.key d) => { r1 with s := r1.s.exhaust d }
        | _ => r1
      | none =>
        let q := r.s.nextId
        let s1 := { r.s with nextId := q + 1 }
        { r0 with s := sendMasked s1 c r.w.ctx l.conf (ridOf r.w.core r.t.lane r.t.slot q) ds,
                  t := { r0.t with unacked := r0.t.unacked ++ ackKeys q l.mir c.ppc c.block ds } }

/-- Drains a list of entries, as far as sending is possible. -/
def Run.drainList : List CombEntry → Run → Run
  | [], r => r
  | c :: rest, r =>
    let r1 := r.drainOne c
    if r1.halt = .go then Run.drainList rest r1 else r1

/-- Drains the entries that a test accepts, oldest first. -/
def Run.drain (r : Run) (p : CombEntry → Bool) : Run := Run.drainList (r.t.comb.filter p) r

/-- An entry of the block of an address. -/
def CombEntry.isAt (c : CombEntry) (va : Nat) : Bool := c.block = va / 64 * 64

/-- An entry holds one of `n` bytes from an address of its block. -/
def CombEntry.touches (c : CombEntry) (va n : Nat) : Bool := c.isAt va && (c.mask &&& byteMask (va % 64) n) ≠ 0

/-! A fence's release that is still to perform (R227). -/

/-- Remote stores and atomics that some team of a context has outstanding. -/
def State.ctxUnacked (s : State) (c : Nat) : Bool := s.wgs.any (fun w => w.ctx = c && w.teams.any (fun t => t.unacked ≠ []))

/-- A fence's release performs before the team's next store: at `.gang` or `.sys` it waits for the acknowledgements of the remote stores
that it covers (R239). -/
def Run.settleRel (r : Run) : Run :=
  match r.t.relPend with
  | none => r
  | some sc =>
    if sc ≥ 6 && r.sync.ctxUnacked r.w.ctx then r.stall .remote
    else { r with s := r.s.release r.w.core r.w.ctx sc, t := { r.t with relPend := none } }

/-! Stores that leave at once, and stream registers as operands. -/

/-- Sends one stream element, or a release store, as its own WRITE and keeps its acknowledgement outstanding (R420). What the team's
buffer holds of the same bytes leaves first (R220, R241). -/
def Run.remoteWrite (r0 : Run) (i : Nat) (l : Leaf) (va scope ord : Nat) (bs : List Byte) : Run :=
  let r := r0.drain (fun c => c.touches va bs.length)
  if r.halt ≠ .go then r
  else
    let ds := l.dests r.s.pkg
    match r.bar i l.conf bs.length va ds with
    | some r1 => r1
    | none =>
      let q := r.s.nextId
      let s1 := { r.s with nextId := q + 1 }
      { r with s := s1.sendWrites r.w.ctx l.conf scope ord (ridOf r.w.core r.t.lane r.t.slot q) va bs ds,
               t := { r.t with unacked := r.t.unacked ++ ackKeys q l.mir r.pc va ds } }

/-- The range lock that the consumption of a read stream's next element meets (R235): the address is the element's. -/
def State.streamLock (s : State) (ag : Agent) (w : Workgroup) (st : Stream) (q : Nat) : Option (Nat × Nat × Lock) :=
  match s.streamRecord w q with
  | none => none
  | some rec =>
    let a := elemAddr rec st.base st.pos
    let sp := fieldAt rec 4 1
    let n := 2 ^ st.esz
    if sp = 4 then (s.lockMet ag 4 (.phys 0) (a % 2 ^ 64).toNat n false).map (fun x => ((a % 2 ^ 64).toNat, x))
    else
      match s.locate ag sp a n n .load with
      | .at_ p => (s.lockMet ag sp p a.toNat n false).map (fun x => (a.toNat, x))
      | _ => none

/-- A page fault kept with a fetched element (R215). -/
def FaultInfo.isPage (f : FaultInfo) : Bool := f.cls = clsPageNr || f.cls = clsPageMig

/-- A read of stream register `q` by thread `i`: the next element, or the end of the thread's part. The lock table is checked as the element
is consumed (R235, R236). An element that met a page not there replays while the page is away, and is fetched again once it is
there (R215). -/
def Run.streamRead (r : Run) (i q : Nat) : Run × Nat × Nat :=
  let st := r.t.stream q
  if !st.bound || st.write then (r.fatal i clsAddress 6 0, 0, 0)
  else
    match st.buf with
    | el :: rest =>
      match el.fault with
      | none =>
        (match r.sync.streamLock (r.agent i) r.w st q with
         | some (a, sub, l) => (r.lockedAt i sub a l, 0, 0)
         | none => ({ r with t := r.t.setStream q { st with buf := rest, pos := st.pos + 1 } }, el.val, st.esz))
      | some f =>
        if f.isPage then
          match r.sync.locate (r.agent i) 4 f.addr (2 ^ st.esz) 1 .load with
          | .replay va _ => (r.replayAt va, 0, 0)
          | .bad g => (r.fatalAt i g, 0, 0)
          | .at_ _ => (r.stall (.stream q), 0, 0)
        else (r.fatalAt i f, 0, 0)
    | [] => if st.pos ≥ st.total then (r.fatal i clsAddress 7 0, 0, 0) else (r.stall (.stream q), 0, 0)

/-- The code at an address of a context is in the native form (R2): the object that holds the address says so. -/
def State.nativeAt (s : State) (c pc : Nat) : Bool := ((s.objAt c pc).map CodeObj.native).getD false

/-- The team's next instruction is native code: what a transfer reaches is read in the form of the object that holds it, whatever object
was launched. -/
def State.inNative (s : State) (w : Workgroup) (t : Team) : Bool :=
  match t.leadPc with
  | some p => s.nativeAt w.ctx p
  | none => false

/-- A store of portable code may meet a load that the translator has hoisted above it, and cause a rollback (R325 to R327): whether it
does is open, and nothing but the counts shows it. What is executed again counts again (R98). -/
def Run.mayRoll (r : Run) : Run :=
  if r.halt ≠ .go || r.s.nativeAt r.w.ctx r.pc then r
  else
    let y := r.s.freeValue
    { r with s := if y.1.getLsbD 0 then (y.2.countRollback r.w r.pc).countAgain r.w.ctx else y.2 }

/-- An append by thread `i` to write stream `q`: a plain store of the element's low bytes (R214). -/
def Run.streamWrite (r0 : Run) (i q x : Nat) : Run :=
  let r := r0.settleRel
  let st := r.t.stream q
  if r.halt ≠ .go then r else
  match r.s.streamRecord r.w q with
  | none => r.fatal i clsAddress 6 0
  | some rec =>
    if !st.bound || !st.write then r.fatal i clsAddress 6 0
    else if st.pos ≥ st.total then r.fatal i clsAddress 7 0
    else
      let a := elemAddr rec st.base st.pos
      let n := 2 ^ st.esz
      let bs := natBytes n x
      let sp := fieldAt rec 4 1
      match r.check i sp a n n .weak with
      | .halt r1 => r1
      | .ok p =>
        let r1 := match p with
          | .remote l va => r.remoteWrite i l va 0 0 bs
          | _ => r.writeAt i sp a.toNat p bs
        ({ r1 with t := r1.t.setStream q { st with pos := st.pos + 1 } } : Run).mayRoll

/-- A stream element as an operand of a type (R214): its low bytes; a smaller one extended as the type's sign. -/
def streamVal (ty esz x : Nat) : Nat :=
  let w := 8 * 2 ^ esz
  let y := if tySigned ty && w < 64 then toBits 64 (sVal w x) else x
  if Legal.ty64 ty then y % 2 ^ 64 else y % 2 ^ 32

/-! Sources and destinations (R61 to R64, R123). -/

/-- A register pair, low half first (R123). -/
def pairVal (lo hi : Word) : Nat := lo.toNat + 2 ^ 32 * hi.toNat

/-- Reads a source operand of thread `i` at type `ty`, after its select at width `w`; `pair` for a register pair. -/
def Run.read (r : Run) (i : Nat) (o : Operand) (ty w k : Nat) (pair : Bool) : Run × Nat :=
  match o with
  | .v n => (r, if pair then pairVal (r.t.vGet i n.toNat) (r.t.vGet i (n.toNat + 1))
                else selSrc w k (r.t.vGet i n.toNat).toNat)
  | .s n => (r, if pair then pairVal (r.t.sGet n.toNat) (r.t.sGet (n.toNat + 1)) else selSrc w k (r.t.sGet n.toNat).toNat)
  | .zero => (r, 0)
  | .p n => (r, if r.t.pGet i n.toNat then 1 else 0)
  | .q n => let x := r.streamRead i n.toNat
            (x.1, streamVal ty x.2.2 x.2.1)
  | .imm n => (r, immVal ty n)
  | .bar n => (r, n.toNat)
  | .ring n => (r, n.toNat)
  | .vt n => (r, n.toNat)
  | .tk n => (r, n.toNat)

/-- Writes a result of thread `i` to a destination (R72, R123, R135). -/
def Run.write (r : Run) (i : Nat) (o : Operand) (w k : Nat) (pair : Bool) (x : Nat) : Run :=
  match o with
  | .v n =>
    if pair then { r with t := (r.t.vSet i n.toNat (BitVec.ofNat 32 x)).vSet i (n.toNat + 1) (BitVec.ofNat 32 (x / 2 ^ 32)) }
    else { r with t := r.t.vSet i n.toNat (BitVec.ofNat 32 (selDst w k (r.t.vGet i n.toNat).toNat x)) }
  | .s n =>
    if pair then { r with t := (r.t.sSet n.toNat (BitVec.ofNat 32 x)).sSet (n.toNat + 1) (BitVec.ofNat 32 (x / 2 ^ 32)) }
    else { r with t := r.t.sSet n.toNat (BitVec.ofNat 32 (selDst w k (r.t.sGet n.toNat).toNat x)) }
  | .p n => { r with t := r.t.pSet i n.toNat (x % 2 = 1) }
  | .q n => r.streamWrite i n.toNat x
  | _ => r

/-- ORs flags into `TEAM_FSTAT` (R41). -/
def Run.flags (r : Run) (fl : BitVec 6) : Run := { r with t := { r.t with fstat := r.t.fstat ||| fl } }

/-- R63: a portable instruction executes once per team when it is unguarded, its destination is an s register, the zero
source or none, its register operands are s registers, and no operand is a predicate or a stream register. -/
def uniformOpd (used : Bool) : Operand → Bool
  | .v _ => !used
  | .p _ => false
  | .q _ => false
  | _ => true

/-- The fields that a major opcode uses, as D, A, B, C. -/
def usedFields (op : Nat) (e : Enc) : Bool × Bool × Bool × Bool :=
  match Legal.shapeOf op with
  | some sh => (Legal.roleD op e sh.d ≠ [], Legal.roleA op e sh.a ≠ [], Legal.roleB op e sh.b ≠ [], Legal.roleC op e sh.c ≠ [])
  | none => (false, false, false, false)

/-- An access in `.lane` space always executes per active thread (R63, R205). -/
def laneAccess (op : Nat) (e : Enc) : Bool :=
  ((0x0D0 ≤ op && op ≤ 0x0D7) || (0x126 ≤ op && op ≤ 0x128)) && Legal.space e = 0

/-- R63. -/
def uniform (op : Nat) (e : Enc) : Bool :=
  let u := usedFields op e
  e.g = 15 && uniformOpd u.1 e.d && uniformOpd u.2.1 e.a && uniformOpd u.2.2.1 e.b && uniformOpd u.2.2.2 e.c &&
  !laneAccess op e

end Sys2Proof.Machine
end

