-- ==== Sys2Proof/Machine/Issue.lean ====
section
/-! DEFINITION. One issue of an instruction by a team (R160 to R181): who takes part, execution thread by thread or once
for the team, what becomes of the PCs, and what a stall, a team-replayable fault or a context-fatal fault leaves. -/
namespace Sys2Proof.Machine

/-- R60: the guard in thread `i`. -/
def Team.guardTrue (t : Team) (g : BitVec 4) (gn : Bool) (i : Nat) : Bool := g = 15 || t.pGet i g.toNat != gn

/-- The workgroup and team that issue. -/
def State.issuer (s : State) : Option (Workgroup × Team) :=
  match s.cur with
  | none => none
  | some (u, i) =>
    match s.getWg u with
    | none => none
    | some w => (w.getTeam i).map (fun t => (w, t))

/-- Threads in RUN whose PC equals the lead PC (R160). -/
def Team.candidates (t : Team) (pc : Nat) : BitVec 32 :=
  listMask ((List.range t.threads.length).filter (fun i => (t.thread i).st = .run && (t.thread i).pc = pc))

/-- Threads in FAULT at a PC (R177). -/
def Team.faulted (t : Team) (pc : Nat) : BitVec 32 :=
  listMask ((List.range t.threads.length).filter (fun i => hasBit t.fmask i && (t.thread i).pc = pc))

/-- The state as a team that has awaited a release's acknowledgements goes on: the acquire of a `.sc` access comes now (R228, R239). -/
def State.awaited (s : State) (w : Workgroup) (t : Team) : State :=
  match t.awaits with
  | none => s
  | some sc => s.acquire w.core w.uid t.tix sc

/-- A portable instruction sees the latest value written to `PFMT`: the shadow is one of native code (R118). -/
def Team.fmtSettled (t : Team) : Team :=
  if t.nat.started then t else { t with pfmt := (t.pfmtLater.getLast?.map Prod.snd).getD t.pfmt, pfmtLater := [] }

/-- The start of an issue at the lead PC: candidates, active threads and participants. A replay runs exactly the threads
of `TEAM_FMASK`; a continuation after a stall exactly those that had still to execute. -/
def beginIssue (s : State) (w : Workgroup) (t : Team) (pc len : Nat) (g : BitVec 4) (gn : Bool) : Run :=
  let r : Run := { s := s.awaited w t, w := w, t := { t.fmtSettled with yieldAt := none, pend := none, awaits := none, savedWait := none, st := .ready }, pc := pc, nxt := pc + len,
                   halt := .go, cands := 0, parts := [], active := true, pf := 0, why := .page 0, pend := 0, moved := 0,
                   tmask := 0, replaying := false, resumed := false, div := t.diverged, reads := [], park := 0, post := none }
  if t.fmask ≠ 0 then
    { r with cands := t.faulted pc, parts := maskList (t.faulted pc) t.threads.length, replaying := true }
  else
    match t.pend with
    | some m => { r with cands := m, parts := maskList m t.threads.length, resumed := true }
    | none =>
      let c := t.candidates pc
      let act := c &&& t.top
      { r with cands := c, active := act ≠ 0,
               parts := (maskList act t.threads.length).filter (fun i => t.guardTrue g gn i) }

/-- Every thread in RUN stands at an `rjoin` where some thread is held, and no thread is in PARK (R171). -/
def Team.joined (t : Team) : Bool := !t.split && t.threads.any (fun h => h.st = .hold && h.holdJoin && t.runPcs.all (· = h.pc))

/-- R171: all the threads held at an `rjoin` return together, when no thread is in PARK and every thread in RUN stands at the same `rjoin`.
R172: threads held at a `reconv` return when no thread in RUN or PARK has a lower PC. -/
def Team.settle (t : Team) : Team :=
  let low : Nat → Bool := fun p => t.threads.any (fun h => (h.st = .run || h.st = .park) && h.pc < p)
  { t with threads := t.threads.map (fun h =>
      if h.st = .hold && (if h.holdJoin then t.joined else !low h.pc) then { h with st := .run } else h) }

/-- The limit of the team watchdog: MAXRUN × 64 bundles (R114, R175). -/
def wdogLimit : Nat := 1024 * 64

/-- The watchdog after a bundle (R175). -/
def Team.watch (t : Team) (counted : Bool) : Team :=
  if !t.diverged then { t with wdog := 0, wdogExp := false }
  else if counted then { t with wdog := t.wdog + 1 }
  else t

/-- The state of a team whose threads have been updated: DONE, without a runnable thread, or READY (R154). -/
def Team.afterIssue (t : Team) : Team :=
  if t.threads.all (fun h => h.st = .exit) then { t with st := .done }
  else if t.runMask = 0 then { t with st := .stall .noRun }
  else { t with st := .ready }

/-- What an issue leaves of thread `i`: a faulting thread stays at the instruction in FAULT; one that has still to execute
stays; every other candidate that the instruction did not send elsewhere advances. -/
def Run.threadAfter (r : Run) (stalled : Bool) (i : Nat) (h : Thread) : Thread :=
  if hasBit r.pf i then { h with st := .fault }
  else if stalled && hasBit r.pend i then (if r.replaying || r.pf ≠ 0 then { h with st := .fault } else h)
  else if hasBit r.cands i then
    let h1 := if hasBit r.park i then { h with st := .park } else if h.st = .fault then { h with st := .run } else h
    if hasBit r.moved i then h1 else { h1 with pc := r.nxt }
  else h

/-- Changes each thread with its index. -/
def mapThreads (f : Nat → Thread → Thread) : Nat → List Thread → List Thread
  | _, [] => []
  | i, h :: r => f i h :: mapThreads f (i + 1) r

/-- The team after an issue that met no fatal fault. -/
def Run.teamAfter (r : Run) : Team :=
  let why := match r.halt with
    | .stall w => some w
    | _ => none
  let st := why.isSome
  let held := if st && (r.replaying || r.pf ≠ 0) then r.pend else 0
  let t1 := { r.t with threads := mapThreads (r.threadAfter st) 0 r.t.threads, fmask := r.pf ||| held,
                       clock := r.t.clock + 8 }
  let t2 := t1.settle.watch (r.div && !r.replaying && !r.resumed)
  if r.pf ≠ 0 then { t2 with st := .replay r.why }
  else match why with
    | some w => { t2 with st := .stall w, pend := if r.replaying then none else some r.pend }
    | none => match r.post, t2.afterIssue with
      | some w, t3 => if t3.st = .done then t3 else { t3 with st := .stall w }
      | none, t3 => t3

/-- The end of an issue. Faults left pending by a team that has exited go to the context (R238). A fault of a long-latency operation of
native code is recorded, to be delivered later (R116). -/
def Run.finish (r : Run) : State :=
  match r.halt with
  | .fatal f =>
    if r.t.nat.deferring then { r with t := { r.t with nat := { r.t.nat with deferred := some { f with ppc := r.pc } } } }.sync
    else r.sync.teamFatal r.w r.t r.tmask f
  | _ =>
    let t := r.teamAfter
    let s := r.s.putWg (r.w.putTeam t)
    if t.st = .done then
      match t.pendFaults with
      | f :: _ => s.fatal r.w.ctx (ctxRecord s f)
      | [] => s.teamEnded r.w.uid t.tix
    else s

/-- Executes one part of an issue. Its effects stand only if it completes: a thread that faults or stalls changes nothing
(R167, R177, R191). `m` names the threads the part stands for: one thread, or all participants of a uniform execution. -/
def runUnits (f : Run → Nat → Run) : List (Nat × BitVec 32) → Run → Run
  | [], r => r
  | (i, m) :: rest, r =>
    let r1 := f r i
    match r1.halt with
    | .go => runUnits f rest r1
    | .replay why => runUnits f rest { r with pf := r.pf ||| m, why := why }
    | .stall w => { r with halt := .stall w, pend := m ||| (rest.map Prod.snd).foldl (· ||| ·) 0,
                           s := match w with
                             | .key d => r.s.exhaust d
                             | _ => r.s }
    | .fatal g => { r with halt := .fatal g, tmask := m }

/-- Executes the parts of an indexed or compressed access (R206, R207): each computes its address, then accesses. What the computing has
consumed and held stands when the access itself waits or replays. -/
def runHeld (f1 f2 : Run → Nat → Run) : List (Nat × BitVec 32) → Run → Run
  | [], r => r
  | (i, m) :: rest, r =>
    let ra := f1 r i
    let r1 := if ra.halt = .go then f2 ra i else ra
    let r0 := if ra.halt = .go then ra else r
    match r1.halt with
    | .go => runHeld f1 f2 rest r1
    | .replay why => runHeld f1 f2 rest { r0 with pf := r0.pf ||| m, why := why }
    | .stall w => { r0 with halt := .stall w, pend := m ||| (rest.map Prod.snd).foldl (· ||| ·) 0,
                            s := match w with
                              | .key d => r0.s.exhaust d
                              | _ => r0.s }
    | .fatal g => { r0 with halt := .fatal g, tmask := m }

/-- The parts of an issue: each participant in ascending order, or the whole team once (R63, R160). -/
def Run.units (r : Run) (uniform : Bool) : List (Nat × BitVec 32) :=
  if uniform then
    match r.parts with
    | [] => []
    | i :: _ => [(i, listMask r.parts)]
  else r.parts.map (fun i => (i, bit32 i))

/-- An issue of an instruction: pending faults of the team are delivered first, since every portable instruction boundary
is a STOP point of the model (R238, R240). -/
def issue (g : BitVec 4) (gn : Bool) (len : Nat) (body : Run → Run) (s : State) : Host.Outcome State Fault Refusal :=
  match s.issuer with
  | none => .fault .noIssuingTeam
  | some (w, t) =>
    match t.leadPc with
    | none => .fault .noIssuingTeam
    | some pc =>
      match t.pendFaults with
      | f :: _ => .next (s.teamFatal w t t.runMask f)
      | [] => .next (body (beginIssue s w t pc len g gn)).finish

/-- Byte length of a portable instruction (R58). -/
def lenOf (e : Enc) : Nat := if e.ext then 16 else 8

/-- Issues a portable instruction that executes thread by thread, or once when uniform. -/
def issueUnits (op : Nat) (e : Enc) (f : Run → Nat → Run) (s : State) : Host.Outcome State Fault Refusal :=
  issue e.g e.gn (lenOf e) (fun r => runUnits f (r.units (uniform op e)) r) s

/-- Issues a portable instruction that acts once per issue with at least one participant, whatever their number. -/
def issueOnce (e : Enc) (f : Run → Nat → Run) (s : State) : Host.Outcome State Fault Refusal :=
  issue e.g e.gn (lenOf e) (fun r => runUnits f (r.units true) r) s

/-! Instructions that act once per issue whatever the number of participants (R265, R286, R303). Their effects may stand when they
wait, unlike those of a part. -/

/-- The end of such an instruction: what it waits for or faults on concerns every participant. -/
def Run.kept (r : Run) : Run :=
  match r.halt with
  | .go => r
  | .replay why => { r with halt := .go, pf := listMask r.parts, why := why }
  | .stall w => { r with pend := listMask r.parts, s := match w with
                   | .key d => r.s.exhaust d
                   | _ => r.s }
  | .fatal _ => { r with tmask := listMask r.parts }

/-- Runs the body with the first participant, if there is one. -/
def onceFirst (f : Run → Nat → Run) (r : Run) : Run :=
  match r.parts with
  | [] => r
  | i :: _ => (f r i).kept

/-- Writes a value to a destination in every participant. -/
def Run.writeEach (r : Run) (o : Operand) (pair : Bool) (x : Nat) : Run :=
  r.parts.foldl (fun r i => r.write i o 32 0 pair x) r

/-- Issues an instruction that acts once, its effects kept as far as they come. -/
def issueKept (e : Enc) (f : Run → Nat → Run) (s : State) : Host.Outcome State Fault Refusal :=
  issue e.g e.gn (lenOf e) (onceFirst f) s

/-- One use of a retired operation by a context (R97, R98). -/
def State.ladderUse (s : State) (c slot : Nat) : State :=
  match s.getCtx c with
  | none => s
  | some x => s.putCtx { x with ladder := modNth (fun n => min (n + 1) (2 ^ 64 - 1)) x.ladder slot }

/-- Counts a use of a retired operation: one for each issue with an active thread (R98). -/
def Run.ladderUse (r : Run) (slot : Nat) : Run :=
  if r.active && !r.resumed then { r with s := r.s.ladderUse r.w.ctx slot } else r

/-! Arithmetic operations (R123 to R125). -/

/-- Reads the sources A, B and C in that order, computes, and writes D, the predicate C where the operation gives it a
value, and the flags. -/
def aluUnit (op : Nat) (e : Enc) (f : Nat → Nat → Nat → AluOut) (r : Run) (i : Nat) : Run :=
  let ts := readTypes op e
  let ws := Legal.selWidths op e
  let ps := Legal.pairs op e
  let u := usedFields op e
  let ra := if u.2.1 then r.read i e.a ts.1 ws.2.1 e.selA.toNat ps.2.1 else (r, 0)
  let rb := if ra.1.halt = .go && u.2.2.1 then ra.1.read i e.b ts.2.1 ws.2.2.1 e.selB.toNat ps.2.2.1 else (ra.1, 0)
  let rc := if rb.1.halt = .go && u.2.2.2 then rb.1.read i e.c ts.2.2 ws.2.2.2 e.selC.toNat ps.2.2.2 else (rb.1, 0)
  if rc.1.halt = .go then
    let x := f ra.2 rb.2 rc.2
    let r1 := (rc.1.write i e.d ws.1 e.selD.toNat ps.1 x.d).flags x.fl
    match x.pc, e.c with
    | some b, .p n => { r1 with t := r1.t.pSet i n.toNat b }
    | _, _ => r1
  else rc.1

/-- Issues an arithmetic operation. -/
def issueAlu (op : Nat) (e : Enc) (f : Nat → Nat → Nat → AluOut) (s : State) : Host.Outcome State Fault Refusal :=
  issueUnits op e (aluUnit op e f) s

end Sys2Proof.Machine
end

