-- ==== Sys2Proof/Machine/Fetch.lean ====
section
/-! DEFINITION. Code as a team meets it (R58, R99, R167, R315, R321): the object that holds an address, the verified bytes
there, the instruction they decode to, and the word 0 addresses. -/
namespace Sys2Proof.Machine

/-- Bytes of a code page (R312). -/
def codePageBytes : Nat := 65536

/-- The cellar's record of a code page of an identity (R319, R321). -/
def State.codePage (s : State) (id : BitVec 384) (k : Nat) : Option CodePage :=
  findBy (fun p => p.identity = id && p.page = k) s.codePages

/-- What a fetch at an offset of an object's `.text` finds: bytes, a failed page, or a page not yet demand-loaded. -/
inductive Fetched where
  | bytes (bs : List Byte)
  | failed
  | absent (k : Nat)
  deriving DecidableEq, Repr

/-- The verified bytes of an object from an offset, at most `n`, within one code page. -/
def State.pageBytesAt (s : State) (o : CodeObj) (off n : Nat) : Fetched :=
  match s.codePage o.identity (off / codePageBytes) with
  | none => .absent (off / codePageBytes)
  | some p => match p.bytes with
    | none => .failed
    | some bs => .bytes ((bs.drop (off % codePageBytes)).take n)

/-- The verified bytes of an object from an offset, across a page boundary. -/
def State.fetchBytes (s : State) (o : CodeObj) (off n : Nat) : Fetched :=
  match s.pageBytesAt o off n with
  | .bytes bs =>
    if bs.length ≥ n ∨ off + bs.length ≥ o.textSize then .bytes bs
    else match s.pageBytesAt o (off + bs.length) (n - bs.length) with
      | .bytes b2 => .bytes (bs ++ b2)
      | f => f
  | f => f

/-- Length of the instruction that starts with given bytes: a word 0 and its extension word (R58), or a clause (R99). -/
def startLen (native : Bool) (bs : List Byte) : Nat :=
  if native then 16 + 32 * (Legal.bits 25 23 (bytesNat (bs.take 4)) + 1)
  else if Legal.xField (bytesNat (bs.take 8)) then 16 else 8

/-- Linear decoding from offset `off` (R58): whether an instruction starts at `target`. -/
def startsAt (native : Bool) : Nat → List Byte → Nat → Nat → Bool
  | 0, _, _, _ => false
  | k + 1, bs, off, target =>
    if off = target then !bs.isEmpty
    else if off > target then false
    else startsAt native k (bs.drop (startLen native bs)) (off + startLen native bs) target

/-- An address is the word 0 of an instruction of an object. -/
def CodeObj.isStart (o : CodeObj) (addr : Nat) : Bool :=
  o.text ≤ addr && addr < o.text + o.textSize && startsAt o.native (o.textSize / 8 + 1) o.image 0 (addr - o.text)

/-- `check(A)` of R167. -/
def State.codeTarget (s : State) (c addr : Nat) : Bool :=
  addr < 2 ^ 57 && (match s.objAt c addr with
    | some o => o.isStart addr
    | none => false)

/-! The translation directory (R315, R316). -/

/-- The function at an address is being translated (R316), or a linkage entry is still to be written with the address (R330). -/
def State.translating (s : State) (c addr : Nat) : Bool :=
  (match s.objAt c addr with
   | some o => match s.dirFind o.identity (addr - o.text) with
     | some d => d.st = .translating
     | none => false
   | none => false) ||
  s.objects.any (fun o => o.ctx = c && o.linkage.any (fun e => e.resolving = some addr))

/-- The sub-code of CODE_INTEGRITY where a translation was found FAILED: its identity is quarantined, or no stoker works (R17, R316, R321). -/
def State.failedSub (s : State) (o : CodeObj) : Nat := if s.quarantined.contains o.identity then 0 else 3

/-- Sends a CONTROL packet to each of a list of packages that can be reached. -/
def State.tellAll (s : State) (m : Control) (ds : List Nat) : State := ds.foldl (fun s p => s.owe (.control m) (blankPacket p 0)) s

/-- The other members of a context's gang. -/
def State.gangPeers (s : State) (x : Context) : List Nat := x.gangMembers.filter (fun p => p ≠ s.pkg)

/-- The packages of a gang that are asked for a translation before it is made here (R320): none for an identity held quarantined. -/
def State.askFor (s : State) (o : CodeObj) : List Nat :=
  if s.quarantined.contains o.identity then []
  else match s.getCtx o.ctx with
    | some x => if x.gang then (s.gangPeers x).filter (fun p => s.sendBar p false 0 = .open_) else []
    | none => []

/-- Requests the translation of a function: the entry is created where it does not exist, and the gang is asked (R316, R320). -/
def State.requestFn (s : State) (o : CodeObj) (off : Nat) (kernel : Bool) : State :=
  match s.dirFind o.identity off with
  | some _ => s
  | none =>
    let ps := s.askFor o
    ({ s with dir := s.dir ++ [{ id := s.nextId, identity := o.identity, off := off, version := s.version, st := .translating,
                                 gen := 0, kernel := kernel, prof := [], lastUse := s.nextStamp, spill := 0, asked := ps, reserved := false }],
              nextId := s.nextId + 1 } : State).tellAll (.transAsk o.identity off s.version) ps

end Sys2Proof.Machine
end

