-- ==== Sys2Proof/Machine/Remote.lean ====
section
/-! DEFINITION. Accesses to pages homed on another package, as the issuing team makes them (R170, R241, R419 to R422):
the combining buffer, the requests, and the waits of releases. -/
namespace Sys2Proof.Machine

/-! The combining buffer (R241). -/

/-- Puts a thread's plain store into the buffer (R241): another thread's entry on the bytes drains first; a full buffer
drains its oldest entry. -/
def Run.combine (r : Run) (i va : Nat) (bs : List Byte) : Run :=
  let r1 := r.drain (fun c => c.thread ≠ i && c.touches va bs.length)
  if r1.halt ≠ .go then r1
  else
    match findBy (fun c => c.thread = i && c.isAt va) r1.t.comb with
    | some c =>
      let c1 := { c with bytes := spPut 0 c.bytes (va % 64) bs, mask := c.mask ||| byteMask (va % 64) bs.length }
      { r1 with t := { r1.t with comb := r1.t.comb.map (fun x => if x = c then c1 else x) } }
    | none =>
      let r2 := if r1.t.comb.length ≥ 16 then Run.drainList (r1.t.comb.take 1) r1 else r1
      if r2.halt ≠ .go then r2
      else
        let c : CombEntry := { thread := i, block := va / 64 * 64, bytes := spPut 0 [] (va % 64) bs,
                               mask := byteMask (va % 64) bs.length, opened := r2.t.clock, ppc := r2.pc }
        { r2 with t := { r2.t with comb := r2.t.comb ++ [c] } }

/-- A load's bytes all lie in the thread's own entry: they are read from the buffer (R241). -/
def Run.combined (r : Run) (i va n : Nat) : Option (List Byte) :=
  match findBy (fun c => c.thread = i && c.isAt va) r.t.comb with
  | some c => if c.mask &&& byteMask (va % 64) n = byteMask (va % 64) n then some (spTake 0 c.bytes (va % 64) n) else none
  | none => none

/-! Releases (R239, R422). -/

/-- What a release does before it performs: the combining entries of its threads drain; at `.gang` or `.sys` it waits for
the acknowledgements of the remote stores it covers (R241, R422). The drained packets stand even if it waits. -/
def Run.beforeRelease (r : Run) (scope : Nat) : Run :=
  let r1 := r.drain (fun c => r.parts.contains c.thread)
  if r1.halt ≠ .go then r1
  else if scope ≥ 6 && r1.sync.ctxUnacked r1.w.ctx then r1.stall .remote
  else r1

/-- Runs a release's preparation, then its parts; a wait leaves every participant to execute. -/
def Run.released (r : Run) (scope : Nat) (body : Run → Run) : Run :=
  if r.parts.isEmpty then body r
  else
    let r1 := r.beforeRelease scope
    if r1.halt = .go then body r1 else { r1 with pend := listMask r1.parts }

/-! Loads (R170, R419). -/

/-- Where a path stands: an offset of the code, and the return points of the calls it is inside (R167). -/
abbrev PathPoint := Nat × List Nat

/-- What follows a point of a path: an `rjoin` has come, the path is lost (a team instruction, `reconv`, `exit` or an unknown target comes
first), or the points it goes on to. -/
inductive PathStep where
  | joined | lost | on (l : List PathPoint)

/-- One instruction of a path (R170). A guarded transfer goes both ways; a call returns to the point after it. -/
def pathStep (s : State) (o : CodeObj) (x : PathPoint) : PathStep :=
  match s.fetchBytes o x.1 16 with
  | .bytes bs =>
    match decode bs with
    | none => .lost
    | some (i, _) =>
      let nxt := x.1 + startLen false bs
      let goal := fun (a : Operand) => ((x.1 : Int) + 8 * (match a with | .imm n => n.toInt | _ => 0)).toNat
      match i with
      | .rjoin e => if e.g = 15 && !e.gn then .joined else .on [(nxt, x.2)]
      | .bra e => .on ((goal e.a, x.2) :: if e.g = 15 then [] else [(nxt, x.2)])
      | .call e => if x.2.length ≥ 64 then .lost else .on ((goal e.a, nxt :: x.2) :: if e.g = 15 then [] else [(nxt, x.2)])
      | .ret e => match x.2 with
        | a :: r => .on ((a, r) :: if e.g = 15 then [] else [(nxt, x.2)])
        | [] => .lost
      | .mpush _ => .lost | .minv _ => .lost | .mpop _ => .lost | .bzm _ => .lost | .loop _ => .lost
      | .endloop _ => .lost | .reconv _ => .lost | .exit _ => .lost | .brx _ => .lost | .callx _ => .lost
      | .halt _ => .lost | .trapStubIssue _ _ => .lost
      | _ => .on [(nxt, x.2)]
  | _ => .lost

/-- R170: an `rjoin` follows on every path from a list of points before the next team instruction, `reconv` or `exit`. Direct branches and
calls are followed; a point met before adds no path. -/
def joinFollows (s : State) (o : CodeObj) : Nat → List PathPoint → List PathPoint → Bool
  | 0, _, _ => false
  | _ + 1, _, [] => true
  | k + 1, seen, x :: rest =>
    if seen.contains x then joinFollows s o k seen rest
    else
      match pathStep s o x with
      | .joined => joinFollows s o k (x :: seen) rest
      | .lost => false
      | .on l => joinFollows s o k (x :: seen) (l ++ rest)

/-- A load at the run's instruction is splittable. -/
def Run.splittable (r : Run) : Bool :=
  match r.s.objAt r.w.ctx r.nxt with
  | some o => !o.native && joinFollows r.s o (o.textSize + 1) [] [(r.nxt - o.text, [])]
  | none => false

/-- The threads of a list of remote loads that ask for one block of one page. -/
def blockThreads (va : Nat) (l : List (Nat × Leaf × Nat)) : List (Nat × Leaf × Nat) :=
  l.filter (fun x => x.2.2 / 64 = va / 64)

/-- Sends one READ for each 64-byte block that the issue's remote loads touch, with the threads concerned (R419). -/
def sendReads (d : Operand) (ty size scope ord : Nat) (split : Bool) :
    Nat → List (Nat × Leaf × Nat) → Run → Run
  | 0, _, r => r
  | _ + 1, [], r => r
  | k + 1, (i, l, va) :: rest, r =>
    let mine := blockThreads va ((i, l, va) :: rest)
    let ths := listMask (mine.map Prod.fst)
    let q := r.s.nextId
    let p := { blankPacket l.home r.w.ctx with
                 conf := l.conf, scope := scope, ord := ord, ty := ty, rid := ridOf r.w.core r.t.lane r.t.slot q, addr := va,
                 mask := BitVec.ofNat 64 ths.toNat }
    let w : RemoteWait := { req := q, peer := l.home, threads := ths, d := d, ty := ty, size := size, atomic := false, aop := 0,
                            operand := 0, pay := [], acq := if ord % 2 = 1 ∨ ord = 4 then scope else 0, va := va, conf := l.conf,
                            ppc := r.pc, parked := split }
    let s1 := { r.s with nextId := q + 1 }
    sendReads d ty size scope ord split k (rest.filter (fun x => x.2.2 / 64 ≠ va / 64))
      { r with s := s1.send .read p, t := { r.t with remote := r.t.remote ++ [w] },
               park := if split then r.park ||| ths else r.park,
               post := if split then r.post else some .remote }

/-- The end of an issue of loads: the requests go out, and the threads concerned park or the team waits. -/
def Run.afterLoads (r : Run) (d : Operand) (ty size scope ord : Nat) (uniform : Bool) : Run :=
  match r.reads with
  | [] => r
  | _ => sendReads d ty size scope ord (!uniform && r.splittable) r.reads.length r.reads { r with reads := [] }

end Sys2Proof.Machine
end

