-- ==== Sys2Proof/Machine/Control.lean ====
section
/-! DEFINITION. Control and divergence (R160 to R181): transfers, the mask and loop stacks, joins, yield, the decision
queue, `brk` and `trap`; and a translator's trap stub (R73, R91). -/
namespace Sys2Proof.Machine

/-- Sends a thread to an address. -/
def Run.goto (r : Run) (i pc : Nat) : Run :=
  { r with t := r.t.modThread i (fun h => { h with pc := pc }), moved := r.moved ||| bit32 i }

/-- Sends every candidate to an address (R160). -/
def Run.gotoAll (r : Run) (pc : Nat) : Run :=
  { r with t := { r.t with threads := mapThreads (fun i h => if hasBit r.cands i then { h with pc := pc } else h) 0 r.t.threads },
           moved := r.moved ||| r.cands }

/-- The immediate of an operand, as a signed number. -/
def immOf : Operand → Int
  | .imm n => n.toInt
  | _ => 0

/-- The address a direct transfer names: 8-byte units from word 0 (R166). -/
def Run.target (r : Run) (o : Operand) : Nat := (((r.pc : Int) + 8 * immOf o) % 2 ^ 57).toNat

/-- A transfer's parts: the participants, or every candidate of a uniform one with an active thread (R160). -/
def Run.movers (r : Run) (uniform : Bool) : List (Nat × BitVec 32) :=
  if uniform && !r.parts.isEmpty then (maskList r.cands r.t.threads.length).map (fun i => (i, bit32 i)) else r.units false

/-- Pushes a return address; a full stack faults before any effect (R164, R167). -/
def Run.pushRet (r : Run) (i a : Nat) : Run :=
  if (r.t.thread i).ret.length ≥ 64 then r.fatal i clsStack 3 0
  else { r with t := r.t.modThread i (fun h => { h with ret := a :: h.ret }) }

/-! Lazy binding (R329, R330). -/

/-- The symbol's address in the first object, in load order, that defines it globally as a function. -/
def State.resolveSym (s : State) (c : Nat) (sym : List Byte) : Option (CodeObj × Nat) :=
  let objs := s.objects.filter (fun o => o.ctx = c && (o.st = .loaded || o.st = .quarantined) &&
    o.syms.any (fun y => y.name = sym && y.global && y.func && y.defined && o.isStart y.addr))
  let first := listMin (objs.map CodeObj.order)
  (findBy (fun o => some o.order = first) objs).bind (fun o =>
    (findBy (fun y => y.name = sym && y.global && y.func && y.defined && o.isStart y.addr) o.syms).map (fun y => (o, y.addr)))

/-- The object and linkage entry whose trampoline stands at an address. -/
def State.trampAt (s : State) (c a : Nat) : Option (CodeObj × LinkEntry) :=
  (findBy (fun o => o.ctx = c && o.st.reachable && o.linkage.any (fun e => e.tramp = a)) s.objects).bind (fun o =>
    (findBy (fun e => e.tramp = a) o.linkage).map (fun e => (o, e)))

/-- Replaces a linkage entry of an object. -/
def State.putLink (s : State) (o : CodeObj) (e : LinkEntry) : State :=
  s.putObj { o with linkage := putBy LinkEntry.addr e o.linkage }

/-- A function's translation exists (R315). -/
def State.translated (s : State) (o : CodeObj) (addr : Nat) : Bool :=
  match s.dirFind o.identity (addr - o.text) with
  | some d => d.st ≠ .translating && d.st ≠ .failed
  | none => false

/-- The threads of a context enter trampolines: one that a cut has reached enters again on resume (R453). -/
def State.entersTramps (s : State) (c : Nat) : Bool :=
  match (s.getCtx c).map Context.st with
  | some .running => true
  | some .polite => true
  | _ => false

/-- Ends the resolution of an entry: it is written once, by a release at `.pkg` (R330). While its page is not there, or a cut has reached the
context (R453), the resolution goes on. -/
def State.bindLink (s : State) (c : Nat) (o : CodeObj) (e : LinkEntry) (t : Nat) : State :=
  if !s.entersTramps c then s.putLink o { e with resolving := some t }
  else
  match s.putBar c e.addr with
  | .open_ l => (s.putLink o { e with bound := some t, resolving := none }).pagePut c l e.addr (natBytes 8 t)
  | .wait => (s.putLink o { e with resolving := some t }).missAdd 0 c e.addr
  | .never => s.putLink o { e with bound := some t, resolving := none }

/-- The linkage entries whose target is translated and which are still to be written. -/
def State.lateLinks (s : State) : List (CodeObj × LinkEntry × Nat) :=
  s.objects.flatMap (fun o => o.linkage.filterMap (fun e => e.resolving.bind (fun t =>
    match s.objAt o.ctx t with
    | some p => if s.translated p t then some (o, e, t) else none
    | none => none)))

/-- Linkage entries whose page has come are written. -/
def State.settleLinkage (s : State) : State :=
  s.lateLinks.foldl (fun s x => match s.getObj x.1.handle with
    | some o => s.bindLink o.ctx o x.2.1 x.2.2
    | none => s) s

/-- A team of a node enters a function of an object (R331). -/
def State.nodeEnter (s : State) (n h : Nat) : State :=
  { s with nodes := s.nodes.map (fun (x : Node) =>
      if x.id = n ∧ ¬(x.entered.contains h) then { x with entered := x.entered ++ [h] } else x) }

/-- Goes to an indirect target that has passed its check: a function not translated yet is requested, and the team waits
at the target (R316). -/
def Run.enter (r : Run) (i a : Nat) : Run :=
  match r.s.objAt r.w.ctx a with
  | none => r.goto i a
  | some o =>
    let r0 := { r with s := r.s.nodeEnter r.w.node o.handle }
    if r0.s.translated o a then r0.goto i a
    else if ((r0.s.dirFind o.identity (a - o.text)).map DirEntry.st) = some .failed then r0.fatal i clsIntegrity (r0.s.failedSub o) 0
    else
      let r1 := r0.goto i a
      { r1 with s := r1.s.requestFn o (a - o.text) false, post := some (.translate a) }

/-- Goes to the address of an indirect transfer: `check(A)` of R167, and the trampoline of a linkage entry (R330). -/
def Run.indirect (r : Run) (i a : Nat) : Run :=
  match r.s.trampAt r.w.ctx a with
  | some (o, e) =>
    match e.bound, e.resolving with
    | some t, _ => r.enter i t
    | none, some t => r.enter i t
    | none, none =>
      match r.s.resolveSym r.w.ctx e.sym with
      | none => r.fatal i clsIllegal 4 a
      | some (p, t) =>
        if r.s.translated p t then { r with s := r.s.bindLink r.w.ctx o e t }.enter i t
        else { r with s := r.s.putLink o { e with resolving := some t } }.enter i t
  | none => if r.s.codeTarget r.w.ctx a then r.enter i a else r.fatal i clsIllegal 3 0

/-- The 57-bit code address of `brx` and `callx`: a v or s pair. -/
def Run.pairAt (r : Run) (i : Nat) (o : Operand) : Nat := (r.read i o 1 64 0 true).2

/-! Transfers (R167). -/

def execBra (e : Enc) (s : State) : Host.Outcome State Fault Refusal :=
  issue e.g e.gn (lenOf e) (fun r =>
    runUnits (fun r i => r.goto i (r.target e.a)) (r.movers (uniform 0x0A0 e)) r) s

def execBrx (e : Enc) (s : State) : Host.Outcome State Fault Refusal :=
  issue e.g e.gn (lenOf e) (fun r =>
    runUnits (fun r i => r.indirect i (r.pairAt i e.a)) (r.movers (uniform 0x0A1 e)) r) s

def execCall (e : Enc) (s : State) : Host.Outcome State Fault Refusal :=
  issue e.g e.gn (lenOf e) (fun r =>
    runUnits (fun r i =>
      let r1 := r.pushRet i r.nxt
      if r1.halt = .go then r1.goto i (r.target e.a) else r1) (r.movers (uniform 0x0A2 e)) r) s

def execCallx (e : Enc) (s : State) : Host.Outcome State Fault Refusal :=
  issue e.g e.gn (lenOf e) (fun r =>
    runUnits (fun r i =>
      let r1 := r.pushRet i r.nxt
      if r1.halt = .go then r1.indirect i (r.pairAt i e.a) else r1) (r.movers (uniform 0x0A3 e)) r) s

/-- `ret` of one thread: the popped address is checked before the entry leaves the stack. -/
def retUnit (r : Run) (i : Nat) : Run :=
  match (r.t.thread i).ret with
  | [] => r.fatal i clsStack 4 0
  | a :: rest =>
    if r.s.codeTarget r.w.ctx a then { r with t := r.t.modThread i (fun h => { h with ret := rest }) }.goto i a
    else r.fatal i clsIllegal 3 0

def execRet (e : Enc) (s : State) : Host.Outcome State Fault Refusal :=
  issue e.g e.gn (lenOf e) (fun r => runUnits retUnit (r.movers (uniform 0x0A4 e)) r) s

/-- A thread goes to EXIT, and its bit leaves every entry of the mask stack (R162). -/
def exitUnit (r : Run) (i : Nat) : Run :=
  { r with t := { r.t.modThread i (fun h => { h with st := .exit }) with masks := r.t.masks.map (fun m => m &&& ~~~(bit32 i)) },
           moved := r.moved ||| bit32 i }

/-- `exit` acts only on its participants; their combining entries drain (R167, R241). -/
def execExit (e : Enc) (s : State) : Host.Outcome State Fault Refusal :=
  issue e.g e.gn (lenOf e) (fun r => r.released 0 (fun r => runUnits exitUnit (r.units false) r)) s

/-! Team instructions (R163 to R165, R168). -/

/-- Every thread not in EXIT is in RUN at the instruction's PC. -/
def Run.converged (r : Run) : Bool := r.t.threads.all (fun h => h.st = .exit || (h.st = .run && h.pc = r.pc))

/-- R163: a team instruction needs a converged team; its guard is true in every active thread, or false in all. -/
def teamInstr (r : Run) (f : Run → Run) : Run :=
  let act := maskList (r.cands &&& r.t.top) r.t.threads.length
  if !r.converged then { r with halt := .fatal { mkFault clsStack 2 0 with ppc := r.pc }, tmask := r.cands }
  else if r.parts.length = act.length then f r
  else if r.parts.isEmpty then r
  else { r with halt := .fatal { mkFault clsStack 2 0 with ppc := r.pc }, tmask := r.cands }

def Run.stackFault (r : Run) (sub : Nat) : Run :=
  { r with halt := .fatal { mkFault clsStack sub 0 with ppc := r.pc }, tmask := r.cands }

/-- The mask of live threads whose predicate, inverted when asked, is 1. -/
def Team.predMask (t : Team) (n : Nat) (inv : Bool) : BitVec 32 :=
  t.liveMask &&& listMask ((List.range t.threads.length).filter (fun i => t.pGet i n != inv))

def predNo : Operand → Nat
  | .p n => n.toNat
  | _ => 0

def execMpush (e : Enc) (s : State) : Host.Outcome State Fault Refusal :=
  issue e.g e.gn (lenOf e) (fun r => teamInstr r (fun r =>
    if r.t.depth ≥ 15 then r.stackFault 0
    else { r with t := { r.t with masks := (r.t.top &&& r.t.predMask (predNo e.a) (e.var.toNat % 2 = 1)) :: r.t.masks } })) s

def execMinv (e : Enc) (s : State) : Host.Outcome State Fault Refusal :=
  issue e.g e.gn (lenOf e) (fun r => teamInstr r (fun r =>
    match r.t.masks with
    | m :: below :: rest => { r with t := { r.t with masks := (r.t.liveMask &&& (below &&& ~~~m)) :: below :: rest } }
    | _ => r.stackFault 1)) s

def execMpop (e : Enc) (s : State) : Host.Outcome State Fault Refusal :=
  issue e.g e.gn (lenOf e) (fun r => teamInstr r (fun r =>
    match r.t.masks with
    | _ :: below :: rest => { r with t := { r.t with masks := below :: rest } }
    | _ => r.stackFault 1)) s

def execBzm (e : Enc) (s : State) : Host.Outcome State Fault Refusal :=
  issue e.g e.gn (lenOf e) (fun r => teamInstr r (fun r =>
    if r.t.top &&& r.t.liveMask = 0 then r.gotoAll (r.target e.a) else r)) s

/-- Length of the instruction at an address of the context's code. -/
def State.lenAt (s : State) (c a : Nat) : Nat :=
  match s.objAt c a with
  | some o => startLen o.native (o.image.drop (a - o.text))
  | none => 8

/-- The trip count of `loop`: an s register or an immediate, as `.n32`. -/
def Run.tripCount (r : Run) (o : Operand) : Nat := (r.read 0 o 8 32 0 false).2

def execLoop (e : Enc) (s : State) : Host.Outcome State Fault Refusal :=
  issue e.g e.gn (lenOf e) (fun r => teamInstr r (fun r =>
    if r.t.loops.length ≥ 16 then r.stackFault 5
    else
      let last := r.target e.b
      let n := r.tripCount e.a
      if n = 0 then r.gotoAll (last + r.s.lenAt r.w.ctx last)
      else { r with t := { r.t with loops := { count := n, head := r.nxt, last := last } :: r.t.loops } })) s

def execEndloop (e : Enc) (s : State) : Host.Outcome State Fault Refusal :=
  issue e.g e.gn (lenOf e) (fun r => teamInstr r (fun r =>
    match r.t.loops with
    | [] => r.stackFault 6
    | l :: rest =>
      if l.count - 1 ≠ 0 then
        { r with t := { r.t with loops := { l with count := l.count - 1 } :: rest } }.gotoAll l.head
      else { r with t := { r.t with loops := rest } })) s

/-! Yield and joins (R171 to R175). -/

/-- The watchdog as a `yield` or a completed `sleep` leaves it (R175, R394). -/
def Team.wdogReset (t : Team) : Team := { t with wdog := 0, wdogExp := false }

/-- The reset is applied after the bundle has been counted, so the bundle itself does not count. -/
def execYield (e : Enc) (s : State) : Host.Outcome State Fault Refusal :=
  issue e.g e.gn (lenOf e) (fun r =>
    if r.parts.isEmpty then r
    else { r with t := { r.t.wdogReset with yieldAt := some r.nxt }, div := false }) s

/-- A thread goes to HOLD at the instruction. -/
def Run.hold (r : Run) (i : Nat) (join : Bool) : Run :=
  { r with t := r.t.modThread i (fun h => { h with st := .hold, holdJoin := join }), moved := r.moved ||| bit32 i }

/-- Every thread that stands at the instruction goes to HOLD there, masked off or not: R170 and R172 speak of the threads that reach it. -/
def Run.holdAll (r : Run) (join : Bool) : Run :=
  runUnits (fun r i => r.hold i join) ((maskList r.cands r.t.threads.length).map (fun i => (i, bit32 i))) r

def execReconv (e : Enc) (s : State) : Host.Outcome State Fault Refusal :=
  issue e.g e.gn (lenOf e) (fun r =>
    if r.t.threads.any (fun h => (h.st = .run || h.st = .park) && h.pc < r.pc) then r.holdAll false else r) s

def execRjoin (e : Enc) (s : State) : Host.Outcome State Fault Refusal :=
  issue e.g e.gn (lenOf e) (fun r => if r.t.split then r.holdAll true else r) s

/-! The decision queue (R180, R181). -/

/-- Feed values that a workgroup's node assigns to each team: FLEN of the LAUNCH packet (R340). -/
def State.feedLen (s : State) (w : Workgroup) : Nat := ((s.getNode w.node).map (fun n => fieldAt n.packet 64 4)).getD 0

/-- `dqpop`: once per issue with a participant, whatever their number. -/
def execDqpop (e : Enc) (s : State) : Host.Outcome State Fault Refusal :=
  issue e.g e.gn (lenOf e) (fun r =>
    if r.parts.isEmpty then r
    else if r.t.feedPos ≥ r.s.feedLen r.w then
      runUnits (fun r i => r.write i e.d 32 0 false 0) (r.units false) r
    else
      match r.t.feedBuf with
      | [] => { r with halt := .stall .feed, pend := listMask r.parts }
      | v :: rest =>
        if e.var = 0 then
          let r1 := { r with t := { r.t with feedBuf := rest, feedPos := r.t.feedPos + 1 } }
          runUnits (fun r i => r.write i e.d 32 0 false v.toNat) (r1.units false) r1
        else runUnits (fun r i => r.write i e.d 32 0 false 1) (r.units false) r) s

/-! `nop`, `brk`, `trap` and the trap stub (R73, R91, R169, R370). -/

def execNop (e : Enc) (s : State) : Host.Outcome State Fault Refusal := issue e.g e.gn (lenOf e) (fun r => r) s

/-- `brk`: with breakpoints enabled the team stops with its PC at the `brk` and a record of class 18 is written. -/
def execBrk (e : Enc) (s : State) : Host.Outcome State Fault Refusal :=
  issue e.g e.gn (lenOf e) (fun r =>
    match r.parts, r.s.getCtx r.w.ctx with
    | _ :: _, some x =>
      if x.brk then
        let code := (immOf e.a).toNat
        let rec_ := teamRecord r.s r.w r.t (listMask r.parts) { mkFault clsBreak code 0 with code := code, ppc := r.pc }
        { r with s := r.s.fqBreak r.w.ctx rec_, t := { r.t with brkNext := some r.nxt }, halt := .stall .brk, pend := r.cands }
      else r
    | _, _ => r) s

/-- `trap` faults the context precisely with class TRAP and the code. -/
def execTrap (e : Enc) (s : State) : Host.Outcome State Fault Refusal :=
  issue e.g e.gn (lenOf e) (fun r =>
    match r.parts with
    | [] => r
    | _ => { r with halt := .fatal { mkFault clsTrap (immOf e.a).toNat 0 with code := (immOf e.a).toNat, ppc := r.pc },
                    tmask := listMask r.parts }) s

/-- A trap stub: with at least one active thread, whatever the guard, ILLEGAL_ENCODING is raised precisely. `slot` counts
a use of a retired code first (R98). -/
def trapStub (x : Option (BitVec 64)) (slot : Option Nat) (sub : Nat) (s : State) : Host.Outcome State Fault Refusal :=
  issue 15 false (if x.isSome then 16 else 8) (fun r =>
    if r.active then
      let r1 := match slot with
        | some k => r.ladderUse k
        | none => r
      { r1 with halt := .fatal { mkFault clsIllegal sub 0 with ppc := r.pc }, tmask := r.cands &&& r.t.top }
    else r) s

/-- A malformed or unassigned code: sub-code 0. -/
def execTrapStubIssue (_w0 : BitVec 64) (x : Option (BitVec 64)) (s : State) : Host.Outcome State Fault Refusal :=
  trapStub x none 0 s
/-- R92: `ldsh` stands on the trapped step, slot 2, sub-code 1. -/
def execLdsh (_w0 : BitVec 64) (x : Option (BitVec 64)) (s : State) : Host.Outcome State Fault Refusal :=
  trapStub x (some 2) 1 s
/-- R92: `pmma` is removed, slot 15, sub-code 2. -/
def execPmma (_w0 : BitVec 64) (x : Option (BitVec 64)) (s : State) : Host.Outcome State Fault Refusal :=
  trapStub x (some 15) 2 s
/-- R92: `bwt` is removed, slot 15, sub-code 2. -/
def execBwt (_w0 : BitVec 64) (x : Option (BitVec 64)) (s : State) : Host.Outcome State Fault Refusal :=
  trapStub x (some 15) 2 s

end Sys2Proof.Machine
end

