-- ==== Sys2Proof/Machine/Exchange.lean ====
section
/-! DEFINITION. Exchange through time (R182 to R185) and messages between cores (R186 to R189). -/
namespace Sys2Proof.Machine

/-! Reading the operands of all participants. -/

/-- Participants with their values of A and B, in ascending order. -/
abbrev Gathered := List (Nat × Nat × Nat)

/-- Reads A, or B, of one participant. -/
def readA (op : Nat) (e : Enc) (r : Run) (i : Nat) : Run × Nat :=
  if (usedFields op e).2.1 then r.read i e.a (readTypes op e).1 (Legal.selWidths op e).2.1 e.selA.toNat (Legal.pairs op e).2.1 else (r, 0)
def readB (op : Nat) (e : Enc) (r : Run) (i : Nat) : Run × Nat :=
  if (usedFields op e).2.2.1 then r.read i e.b (readTypes op e).2.1 (Legal.selWidths op e).2.2.1 e.selB.toNat (Legal.pairs op e).2.2.1
  else (r, 0)

/-- Reads A and B of one participant. -/
def readAB (op : Nat) (e : Enc) (r : Run) (i : Nat) : Run × Nat × Nat :=
  let ra := readA op e r i
  let rb := if ra.1.halt = .go then readB op e ra.1 i else (ra.1, 0)
  (rb.1, ra.2, rb.2)

/-- Reads the operands of each participant in ascending order. A participant whose read takes a replayable fault leaves
the list; one that must wait makes the whole exchange wait. -/
def gather (op : Nat) (e : Enc) : List Nat → Run → Run × Gathered
  | [], r => (r, [])
  | i :: rest, r =>
    let x := readAB op e r i
    match x.1.halt with
    | .go =>
      let y := gather op e rest x.1
      (y.1, (i, x.2.1, x.2.2) :: y.2)
    | .replay why => gather op e rest { r with pf := r.pf ||| bit32 i, why := why }
    | .stall w => ({ r with halt := .stall w }, [])
    | .fatal f => ({ r with halt := .fatal f, tmask := bit32 i }, [])

/-- An operand of which a team has one copy: what an earlier participant writes there, a later one reads (R7). -/
def isScalar : Operand → Bool
  | .s _ => true
  | _ => false

/-- The operands as the iteration of thread `i` finds them: an s register is read then (R7); what each thread has of its own was read as the
issue began. -/
def refresh (op : Nat) (e : Enc) (r : Run) (i : Nat) (g : Gathered) : Gathered :=
  g.map (fun y => (y.1, if isScalar e.a then (readA op e r i).2 else y.2.1, if isScalar e.b then (readB op e r i).2 else y.2.2))

/-- What one iteration of R184 makes of the operands, the participant's place in the list and the carry: its result, the next carry and
the flags. -/
abbrev Iteration := Gathered → Nat → Nat → Nat × Nat × BitVec 6

/-- The iterations of R184 in ascending order, each atomic (R7): a participant whose D takes a replayable fault leaves the carry alone (R177). -/
def iterate (op : Nat) (e : Enc) (f : Iteration) (g : Gathered) : Nat → List Nat → Nat → Run → Run
  | _, [], _, r => r
  | k, i :: rest, carry, r =>
    let y := f (refresh op e r i g) k carry
    let r1 := (r.write i e.d (Legal.selWidths op e).1 e.selD.toNat (Legal.pairs op e).1 y.1).flags y.2.2
    match r1.halt with
    | .go => iterate op e f g (k + 1) rest y.2.1 r1
    | .replay why => iterate op e f g (k + 1) rest carry { r with pf := r.pf ||| bit32 i, why := why }
    | .stall w => { r with halt := .stall w }
    | .fatal x => { r with halt := .fatal x, tmask := bit32 i }

/-- An exchange that must wait, for an operand or for its destination, has no effect. -/
def Run.exchWait (r : Run) (x : Run) : Run :=
  match x.halt with
  | .stall w => { r with halt := .stall w, pend := listMask r.parts, s := match w with
                    | .key d => r.s.exhaust d
                    | _ => r.s }
  | _ => x

/-- Issues an exchange instruction: `f` is its iteration, `seed` the carry before the first. -/
def issueExchange (op : Nat) (e : Enc) (seed : Gathered → Nat) (f : Iteration) (s : State) : Host.Outcome State Fault Refusal :=
  issue e.g e.gn (lenOf e) (fun r =>
    let x := gather op e r.parts r
    r.exchWait (if x.1.halt = .go then iterate op e f x.2 0 (x.2.map Prod.fst) (seed x.2) x.1 else x.1)) s

/-! The operations (R184). -/

/-- A and B of the participant at a place of the list. -/
def Gathered.a (g : Gathered) (k : Nat) : Nat := (g.getD k (0, 0, 0)).2.1
def Gathered.b (g : Gathered) (k : Nat) : Nat := (g.getD k (0, 0, 0)).2.2

/-- `xprev`: the previous participant's A, or the own B for the first. -/
def prevOf (g : Gathered) (k : Nat) : Nat := if k = 0 then Gathered.b g k else Gathered.a g (k - 1)

/-- `xnext`: the next participant's A, or the own B for the last. -/
def nextsOf (g : Gathered) (k : Nat) : Nat := if k + 1 = g.length then Gathered.b g k else Gathered.a g (k + 1)

/-- `xbcast`: A of thread B, or 0 where it is no participant. -/
def bcastOf (g : Gathered) (k : Nat) : Nat := ((findBy (fun y => y.1 = Gathered.b g k % 2 ^ 32) g).map (fun y => y.2.1)).getD 0

/-- An iteration that gives a value and has neither carry nor flags. -/
def plainIter (f : Gathered → Nat → Nat) : Iteration := fun g k c => (f g k, c, 0)

/-- The combining operation of R183 at a type. -/
def combine (ty op x y : Nat) : Nat × BitVec 6 :=
  let flt := 10 ≤ ty ∧ ty ≤ 13
  let w := Legal.tyWidth ty
  if op = 0 then
    (if flt then fAdd (tyFmt ty) 0 (x % 2 ^ w) (y % 2 ^ w) else (regOf ty (intAt ty x + intAt ty y), 0))
  else if op = 1 then
    (if flt then fMinMax (tyFmt ty) false false (x % 2 ^ w) (y % 2 ^ w) else (regOf ty (min (intAt ty x) (intAt ty y)), 0))
  else if op = 2 then
    (if flt then fMinMax (tyFmt ty) true false (x % 2 ^ w) (y % 2 ^ w) else (regOf ty (max (intAt ty x) (intAt ty y)), 0))
  else (x ||| y, 0)

/-- The identity of an operation at a type (R184). -/
def identityOf (ty op : Nat) : Nat :=
  let flt := 10 ≤ ty ∧ ty ≤ 13
  if op = 0 then (if flt then fSigned (tyFmt ty) true 0 else 0)
  else if op = 1 then (if flt then fInf (tyFmt ty) false else regOf ty (tyHi ty))
  else if op = 2 then (if flt then fInf (tyFmt ty) true else regOf ty (tyLo ty))
  else 0

/-- The seed of `xscan` at its type, as a result stands in a register (R123): B of the first participant. -/
def seedAt (ty b : Nat) : Nat :=
  if 10 ≤ ty ∧ ty ≤ 13 ∨ ty ≤ 1 then b % 2 ^ Legal.tyWidth ty else regOf ty (intAt ty b)

/-- `xscan`: the carry before or after each participant, with the flags. -/
def scanIter (ty op : Nat) (ex : Bool) : Iteration := fun g k carry =>
  let inc := combine ty op carry (Gathered.a g k)
  (if ex then carry else inc.1, inc.1, inc.2)

/-- `xred`: the carry after the last participant. -/
def reduces (ty op : Nat) : Nat → Gathered → Nat × BitVec 6
  | carry, [] => (carry, 0)
  | carry, (_, a, _) :: r =>
    let inc := combine ty op carry a
    let y := reduces ty op inc.1 r
    (y.1, inc.2 ||| y.2)

/-- The mask of the participants whose A a test accepts. -/
def maskWhere (p : Nat → Bool) (g : Gathered) : Nat := (listMask ((g.filter (fun x => p x.2.1)).map Prod.fst)).toNat

/-- `xred`: every participant's value, and the flags, come from the operands as the loop has read them, before any D is written. -/
def redIter (ty op : Nat) (g : Gathered) : Iteration := fun _ _ c =>
  let y := reduces ty op (identityOf ty op) g
  (y.1, c, y.2)

/-- `vote`: all, any, or all equal. -/
def voteOf (v : Nat) (g : Gathered) : Bool :=
  if v = 0 then g.all (fun x => x.2.1 = 1) else if v = 1 then g.any (fun x => x.2.1 = 1)
  else g.all (fun x => x.2.1 = 1) || g.all (fun x => x.2.1 = 0)

def execXprev (e : Enc) (s : State) : Host.Outcome State Fault Refusal := issueExchange 0x0C0 e (fun _ => 0) (plainIter prevOf) s
def execXnext (e : Enc) (s : State) : Host.Outcome State Fault Refusal := issueExchange 0x0C1 e (fun _ => 0) (plainIter nextsOf) s
def execXbcast (e : Enc) (s : State) : Host.Outcome State Fault Refusal := issueExchange 0x0C2 e (fun _ => 0) (plainIter bcastOf) s
def execXscan (e : Enc) (s : State) : Host.Outcome State Fault Refusal :=
  issueExchange 0x0C3 e (fun g => seedAt e.ty.toNat (Gathered.b g 0)) (scanIter e.ty.toNat (e.var.toNat % 4) (e.var.toNat ≥ 4)) s
/-- The carry of `xred` is its value: it is computed before the first D is written. -/
def execXred (e : Enc) (s : State) : Host.Outcome State Fault Refusal :=
  issue e.g e.gn (lenOf e) (fun r =>
    let x := gather 0x0C4 e r.parts r
    r.exchWait (if x.1.halt = .go then
      iterate 0x0C4 e (redIter e.ty.toNat (e.var.toNat % 4) x.2) x.2 0 (x.2.map Prod.fst) 0 x.1 else x.1)) s
def execBallot (e : Enc) (s : State) : Host.Outcome State Fault Refusal :=
  issueExchange 0x0C5 e (fun _ => 0) (plainIter (fun g _ => maskWhere (fun a => a = 1) g)) s
def execVote (e : Enc) (s : State) : Host.Outcome State Fault Refusal :=
  issueExchange 0x0C6 e (fun _ => 0) (plainIter (fun g _ => if voteOf e.var.toNat g then 1 else 0)) s
/-- The mask of the participants whose A equals A of the one at a place, at the type. -/
def matchOf (ty : Nat) (g : Gathered) (k : Nat) : Nat :=
  maskWhere (fun a => a % 2 ^ Legal.tyWidth ty = Gathered.a g k % 2 ^ Legal.tyWidth ty) g

def execXmatch (e : Enc) (s : State) : Host.Outcome State Fault Refusal :=
  issueExchange 0x0C7 e (fun _ => 0) (plainIter (matchOf e.ty.toNat)) s

/-- The identity values of `tidx` (R185). -/
def tidxOf (w : Workgroup) (t : Team) (v i : Nat) : Nat :=
  if v = 0 then i else if v = 1 then t.tix else if v = 2 then t.lane else if v = 3 then w.wgx % 2 ^ 32
  else if v = 4 then w.nbPosX + w.nbPosY * 256 else if v = 5 then w.nbx % 2 ^ 32
  else if v = 6 then t.tix * w.teamSize + i else w.teamSize

def execTidx (e : Enc) (s : State) : Host.Outcome State Fault Refusal :=
  issue e.g e.gn (lenOf e) (fun r =>
    runUnits (fun r i => r.write i e.d 32 e.selD.toNat false (tidxOf r.w r.t e.var.toNat i)) (r.units false) r) s

/-- `actc`: the number of participants, each one's rank, or the lowest (R185). Executed uniformly it writes the value of
the last participant (R184). -/
def execActc (e : Enc) (s : State) : Host.Outcome State Fault Refusal :=
  issue e.g e.gn (lenOf e) (fun r =>
    let ps := r.parts
    runUnits (fun r i => r.write i e.d 32 e.selD.toNat false
      (if e.var.toNat = 0 then ps.length else if e.var.toNat = 1 then (ps.filter (fun j => j < i)).length
       else ps.headD 0)) (r.units false) r) s

/-! Messages (R186 to R189). -/

/-- A field of `n` bits in two's complement. -/
def sField (n x : Nat) : Int := sVal n x

/-- The member workgroup at a displacement from a core (R186). -/
def State.memberAt (s : State) (w : Workgroup) (dx dy : Int) : Option Workgroup :=
  let x : Int := (w.core % 32 : Nat) + dx
  let y : Int := (w.core / 32 : Nat) + dy
  if x < 0 ∨ y < 0 ∨ x ≥ 32 ∨ y ≥ 32 then none
  else findBy (fun m => m.nbId = w.nbId && m.ctx = w.ctx && m.core = y.toNat * 32 + x.toNat) s.wgs

/-- Appends an entry to channel `c` of a workgroup. -/
def Workgroup.chanPush (w : Workgroup) (c : Nat) (x : Word) : Workgroup := { w with chans := modNth (fun l => l ++ [x]) w.chans c }

/-- Sends one entry to a member workgroup; an entry for one in DONE is discarded, and a full channel makes the team wait. -/
def Run.sendTo (r : Run) (m : Workgroup) (c : Nat) (x : Word) : Run :=
  if m.uid = r.w.uid then
    (if (r.w.chans.getD c []).length ≥ 32 then r.stall (.chanSend m.uid c) else { r with w := r.w.chanPush c x })
  else if m.st = .done then r
  else if (m.chans.getD c []).length ≥ 32 then r.stall (.chanSend m.uid c)
  else { r with s := r.s.putWg (m.chanPush c x) }

/-- The scope a `.rel` or `.acq` message acts at. -/
def nbhScope : Nat := 3

/-- The route list of an object's side table (R121): slot, column displacement and row displacement. -/
def routeList (o : CodeObj) : List (Nat × Int × Int) :=
  (List.range (fieldAt o.side 8 4)).map (fun k =>
    let at_ := fieldAt o.side 24 8 + 8 * k
    (fieldAt o.side at_ 2, sVal 16 (fieldAt o.side (at_ + 2) 2), sVal 16 (fieldAt o.side (at_ + 4) 2)))

/-- The displacement that the B field of an `nsend` names (R187). Native code names a route slot (R120), whose list
entry gives it; none where the slot has no entry. -/
def State.displacement (s : State) (w : Workgroup) (pc b : Nat) : Option (Int × Int) :=
  if s.nativeAt w.ctx pc then
    match s.objAt w.ctx pc with
    | some o => (findBy (fun (x : Nat × Int × Int) => x.1 = b) (routeList o)).map Prod.snd
    | none => none
  else some (sField 5 b, sField 4 (b / 32))

/-- One participant's `nsend`. -/
def nsendUnit (e : Enc) (r : Run) (i : Nat) : Run :=
  match r.sync.displacement r.w r.pc (Legal.raw12 e.b) with
  | none => r.fatal i clsIllegal 0 0
  | some d =>
  match r.sync.memberAt r.w d.1 d.2 with
  | none => r.fatal i clsIllegal 3 0
  | some m =>
    let x := r.read i e.a 0 32 0 false
    if x.1.halt = .go then x.1.sendTo m (Legal.raw12 e.c) (BitVec.ofNat 32 x.2) else x.1

/-- `nsend.rel` first waits until the earlier accesses of its threads have performed (R188). -/
def execNsend (e : Enc) (s : State) : Host.Outcome State Fault Refusal :=
  issue e.g e.gn (lenOf e) (fun r =>
    let body := fun (r : Run) => runUnits (nsendUnit e) (r.units (uniform 0x153 e)) r
    if e.var.toNat % 2 = 1 then
      r.released 6 (fun r => body (if r.parts.isEmpty then r else { r with s := r.s.release r.w.core r.w.ctx nbhScope }))
    else body r) s

/-- One participant's `nrecv`. -/
def nrecvUnit (e : Enc) (r : Run) (i : Nat) : Run :=
  let c := Legal.raw12 e.a
  match r.w.chans.getD c [] with
  | [] => r.stall (.chanRecv c)
  | x :: rest =>
    let r1 := { r with w := { r.w with chans := modNth (fun _ => rest) r.w.chans c } }
    let r2 := r1.write i e.d 32 0 false x.toNat
    if e.var.toNat % 2 = 1 then { r2 with s := r2.s.acquire r.w.core r.w.uid r.t.tix nbhScope } else r2

def execNrecv (e : Enc) (s : State) : Host.Outcome State Fault Refusal := issueUnits 0x154 e (nrecvUnit e) s

end Sys2Proof.Machine
end

