-- ==== Sys2Proof/Machine/FloatAlu.lean ====
section
/-! DEFINITION. The floating-point instructions (R136 to R144, R95), the conversions (R145 to R150) and the dot products
(R151, R152): first what each computes from its operand values, then each instruction's meaning. -/
namespace Sys2Proof.Machine

open Legal

/-- A scalar or packed operation (R137): element 0, then element 1 for `.f16x2` and `.bf16x2`; the flags of both. -/
def lift (ty : Nat) (f : Nat → Nat → Nat → Nat × BitVec 6) (a b c : Nat) : AluOut :=
  if ty = 14 ∨ ty = 15 then
    let x := f (elemAt 16 a 0) (elemAt 16 b 0) (elemAt 16 c 0)
    let y := f (elemAt 16 a 1) (elemAt 16 b 1) (elemAt 16 c 1)
    { d := x.1 + y.1 * 2 ^ 16, fl := x.2 ||| y.2 }
  else
    let w := tyWidth ty
    let x := f (a % 2 ^ w) (b % 2 ^ w) (c % 2 ^ w)
    { d := x.1, fl := x.2 }

/-- The rounding code of VAR (R136). -/
def rnd (e : Enc) : Nat := e.var.toNat % 4
/-- The format of the type. -/
def ffmt (e : Enc) : FFmt := tyFmt e.ty.toNat

def aluFadd (e : Enc) (a b c : Nat) : AluOut := lift e.ty.toNat (fun x y _ => fAdd (ffmt e) (rnd e) x y) a b c
def aluFsub (e : Enc) (a b c : Nat) : AluOut := lift e.ty.toNat (fun x y _ => fSub (ffmt e) (rnd e) x y) a b c
def aluFmul (e : Enc) (a b c : Nat) : AluOut := lift e.ty.toNat (fun x y _ => fMul (ffmt e) (rnd e) x y) a b c
def aluFma (e : Enc) (a b c : Nat) : AluOut := lift e.ty.toNat (fun x y z => fFma (ffmt e) (rnd e) x y z) a b c
/-- R139: VAR bit 0 is `.num`. -/
def aluFmin (e : Enc) (a b c : Nat) : AluOut :=
  lift e.ty.toNat (fun x y _ => fMinMax (ffmt e) false (e.var.toNat % 2 = 1) x y) a b c
def aluFmax (e : Enc) (a b c : Nat) : AluOut :=
  lift e.ty.toNat (fun x y _ => fMinMax (ffmt e) true (e.var.toNat % 2 = 1) x y) a b c
def aluFabs (e : Enc) (a b c : Nat) : AluOut := lift e.ty.toNat (fun x _ _ => fResign (ffmt e) false x 0) a b c
def aluFneg (e : Enc) (a b c : Nat) : AluOut := lift e.ty.toNat (fun x _ _ => fResign (ffmt e) (!fSign (ffmt e) x) x 0) a b c
/-- R140: B's sign bit is used even when B is a NaN; a signalling NaN in B raises NV. -/
def aluFsgn (e : Enc) (a b c : Nat) : AluOut :=
  lift e.ty.toNat (fun x y _ => fResign (ffmt e) (fSign (ffmt e) y) x (sigFlag (fVal (ffmt e) y))) a b c
def aluFsetp (e : Enc) (a b _c : Nat) : AluOut :=
  let w := tyWidth e.ty.toNat
  let x := fCompare (ffmt e) e.var.toNat (a % 2 ^ w) (b % 2 ^ w)
  { d := if x.1 then 1 else 0, fl := x.2 }
def aluFclass (e : Enc) (a _b _c : Nat) : AluOut :=
  let x := fClass (ffmt e) (a % 2 ^ tyWidth e.ty.toNat)
  { d := x.1, fl := x.2 }
def aluFrnd (e : Enc) (a b c : Nat) : AluOut := lift e.ty.toNat (fun x _ _ => fRnd (ffmt e) (rnd e) x) a b c
def aluFrcp (e : Enc) (a b c : Nat) : AluOut := lift e.ty.toNat (fun x _ _ => fRcp (ffmt e) (rnd e) x) a b c
def aluFrsq (e : Enc) (a b c : Nat) : AluOut := lift e.ty.toNat (fun x _ _ => fRsq (ffmt e) (rnd e) x) a b c
def aluFsqrt (e : Enc) (a b c : Nat) : AluOut := lift e.ty.toNat (fun x _ _ => fSqrt (ffmt e) (rnd e) x) a b c
def aluFdiv (e : Enc) (a b c : Nat) : AluOut := lift e.ty.toNat (fun x y _ => fDiv (ffmt e) (rnd e) x y) a b c
def aluFexp2 (e : Enc) (a b c : Nat) : AluOut := lift e.ty.toNat (fun x _ _ => fExp2 (ffmt e) x) a b c
def aluFlog2 (e : Enc) (a b c : Nat) : AluOut := lift e.ty.toNat (fun x _ _ => fLog2 (ffmt e) x) a b c
def aluFsin (e : Enc) (a b c : Nat) : AluOut := lift e.ty.toNat (fun x _ _ => fSin (ffmt e) x) a b c
def aluFcos (e : Enc) (a b c : Nat) : AluOut := lift e.ty.toNat (fun x _ _ => fCos (ffmt e) x) a b c
def aluFtanh (e : Enc) (a b c : Nat) : AluOut := lift e.ty.toNat (fun x _ _ => fTanh (ffmt e) x) a b c
/-- R142: B is read as `.s32`, one exponent for both elements. -/
def aluFscale (e : Enc) (a b _c : Nat) : AluOut :=
  lift e.ty.toNat (fun x _ _ => fScale (ffmt e) (rnd e) x (sVal 32 b)) a 0 0
def aluFexpo (e : Enc) (a _b _c : Nat) : AluOut :=
  let x := fExpo (ffmt e) (a % 2 ^ tyWidth e.ty.toNat)
  { d := toBits 32 x.1, fl := x.2 }
/-- R95: `frcp.rn.f32` cut to the top 12 fraction bits. -/
def aluFrcpa (_e : Enc) (a _b _c : Nat) : AluOut :=
  let y := fRcp fmtF32 0 (a % 2 ^ 32)
  if isNaN (fVal fmtF32 y.1) then { d := y.1, fl := y.2 }
  else { d := y.1 / 2 ^ 11 * 2 ^ 11, fl := y.2 ||| (if y.1 % 2 ^ 11 ≠ 0 then fNX else 0) }

/-! Conversions. -/

/-- The bits of element `i` of a source of a format (R145). -/
def fmtElem (f x i : Nat) : Nat := if fmtElems f = 1 then x % 2 ^ fmtWidth f else elemAt (fmtWidth f) x i

/-- The register bits of a converted scalar result: a signed integer narrower than 32 bits is sign-extended (R123). -/
def fmtReg (f x : Nat) : Nat :=
  match fkind f with
  | .sint w => if w < 32 && fmtElems f = 1 then toBits 32 (sVal w x) else x
  | _ => x

/-- The flags of converting elements 0 to n − 1, and their bits packed from element `at_` on. -/
def cvtElems (dst src mode x at_ : Nat) : Nat → Nat × BitVec 6
  | 0 => (0, 0)
  | n + 1 =>
    let r := cvtElems dst src mode x at_ n
    let y := convert dst src mode (fmtElem src x n)
    (r.1 + y.1 * 2 ^ (fmtWidth dst * (at_ + n)), r.2 ||| y.2)

/-- R147, R148: B is the format-pair specifier; C the scale of a `.scl` destination. -/
def aluCvt (e : Enc) (a _b c : Nat) : AluOut :=
  let dst := fmtDst e.b
  let src := fmtSrc e.b
  if fmtBsc dst then
    let x := blockScale dst src (fmtElem src a 0)
    { d := x.1, fl := x.2 }
  else if fmtScl dst then
    let x := scaledElem dst src (rnd e) c (fmtElem src a 0)
    { d := x.1, fl := x.2 }
  else
    let x := cvtElems dst src (rnd e) a 0 (fmtElems dst)
    { d := fmtReg dst x.1, fl := x.2 }

/-- R149: C is the format-pair specifier. -/
def aluPack (e : Enc) (a b _c : Nat) : AluOut :=
  let dst := fmtDst e.c
  let src := fmtSrc e.c
  let h := fmtElems dst / 2
  let x := cvtElems dst src (rnd e) a 0 h
  let y := cvtElems dst src (rnd e) b h h
  { d := x.1 + y.1, fl := x.2 ||| y.2 }

/-- R150: byte permutation. -/
def aluPrm (_e : Enc) (a b c : Nat) : AluOut :=
  let v := a % 2 ^ 32 + b % 2 ^ 32 * 2 ^ 32
  { d := ofElems 8 (fun i => let n := elemAt 4 c i; if n ≥ 8 then 0 else elemAt 8 v (n % 8)) 4 }

/-! Dot products (R151): the rule set is the one in force on the core. -/

/-- The products of `n` float elements. -/
def dotProds (f : FFmt) (w a b : Nat) (n : Nat) : List (Option FVal) :=
  (List.range n).map (fun k => prodVal [fVal f (elemAt w a k), fVal f (elemAt w b k)])

/-- The products of `n` signed elements. -/
def dotInts (w a b : Nat) (n : Nat) : List Int := (List.range n).map (fun k => sVal w (elemAt w a k) * sVal w (elemAt w b k))

def dotFlt (f : FFmt) (w n nbv a b c : Nat) : AluOut :=
  let x := sumStep fmtF32 nbv (c % 2 ^ 32) (dotProds f w a b n)
  { d := x.1, fl := x.2 }

def dotInt (w n : Nat) (sat : Bool) (a b c : Nat) : AluOut :=
  let x := sumInt sat (c % 2 ^ 32) (dotInts w a b n)
  { d := x.1, fl := x.2 }

def aluDot2 (e : Enc) (nbv a b c : Nat) : AluOut :=
  let t := tyCode 0x083 e
  if t = 16 then dotInt 16 2 (e.var.toNat % 2 = 1) a b c
  else dotFlt (if t = 14 ∨ t = 20 then fmtF16 else fmtBF16) 16 2 nbv a b c
def aluDot4 (e : Enc) (nbv a b c : Nat) : AluOut :=
  let t := tyCode 0x084 e
  if t = 17 then dotInt 8 4 (e.var.toNat % 2 = 1) a b c
  else dotFlt (if t = 18 then fmtE4M3 else fmtE5M2) 8 4 nbv a b c
def aluDot8 (e : Enc) (nbv a b c : Nat) : AluOut :=
  if e.var.toNat ≥ 2 then dotFlt fmtE2M1 4 8 nbv a b c else dotInt 4 8 (e.var.toNat % 2 = 1) a b c
/-- R152: half of the eight weights of the LC8 index in A's element 0. -/
def aluLcdec (e : Enc) (a _b _c : Nat) : AluOut :=
  { d := ofElems 8 (fun i => lcWeight (a % 2 ^ 16) (4 * (e.var.toNat % 2) + i + 1)) 4 }

/-- A dot instruction: its rule set is the NBV in force on the core as it issues. -/
def issueDot (op : Nat) (e : Enc) (f : Nat → Nat → Nat → Nat → AluOut) (s : State) : Host.Outcome State Fault Refusal :=
  issueUnits op e (fun r i => aluUnit op e (f (r.s.nbvOn r.w.core r.w.ctx)) r i) s

/-! The meanings. -/

def execFadd (e : Enc) (s : State) : Host.Outcome State Fault Refusal := issueAlu 0x040 e (aluFadd e) s
def execFsub (e : Enc) (s : State) : Host.Outcome State Fault Refusal := issueAlu 0x041 e (aluFsub e) s
def execFmul (e : Enc) (s : State) : Host.Outcome State Fault Refusal := issueAlu 0x042 e (aluFmul e) s
def execFma (e : Enc) (s : State) : Host.Outcome State Fault Refusal := issueAlu 0x043 e (aluFma e) s
def execFmin (e : Enc) (s : State) : Host.Outcome State Fault Refusal := issueAlu 0x044 e (aluFmin e) s
def execFmax (e : Enc) (s : State) : Host.Outcome State Fault Refusal := issueAlu 0x045 e (aluFmax e) s
def execFabs (e : Enc) (s : State) : Host.Outcome State Fault Refusal := issueAlu 0x046 e (aluFabs e) s
def execFneg (e : Enc) (s : State) : Host.Outcome State Fault Refusal := issueAlu 0x047 e (aluFneg e) s
def execFsgn (e : Enc) (s : State) : Host.Outcome State Fault Refusal := issueAlu 0x048 e (aluFsgn e) s
def execFsetp (e : Enc) (s : State) : Host.Outcome State Fault Refusal := issueAlu 0x049 e (aluFsetp e) s
def execFclass (e : Enc) (s : State) : Host.Outcome State Fault Refusal := issueAlu 0x04A e (aluFclass e) s
def execFrnd (e : Enc) (s : State) : Host.Outcome State Fault Refusal := issueAlu 0x04B e (aluFrnd e) s
def execFrcp (e : Enc) (s : State) : Host.Outcome State Fault Refusal := issueAlu 0x04C e (aluFrcp e) s
def execFrsq (e : Enc) (s : State) : Host.Outcome State Fault Refusal := issueAlu 0x04D e (aluFrsq e) s
def execFsqrt (e : Enc) (s : State) : Host.Outcome State Fault Refusal := issueAlu 0x04E e (aluFsqrt e) s
def execFdiv (e : Enc) (s : State) : Host.Outcome State Fault Refusal := issueAlu 0x04F e (aluFdiv e) s
def execFexp2 (e : Enc) (s : State) : Host.Outcome State Fault Refusal := issueAlu 0x050 e (aluFexp2 e) s
def execFlog2 (e : Enc) (s : State) : Host.Outcome State Fault Refusal := issueAlu 0x051 e (aluFlog2 e) s
def execFsin (e : Enc) (s : State) : Host.Outcome State Fault Refusal := issueAlu 0x052 e (aluFsin e) s
def execFcos (e : Enc) (s : State) : Host.Outcome State Fault Refusal := issueAlu 0x053 e (aluFcos e) s
def execFtanh (e : Enc) (s : State) : Host.Outcome State Fault Refusal := issueAlu 0x054 e (aluFtanh e) s
def execFscale (e : Enc) (s : State) : Host.Outcome State Fault Refusal := issueAlu 0x055 e (aluFscale e) s
def execFexpo (e : Enc) (s : State) : Host.Outcome State Fault Refusal := issueAlu 0x056 e (aluFexpo e) s

/-- R95, R98: each issue with an active thread counts in slot 0 of `SYS_LADDER`. -/
def execFrcpa (e : Enc) (s : State) : Host.Outcome State Fault Refusal :=
  issue e.g e.gn (lenOf e) (fun r =>
    let r1 := r.ladderUse 0
    runUnits (aluUnit 0x07D e (aluFrcpa e)) (r1.units (uniform 0x07D e)) r1) s

def execCvt (e : Enc) (s : State) : Host.Outcome State Fault Refusal := issueAlu 0x080 e (aluCvt e) s
def execPack (e : Enc) (s : State) : Host.Outcome State Fault Refusal := issueAlu 0x081 e (aluPack e) s
def execPrm (e : Enc) (s : State) : Host.Outcome State Fault Refusal := issueAlu 0x082 e (aluPrm e) s
def execDot2 (e : Enc) (s : State) : Host.Outcome State Fault Refusal := issueDot 0x083 e (aluDot2 e) s
def execDot4 (e : Enc) (s : State) : Host.Outcome State Fault Refusal := issueDot 0x084 e (aluDot4 e) s
def execDot8 (e : Enc) (s : State) : Host.Outcome State Fault Refusal := issueDot 0x085 e (aluDot8 e) s
def execLcdec (e : Enc) (s : State) : Host.Outcome State Fault Refusal := issueAlu 0x086 e (aluLcdec e) s

end Sys2Proof.Machine
end

