-- ==== Sys2Proof/Machine/IntAlu.lean ====
section
/-! DEFINITION. The integer and address instructions (R126 to R135, R94): first what each computes from its operand
values, then each instruction's meaning. -/
namespace Sys2Proof.Machine

open Legal

/-! What each operation computes. A, B, C are the operands as read; `ty` is the type code. -/

/-- A result at the type: saturated where VAR bit 0 asks for it, else wrapped (R127, R128). -/
def satWrap (e : Enc) (ty : Nat) (x : Int) : AluOut := { d := regOf ty (if e.var.toNat % 2 = 1 then satAt ty x else x) }

def aluMov (e : Enc) (a _b _c : Nat) : AluOut :=
  { d := if e.ty.toNat = 0 then a else if 10 ≤ e.ty.toNat ∧ e.ty.toNat ≤ 12 then a % 2 ^ tyWidth e.ty.toNat
         else if e.ty.toNat ≥ 14 then a else regOf e.ty.toNat (intAt e.ty.toNat a) }
def aluAdd (e : Enc) (a b _c : Nat) : AluOut := satWrap e e.ty.toNat (intAt e.ty.toNat a + intAt e.ty.toNat b)
def aluSub (e : Enc) (a b _c : Nat) : AluOut := satWrap e e.ty.toNat (intAt e.ty.toNat a - intAt e.ty.toNat b)
/-- R127: the predicate C is read as 0 or 1 and receives the carry out. -/
def aluAddc (e : Enc) (a b c : Nat) : AluOut :=
  let w := tyWidth e.ty.toNat
  let x := a % 2 ^ w + b % 2 ^ w + c % 2
  { d := x % 2 ^ w, pc := some (x ≥ 2 ^ w) }
/-- R127: the predicate C is the borrow in and out. -/
def aluSubb (e : Enc) (a b c : Nat) : AluOut :=
  let w := tyWidth e.ty.toNat
  let x : Int := ((a % 2 ^ w : Nat) : Int) - ((b % 2 ^ w : Nat) : Int) - ((c % 2 : Nat) : Int)
  { d := toBits w x, pc := some (x < 0) }
def aluMul (e : Enc) (a b _c : Nat) : AluOut := satWrap e e.ty.toNat (intAt e.ty.toNat a * intAt e.ty.toNat b)
/-- The high half of the full product (R128). -/
def mulHigh (ty a b : Nat) : Int := intAt ty a * intAt ty b / 2 ^ tyWidth ty
def aluMulhi (e : Enc) (a b _c : Nat) : AluOut := { d := regOf e.ty.toNat (mulHigh e.ty.toNat a b) }
def aluMad (e : Enc) (a b c : Nat) : AluOut :=
  { d := regOf e.ty.toNat (intAt e.ty.toNat a * intAt e.ty.toNat b + intAt e.ty.toNat c) }
def aluMadhi (e : Enc) (a b c : Nat) : AluOut := { d := regOf e.ty.toNat (mulHigh e.ty.toNat a b + intAt e.ty.toNat c) }
/-- R129: quotient and remainder, truncating towards zero. -/
def quoRem (ty a b : Nat) : Int × Int :=
  let x := intAt ty a
  let y := intAt ty b
  if y = 0 then (-1, x) else (x.tdiv y, x.tmod y)
def aluDiv (e : Enc) (a b _c : Nat) : AluOut := { d := regOf e.ty.toNat (quoRem e.ty.toNat a b).1 }
def aluRem (e : Enc) (a b _c : Nat) : AluOut := { d := regOf e.ty.toNat (quoRem e.ty.toNat a b).2 }
def aluNeg (e : Enc) (a _b _c : Nat) : AluOut := satWrap e e.ty.toNat (-(intAt e.ty.toNat a))
def aluAbs (e : Enc) (a _b _c : Nat) : AluOut := satWrap e e.ty.toNat (intAt e.ty.toNat a).natAbs
def aluMin (e : Enc) (a b _c : Nat) : AluOut := { d := regOf e.ty.toNat (min (intAt e.ty.toNat a) (intAt e.ty.toNat b)) }
def aluMax (e : Enc) (a b _c : Nat) : AluOut := { d := regOf e.ty.toNat (max (intAt e.ty.toNat a) (intAt e.ty.toNat b)) }
def aluClamp (e : Enc) (a b c : Nat) : AluOut :=
  { d := regOf e.ty.toNat (min (max (intAt e.ty.toNat a) (intAt e.ty.toNat b)) (intAt e.ty.toNat c)) }
def aluSad (e : Enc) (a b c : Nat) : AluOut :=
  { d := ((intAt e.ty.toNat a - intAt e.ty.toNat b).natAbs + c % 2 ^ 32) % 2 ^ 32 }

/-- The width of a bit type. -/
def bitW (e : Enc) : Nat := tyWidth e.ty.toNat

def aluAnd (e : Enc) (a b _c : Nat) : AluOut := { d := (a &&& b) % 2 ^ bitW e }
def aluOr (e : Enc) (a b _c : Nat) : AluOut := { d := (a ||| b) % 2 ^ bitW e }
def aluXor (e : Enc) (a b _c : Nat) : AluOut := { d := (a ^^^ b) % 2 ^ bitW e }
def aluNot (e : Enc) (a _b _c : Nat) : AluOut := { d := 2 ^ bitW e - 1 - a % 2 ^ bitW e }
def aluAndn (e : Enc) (a b _c : Nat) : AluOut := { d := (a &&& (2 ^ bitW e - 1 - b % 2 ^ bitW e)) % 2 ^ bitW e }
/-- R131: the count is B's 32 bits, unsigned. -/
def aluShl (e : Enc) (a b _c : Nat) : AluOut :=
  let n := b % 2 ^ 32
  { d := if n ≥ bitW e then 0 else a * 2 ^ n % 2 ^ bitW e }
def aluShr (e : Enc) (a b _c : Nat) : AluOut :=
  let n := b % 2 ^ 32
  { d := if n ≥ bitW e then 0 else a % 2 ^ bitW e / 2 ^ n }
def aluSar (e : Enc) (a b _c : Nat) : AluOut :=
  { d := toBits (bitW e) (sVal (bitW e) a / 2 ^ min (b % 2 ^ 32) (bitW e - 1)) }
/-- A rotated left by `n` at width `w`. -/
def rotLeft (w a n : Nat) : Nat := (a % 2 ^ w * 2 ^ n % 2 ^ w) + a % 2 ^ w / 2 ^ (w - n)
def aluRotl (e : Enc) (a b _c : Nat) : AluOut := { d := rotLeft (bitW e) a (b % 2 ^ 32 % bitW e) % 2 ^ bitW e }
def aluRotr (e : Enc) (a b _c : Nat) : AluOut := { d := rotLeft (bitW e) a (bitW e - b % 2 ^ 32 % bitW e) % 2 ^ bitW e }

/-- Leading zeros of a `w`-bit value (R132). -/
def leadZeros (w x : Nat) : Nat := if x % 2 ^ w = 0 then w else w - 1 - Nat.log2 (x % 2 ^ w)
/-- Bits of a value, bit 0 first. -/
def bitList (w x : Nat) : List Bool := (List.range w).map (fun i => x / 2 ^ i % 2 = 1)
/-- The number whose bits are listed, bit 0 first. -/
def ofBitList : List Bool → Nat
  | [] => 0
  | b :: r => (if b then 1 else 0) + 2 * ofBitList r
def aluClz (e : Enc) (a _b _c : Nat) : AluOut := { d := leadZeros (bitW e) a }
def aluCtz (e : Enc) (a _b _c : Nat) : AluOut := { d := ((bitList (bitW e) a).takeWhile (fun b => !b)).length }
def aluPopc (e : Enc) (a _b _c : Nat) : AluOut := { d := ((bitList (bitW e) a).filter id).length }
def aluBrev (e : Enc) (a _b _c : Nat) : AluOut := { d := ofBitList (bitList (bitW e) a).reverse }
/-- R133: bit-field extract. -/
def aluBfe (e : Enc) (a b c : Nat) : AluOut :=
  let w := tyWidth e.ty.toNat
  let pos := min (b % 256) w
  let len := min (c % 256) (w - pos)
  let f := a % 2 ^ w / 2 ^ pos % 2 ^ len
  { d := if len = 0 then 0 else if tySigned e.ty.toNat then toBits w (sVal len f) else f }
/-- R133: bit-field insert. -/
def aluBfi (e : Enc) (a b c : Nat) : AluOut :=
  let w := bitW e
  let pos := min (c % 256) w
  let len := min (c / 256 % 256) (w - pos)
  let y := b % 2 ^ w
  { d := y / 2 ^ (pos + len) * 2 ^ (pos + len) + a % 2 ^ len * 2 ^ pos + y % 2 ^ pos }
/-- R134: raw bits of A or B by the predicate C. -/
def aluSel (e : Enc) (a b c : Nat) : AluOut := aluMov e (if c % 2 = 1 then a else b) 0 0
/-- The integer comparisons of R87. -/
def intCompare (code : Nat) (x y : Int) : Bool :=
  if code = 0 then x = y else if code = 1 then x ≠ y else if code = 2 then x < y
  else if code = 3 then x ≤ y else if code = 4 then x > y else x ≥ y
def aluSetp (e : Enc) (a b _c : Nat) : AluOut :=
  { d := if intCompare e.var.toNat (intAt e.ty.toNat a) (intAt e.ty.toNat b) then 1 else 0 }
/-- R135: A plus the scaled index; VAR bit 0 reads the index unsigned. -/
def aluLea (e : Enc) (a b c : Nat) : AluOut :=
  { d := toBits 64 ((a : Int) + (if e.var.toNat % 2 = 0 then sVal 32 b else ((b % 2 ^ 32 : Nat) : Int)) * 2 ^ (c % 8)) }
/-- R94. -/
def aluMad24 (e : Enc) (a b c : Nat) : AluOut :=
  let x : Int := if e.ty.toNat = 4 then sVal 24 a else ((a % 2 ^ 24 : Nat) : Int)
  let y : Int := if e.ty.toNat = 4 then sVal 24 b else ((b % 2 ^ 24 : Nat) : Int)
  { d := toBits 32 (x * y + ((c % 2 ^ 32 : Nat) : Int)) }

/-! The meanings. -/

def execMov (e : Enc) (s : State) : Host.Outcome State Fault Refusal := issueAlu 0x000 e (aluMov e) s

/-- R66, R135: the literal of the extension word goes to D, a pair for TY 1. -/
def moviUnit (e : Enc) (lit : BitVec 64) (r : Run) (i : Nat) : Run :=
  r.write i e.d 32 0 (e.ty = 1) (if e.ty = 1 then lit.toNat else lit.toNat % 2 ^ 32)

def execMovi (e : Enc) (lit : BitVec 64) (s : State) : Host.Outcome State Fault Refusal :=
  issue e.g e.gn 16 (fun r => runUnits (moviUnit e lit) (r.units (e.g = 15 && uniformOpd true e.d)) r) s

def execAdd (e : Enc) (s : State) : Host.Outcome State Fault Refusal := issueAlu 0x002 e (aluAdd e) s
def execSub (e : Enc) (s : State) : Host.Outcome State Fault Refusal := issueAlu 0x003 e (aluSub e) s
def execAddc (e : Enc) (s : State) : Host.Outcome State Fault Refusal := issueAlu 0x004 e (aluAddc e) s
def execSubb (e : Enc) (s : State) : Host.Outcome State Fault Refusal := issueAlu 0x005 e (aluSubb e) s
def execMul (e : Enc) (s : State) : Host.Outcome State Fault Refusal := issueAlu 0x006 e (aluMul e) s
def execMulhi (e : Enc) (s : State) : Host.Outcome State Fault Refusal := issueAlu 0x007 e (aluMulhi e) s
def execMad (e : Enc) (s : State) : Host.Outcome State Fault Refusal := issueAlu 0x008 e (aluMad e) s
def execMadhi (e : Enc) (s : State) : Host.Outcome State Fault Refusal := issueAlu 0x009 e (aluMadhi e) s
def execDiv (e : Enc) (s : State) : Host.Outcome State Fault Refusal := issueAlu 0x00A e (aluDiv e) s
def execRem (e : Enc) (s : State) : Host.Outcome State Fault Refusal := issueAlu 0x00B e (aluRem e) s
def execNeg (e : Enc) (s : State) : Host.Outcome State Fault Refusal := issueAlu 0x00C e (aluNeg e) s
def execAbs (e : Enc) (s : State) : Host.Outcome State Fault Refusal := issueAlu 0x00D e (aluAbs e) s
def execMin (e : Enc) (s : State) : Host.Outcome State Fault Refusal := issueAlu 0x00E e (aluMin e) s
def execMax (e : Enc) (s : State) : Host.Outcome State Fault Refusal := issueAlu 0x00F e (aluMax e) s
def execClamp (e : Enc) (s : State) : Host.Outcome State Fault Refusal := issueAlu 0x010 e (aluClamp e) s
def execSad (e : Enc) (s : State) : Host.Outcome State Fault Refusal := issueAlu 0x011 e (aluSad e) s
def execAnd (e : Enc) (s : State) : Host.Outcome State Fault Refusal := issueAlu 0x012 e (aluAnd e) s
def execOr (e : Enc) (s : State) : Host.Outcome State Fault Refusal := issueAlu 0x013 e (aluOr e) s
def execXor (e : Enc) (s : State) : Host.Outcome State Fault Refusal := issueAlu 0x014 e (aluXor e) s
def execNot (e : Enc) (s : State) : Host.Outcome State Fault Refusal := issueAlu 0x015 e (aluNot e) s
def execAndn (e : Enc) (s : State) : Host.Outcome State Fault Refusal := issueAlu 0x016 e (aluAndn e) s
def execShl (e : Enc) (s : State) : Host.Outcome State Fault Refusal := issueAlu 0x017 e (aluShl e) s
def execShr (e : Enc) (s : State) : Host.Outcome State Fault Refusal := issueAlu 0x018 e (aluShr e) s
def execSar (e : Enc) (s : State) : Host.Outcome State Fault Refusal := issueAlu 0x019 e (aluSar e) s
def execRotl (e : Enc) (s : State) : Host.Outcome State Fault Refusal := issueAlu 0x01A e (aluRotl e) s
def execRotr (e : Enc) (s : State) : Host.Outcome State Fault Refusal := issueAlu 0x01B e (aluRotr e) s
def execClz (e : Enc) (s : State) : Host.Outcome State Fault Refusal := issueAlu 0x01C e (aluClz e) s
def execCtz (e : Enc) (s : State) : Host.Outcome State Fault Refusal := issueAlu 0x01D e (aluCtz e) s
def execPopc (e : Enc) (s : State) : Host.Outcome State Fault Refusal := issueAlu 0x01E e (aluPopc e) s
def execBrev (e : Enc) (s : State) : Host.Outcome State Fault Refusal := issueAlu 0x01F e (aluBrev e) s
def execBfe (e : Enc) (s : State) : Host.Outcome State Fault Refusal := issueAlu 0x020 e (aluBfe e) s
def execBfi (e : Enc) (s : State) : Host.Outcome State Fault Refusal := issueAlu 0x021 e (aluBfi e) s
def execSel (e : Enc) (s : State) : Host.Outcome State Fault Refusal := issueAlu 0x022 e (aluSel e) s
def execSetp (e : Enc) (s : State) : Host.Outcome State Fault Refusal := issueAlu 0x023 e (aluSetp e) s
def execLea (e : Enc) (s : State) : Host.Outcome State Fault Refusal := issueAlu 0x024 e (aluLea e) s

/-- R94, R98: each issue with an active thread counts in slot 1 of `SYS_LADDER`. -/
def execMad24 (e : Enc) (s : State) : Host.Outcome State Fault Refusal :=
  issue e.g e.gn (lenOf e) (fun r =>
    let r1 := r.ladderUse 1
    runUnits (aluUnit 0x03E e (aluMad24 e)) (r1.units (uniform 0x03E e)) r1) s

end Sys2Proof.Machine
end

