-- ==== Sys2Proof/Machine/MemInstr.lean ====
section
/-! DEFINITION. The access instructions (R202 to R215): loads and stores, gathers and compressed forms, atomics, fences,
cache operations and stream bindings. -/
namespace Sys2Proof.Machine

open Legal (space scopeOf aopOf)

/-- Access size in bytes by TY (R202, R208). -/
def accessBytes (ty : Nat) : Nat := if ty = 14 ∨ ty = 15 then 4 else Legal.tyWidth ty / 8

/-- Widest scope of a space (R190). -/
def widest (sp : Nat) : Nat := if sp = 0 then 0 else if sp = 1 then 2 else if sp = 2 then 3 else if sp = 3 then 4 else 7

/-- The scope an access acts at (R192). -/
def actScope (e : Enc) : Nat := min (scopeOf e) (widest (space e))

/-- The ordering of an access: acquire and release sides (R86, R224). -/
def isAcq (e : Enc) : Bool := e.var.toNat = 1 || e.var.toNat = 3 || e.var.toNat = 4
def isRel (e : Enc) : Bool := e.var.toNat = 2 || e.var.toNat = 3 || e.var.toNat = 4

/-- A loaded value as register bits (R204): signed types by sign, the rest by zero. -/
def loadVal (ty : Nat) (bs : List Byte) : Nat :=
  let w := Legal.tyWidth ty
  if tySigned ty && w < 32 then toBits 32 (sVal w (bytesNat bs)) else bytesNat bs

/-- The base address in A: a pair in `.glb`, else 32 bits (R191, R204). -/
def Run.base (r : Run) (i : Nat) (e : Enc) : Nat := (r.read i e.a (if space e = 4 then 1 else 0) 64 0 (space e = 4)).2

/-- An address from a base and an offset: the 64-bit sum in `.glb`, else formed without wrap (R191). -/
def formAddr (e : Enc) (base : Nat) (off : Int) : Int := if space e = 4 then ((base : Int) + off) % 2 ^ 64 else (base : Int) + off

/-! One thread's load. -/

/-- The bytes that a load has read, or what it still finds of them (R221). -/
def seen (x : Run × List Byte) (i : Nat) (p : Place) : Run × Option (List Byte) :=
  if x.1.halt ≠ .go then (x.1, some x.2)
  else
    let y := x.1.s.staleRead (x.1.agent i) p x.2
    ({ x.1 with s := y.1 }, some y.2)

/-- Reads the bytes of a load for a thread at a checked place, or sends the request to the page's home. The value of a
remote load is written by the reply. -/
def Run.loadAt (r : Run) (i : Nat) (e : Enc) (a : Int) (n : Nat) (p : Place) : Run × Option (List Byte) :=
  match p with
  | .remote l va =>
    match r.combined i va n with
    | some bs => (r, some bs)
    | none =>
      let r1 := r.drain (fun c => c.touches va n)
      if r1.halt ≠ .go then (r1, none)
      else
        match r1.bar i l.conf 0 va [l.home] with
        | some r2 => (r2, none)
        | none => ({ r1 with reads := r1.reads ++ [(i, l, va)] }, none)
  | .phys pa =>
    let r0 := if isAcq e && actScope e ≥ 3 then
        { r with s := r.s.l1Drop r.w.core (fun x => pa ≤ x && x < pa + n) } else r
    seen (r0.readAt i (space e) a.toNat n p) i p
  | _ => seen (r.readAt i (space e) a.toNat n p) i p

/-- Completes a load of one thread: the acquire, and the value into D. -/
def Run.loadDone (r : Run) (i : Nat) (e : Enc) (bs : List Byte) : Run :=
  let r1 := if isAcq e then { r with s := r.s.acquire r.w.core r.w.uid r.t.tix (actScope e) } else r
  r1.write i e.d 32 0 (Legal.ty64 e.ty.toNat) (loadVal e.ty.toNat bs)

/-- A load of one thread at an address (R205, R206). -/
def Run.loadTo (r : Run) (i : Nat) (e : Enc) (a : Int) : Run :=
  let n := accessBytes e.ty.toNat
  match r.check i (space e) a n n .load with
  | .halt r1 => r1
  | .ok p =>
    let x := r.loadAt i e a n p
    match x.2 with
    | some bs => if x.1.halt = .go then x.1.loadDone i e bs else x.1
    | none => x.1

/-! One thread's store. -/

/-- A release store or atomic that has sent packets completes when they are acknowledged (R239): the team issues nothing before, and a `.sc`
one acquires then (R228). -/
def Run.await (r : Run) (e : Enc) : Run :=
  if isRel e && r.t.unacked ≠ [] then
    { r with post := some .remote, t := { r.t with awaits := some (if e.var.toNat = 4 then actScope e else 0) } }
  else r

/-- A store of one thread at an address: the value operand is read after the address operands (R204, R205). -/
def Run.storeFrom (r0 : Run) (i : Nat) (e : Enc) (a : Int) : Run :=
  let n := accessBytes e.ty.toNat
  let r := r0.settleRel
  if r.halt ≠ .go then r else
  let x := r.read i e.d e.ty.toNat 32 0 (Legal.ty64 e.ty.toNat)
  if x.1.halt ≠ .go then x.1
  else
    let bs := natBytes n x.2
    match x.1.check i (space e) a n n (if isRel e then .store else .weak) with
    | .halt r1 => r1
    | .ok p =>
      match p with
      | .remote l va =>
        if isRel e then (x.1.remoteWrite i l va (actScope e) e.var.toNat bs).await e else x.1.combine i va bs
      | .phys pa =>
        let r1 := x.1.writeAt i (space e) a.toNat p bs
        (if isRel e && actScope e ≥ 3 then { r1 with s := r1.s.l1Clean r1.w.core (fun y => pa ≤ y && y < pa + n) } else r1).await e
      | _ => x.1.writeAt i (space e) a.toNat p bs

/-! Ranks held for a replay (R207). -/

/-- The address that a participant has computed and holds. -/
def Thread.heldAddr (h : Thread) : Option Nat := h.held.bind Held.addr

/-- The rank of a participant. -/
def Thread.rank (h : Thread) : Nat := (h.held.map Held.rank).getD 0

/-- The held address of a participant, as the space takes it (R191). -/
def Run.heldAt (r : Run) (i : Nat) (e : Enc) : Int :=
  match (r.t.thread i).heldAddr with
  | some a => if space e = 4 then (a : Int) else sVal 64 a
  | none => 0

/-- Holds the rank of each participant of a list. -/
def Run.holdRanks : Nat → List Nat → Run → Run
  | _, [], r => r
  | k, i :: rest, r => Run.holdRanks (k + 1) rest { r with t := r.t.modThread i (fun h => { h with held := some { rank := k, addr := none } }) }

/-- Holds the address that a participant has computed. -/
def Run.holdAddr (r : Run) (i : Nat) (a : Int) : Run :=
  { r with t := r.t.modThread i (fun h => { h with held := some { rank := (h.held.map Held.rank).getD 0, addr := some (a % 2 ^ 64).toNat } }) }

def Run.dropHeld (r : Run) (i : Nat) : Run := { r with t := r.t.modThread i (fun h => { h with held := none }) }

/-! The meanings: `ld`, `st` (R205). -/

/-- The offset operand B, read as `.s32`. -/
def Run.offset (r : Run) (i : Nat) (e : Enc) : Run × Int :=
  let x := r.read i e.b 4 32 0 false
  (x.1, sVal 32 x.2)

/-- The end of an issue of loads. -/
def Run.endLoads (r : Run) (op : Nat) (e : Enc) : Run :=
  r.afterLoads e.d e.ty.toNat (accessBytes e.ty.toNat) (actScope e) e.var.toNat (uniform op e)

/-- What a release performs before its access: it writes back and covers what came before; a `.sc` access is a `fence.sc`, which acquires as
well (R228, R229). -/
def Run.before (r : Run) (e : Enc) : Run :=
  let s1 := r.s.release r.w.core r.w.ctx (actScope e)
  { r with s := if e.var.toNat = 4 then s1.acquire r.w.core r.w.uid r.t.tix (actScope e) else s1 }

/-- The `fence.sc` after a `.sc` access that has performed (R228). -/
def Run.after (r : Run) (e : Enc) : Run :=
  if e.var.toNat = 4 && !r.parts.isEmpty then
    { r with s := (r.s.release r.w.core r.w.ctx (actScope e)).acquire r.w.core r.w.uid r.t.tix (actScope e) }
  else r

/-- An ordered access's preparation: `.rel`, `.ar` and `.sc` wait for what they cover and write the core's dirty lines
back (R229, R239). -/
def ordered (e : Enc) (body : Run → Run) (r : Run) : Run :=
  if isRel e then
    r.released (actScope e) (fun r => (body (if r.parts.isEmpty then r else r.before e)).after e)
  else body r

def ldUnit (e : Enc) (r : Run) (i : Nat) : Run :=
  let x := r.offset i e
  if x.1.halt = .go then x.1.loadTo i e (formAddr e (x.1.base i e) x.2) else x.1

def execLd (e : Enc) (s : State) : Host.Outcome State Fault Refusal :=
  issue e.g e.gn (lenOf e) (ordered e (fun r => (runUnits (ldUnit e) (r.units (uniform 0x0D0 e)) r).endLoads 0x0D0 e)) s

def stUnit (e : Enc) (r : Run) (i : Nat) : Run :=
  let x := r.offset i e
  if x.1.halt = .go then x.1.storeFrom i e (formAddr e (x.1.base i e) x.2) else x.1

def execSt (e : Enc) (s : State) : Host.Outcome State Fault Refusal :=
  issue e.g e.gn (lenOf e) (ordered e (fun r => (runUnits (stUnit e) (r.units (uniform 0x0D1 e)) r).mayRoll)) s

/-! `ldg`, `stsc`, `cst`, `exl` (R206, R207). -/

/-- An operand is no stream register. -/
def noStream : Operand → Bool
  | .q _ => false
  | _ => true

/-- The address of a gathered element: base plus index times size. -/
def gatherAddr (e : Enc) (r : Run) (i : Nat) (idx : Int) : Int := formAddr e (r.base i e) (idx * accessBytes e.ty.toNat)

/-- A part of `ldg` or `stsc` computes its address: one that holds it from before a wait or a replay keeps it (R207). -/
def gatherUnit (e : Enc) (r : Run) (i : Nat) : Run :=
  match (r.t.thread i).heldAddr with
  | some _ => r
  | none =>
    let x := r.offset i e
    if x.1.halt = .go then x.1.holdAddr i (gatherAddr e x.1 i x.2) else x.1

/-- A part of `cst` or `exl` computes its address from its rank (R206). -/
def rankUnit (e : Enc) (r : Run) (i : Nat) : Run :=
  match (r.t.thread i).heldAddr with
  | some _ => r
  | none =>
    let x := r.read i e.b 8 32 0 false
    if x.1.halt = .go then x.1.holdAddr i (gatherAddr e x.1 i ((x.2 + (x.1.t.thread i).rank : Nat) : Int)) else x.1

/-- The access of a part at the address it holds. -/
def heldLoad (e : Enc) (r : Run) (i : Nat) : Run := (r.loadTo i e (r.heldAt i e)).dropHeld i
def heldStore (e : Enc) (r : Run) (i : Nat) : Run := (r.storeFrom i e (r.heldAt i e)).dropHeld i

/-- The ranks of the parts of a fresh `cst` or `exl`: their places among the participants (R206). -/
def Run.ranked (r : Run) (op : Nat) (e : Enc) : Run :=
  if r.replaying || r.resumed then r else Run.holdRanks 0 ((r.units (uniform op e)).map Prod.fst) r

def execLdg (e : Enc) (s : State) : Host.Outcome State Fault Refusal :=
  issue e.g e.gn (lenOf e) (ordered e (fun r =>
    (runHeld (gatherUnit e) (heldLoad e) (r.units (uniform 0x0D2 e)) r).endLoads 0x0D2 e)) s

def execStsc (e : Enc) (s : State) : Host.Outcome State Fault Refusal :=
  issue e.g e.gn (lenOf e) (ordered e (fun r =>
    (runHeld (gatherUnit e) (heldStore e) (r.units (uniform 0x0D3 e)) r).mayRoll)) s

def execCst (e : Enc) (s : State) : Host.Outcome State Fault Refusal :=
  issue e.g e.gn (lenOf e) (ordered e (fun r =>
    (runHeld (rankUnit e) (heldStore e) (r.units (uniform 0x0D4 e)) (r.ranked 0x0D4 e)).mayRoll)) s

def execExl (e : Enc) (s : State) : Host.Outcome State Fault Refusal :=
  issue e.g e.gn (lenOf e) (ordered e (fun r =>
    (runHeld (rankUnit e) (heldLoad e) (r.units (uniform 0x0D5 e)) (r.ranked 0x0D5 e)).endLoads 0x0D5 e)) s

/-! Atomics (R208, R209). -/

/-- The new value and flags of an atomic operation. -/
def atomNew (aop ty old b d : Nat) : Nat × BitVec 6 :=
  let w := Legal.tyWidth ty
  let m := 2 ^ w
  if aop = 0 then ((old + b) % m, 0)
  else if aop = 1 then (toBits w (min (intAt ty old) (intAt ty b)), 0)
  else if aop = 2 then (toBits w (max (intAt ty old) (intAt ty b)), 0)
  else if aop = 3 then ((old &&& b) % m, 0)
  else if aop = 4 then ((old ||| b) % m, 0)
  else if aop = 5 then ((old ^^^ b) % m, 0)
  else if aop = 6 then (b % m, 0)
  else if aop = 7 then (if old % m = d % m then b % m else old % m, 0)
  else if aop = 8 then (if old % m ≥ b % m then 0 else old % m + 1, 0)
  else if aop = 9 then (if old % m = 0 ∨ old % m > b % m then b % m else old % m - 1, 0)
  else if aop = 10 then
    (if ty = 14 ∨ ty = 15 then
      let x := fAdd (tyFmt ty) 0 (elemAt 16 old 0) (elemAt 16 b 0)
      let y := fAdd (tyFmt ty) 0 (elemAt 16 old 1) (elemAt 16 b 1)
      (x.1 + y.1 * 2 ^ 16, x.2 ||| y.2)
    else fAdd (tyFmt ty) 0 (old % m) (b % m))
  else fMinMax (tyFmt ty) (aop = 12) true (old % m) (b % m)

/-- The atomic read-modify-write of one thread at a checked local place. At `.nbh` and wider it performs at the point of
coherence, past the core's L1 (R229). -/
def Run.atomicAt (r : Run) (i : Nat) (e : Enc) (a : Int) (n : Nat) (p : Place) (b d : Nat) : Run × Nat :=
  let r0 := match p with
    | .phys pa => if actScope e ≥ 3 then
        { r with s := (r.s.l1Clean r.w.core (fun y => pa ≤ y && y < pa + n)).l1Drop r.w.core (fun y => pa ≤ y && y < pa + n) }
      else r
    | _ => r
  let x := r0.readAt i (space e) a.toNat n p
  if x.1.halt ≠ .go then (x.1, 0)
  else
    let old := bytesNat x.2
    let y := atomNew (aopOf e) e.ty.toNat old b d
    let r1 := (x.1.writeAt i (space e) a.toNat p (natBytes n y.1)).flags y.2
    let r2 := match p with
      | .phys pa => if actScope e ≥ 3 then { r1 with s := r1.s.l1Clean r1.w.core (fun y => pa ≤ y && y < pa + n) } else r1
      | _ => r1
    (r2, old)

/-- Sends the ATOMIC packet of one thread (R421). -/
def Run.remoteAtomic (r : Run) (i : Nat) (e : Enc) (l : Leaf) (va n b d : Nat) (result : Bool) : Run :=
  let r1 := r.drain (fun c => c.thread = i || c.touches va n)
  if r1.halt ≠ .go then r1
  else
    let load := natBytes n b ++ (if aopOf e = 7 then natBytes n d else [])
    match r1.bar i l.conf load.length va [l.home] with
    | some r2 => r2
    | none =>
      let q := r1.s.nextId
      let p := { blankPacket l.home r1.w.ctx with
                   conf := l.conf, scope := actScope e, ord := e.var.toNat, aop := aopOf e, ty := e.ty.toNat,
                   rid := ridOf r1.w.core r1.t.lane r1.t.slot q, addr := va, mask := BitVec.ofNat 64 (2 ^ i),
                   payload := load }
      let w : RemoteWait := { req := q, peer := l.home, threads := bit32 i, d := e.d, ty := e.ty.toNat, size := n,
                              atomic := true, aop := aopOf e, operand := b, pay := load,
                              acq := if isAcq e then actScope e else 0, va := va, conf := l.conf, ppc := r1.pc,
                              parked := false }
      let s1 := { r1.s with nextId := q + 1 }
      if result then
        { r1 with s := s1.send .atomic p, t := { r1.t with remote := r1.t.remote ++ [w] }, post := some .remote }
      else
        -- the value found at the home reaches no one: an open one, from which the operation's flags follow
        let f : BitVec 64 × State := if aopOf e ≥ 10 then s1.freeValue else (0, s1)
        ({ r1 with s := f.2.send .atomic p,
                   t := { r1.t with unacked := r1.t.unacked ++ ackKeys q l.mir r1.pc va [l.home],
                                    fstat := r1.t.fstat ||| (if aopOf e ≥ 10 then
                                      (atomNew (aopOf e) e.ty.toNat (f.1.toNat % 2 ^ (8 * n)) b d).2 else 0) } } : Run).await e

/-- One participant's atomic operation. -/
def atomUnit (e : Enc) (result : Bool) (r0 : Run) (i : Nat) : Run :=
  let r := r0.settleRel
  if r.halt ≠ .go then r else
  let n := accessBytes e.ty.toNat
  let pair := Legal.ty64 e.ty.toNat
  let a := formAddr e (r.base i e) 0
  let x := r.read i e.b e.ty.toNat 32 0 pair
  let y := if result then (x.1.read i e.d e.ty.toNat 32 0 pair) else (x.1, 0)
  if y.1.halt ≠ .go then y.1
  else
    match y.1.check i (space e) a n n .atomic with
    | .halt r1 => r1
    | .ok p =>
      match p with
      | .remote l va => y.1.remoteAtomic i e l va n x.2 y.2 result
      | _ =>
        let z := y.1.atomicAt i e a n p x.2 y.2
        if z.1.halt ≠ .go then z.1
        else
          let r2 := if isAcq e then { z.1 with s := z.1.s.acquire z.1.w.core z.1.w.uid z.1.t.tix (actScope e) } else z.1
          (if result then r2.write i e.d 32 0 pair z.2 else r2).await e

def execAtom (e : Enc) (s : State) : Host.Outcome State Fault Refusal :=
  issue e.g e.gn (lenOf e) (ordered e (fun r => runUnits (atomUnit e true) (r.units (uniform 0x0D6 e)) r)) s

def execRed (e : Enc) (s : State) : Host.Outcome State Fault Refusal :=
  issue e.g e.gn (lenOf e) (ordered e (fun r => runUnits (atomUnit e false) (r.units (uniform 0x0D7 e)) r)) s

/-! `fence` (R210, R227, R228): it acts at the scope it names; uniformly for every active thread. The release side of `.rel` and `.ar`
performs with the team's next store: no fence but `fence.sc` orders an earlier store before a later load. -/

/-- The widest scope of a pending release and a new one. -/
def maxScope (o : Option Nat) (sc : Nat) : Nat := max (o.getD 0) sc

def fenceBody (e : Enc) (r : Run) : Run :=
  if r.parts.isEmpty then r
  else
    let r1 :=
      if e.var.toNat = 4 then { r with s := r.s.release r.w.core r.w.ctx (scopeOf e), t := { r.t with relPend := none } }
      else if isRel e then { r with t := { r.t with relPend := some (maxScope r.t.relPend (scopeOf e)) } }
      else r
    if isAcq e then { r1 with s := r1.s.acquire r1.w.core r1.w.uid r1.t.tix (scopeOf e) } else r1

def execFence (e : Enc) (s : State) : Host.Outcome State Fault Refusal :=
  issue e.g e.gn (lenOf e) (fun r =>
    if e.var.toNat = 4 then r.released (scopeOf e) (fenceBody e)
    else if isRel e then r.released 0 (fenceBody e)
    else fenceBody e r) s

/-! Cache operations (R211, R212). -/

/-- `pf`: no effect that programs see; it may leave the line in the L1. A stream offset is consumed. -/
def pfUnit (e : Enc) (r : Run) (i : Nat) : Run :=
  let x := r.offset i e
  match x.1.halt with
  | .go =>
    let a := formAddr e (x.1.base i e) x.2
    match x.1.s.locate (r.agent i) 4 a 1 1 .load with
    | .at_ (.phys pa) => { x.1 with s := x.1.s.l1Keep r.w.core (pa / 128 * 128) 128 }
    | _ => x.1
  | .stall w => r.stall w
  | _ => r

def execPf (e : Enc) (s : State) : Host.Outcome State Fault Refusal := issueUnits 0x0D9 e (pfUnit e) s

/-- Physical bytes of the lines that overlap a range of a context's global space, among the pages homed here. -/
def Context.rangeHas (x : Context) (pkg lo hi pa : Nat) : Bool :=
  x.pages.any (fun l => l.res && l.home = pkg && pa42 l.frame ≤ pa && pa < pa42 l.frame + pageBytes l.sz &&
    lo / 128 * 128 ≤ l.va + (pa - pa42 l.frame) && l.va + (pa - pa42 l.frame) < (hi / 128 + 1) * 128)

/-- Writes back, and drops where asked, the lines of a range in the L1 of each of a list of cores: at `.nbh` and wider the point of coherence
lies beyond them all (R212, R229). -/
def State.cacheAll (p : Nat → Bool) (inval : Bool) : List Nat → State → State
  | [], s => s
  | k :: r, s =>
    let s1 := s.l1Clean k p
    State.cacheAll p inval r (if inval then s1.l1Drop k p else s1)

/-- One participant's `cinv` or `cwb` over [a, a + length). -/
def cacheUnit (e : Enc) (inval : Bool) (r : Run) (i : Nat) : Run :=
  let x := r.read i e.b 8 32 0 false
  if x.1.halt ≠ .go then x.1
  else
    let len := x.2 % 2 ^ 32
    let a := x.1.base i e
    if len = 0 then x.1
    else if a ≥ 2 ^ 57 then x.1.fatal i clsAddress 2 a
    else if a + len - 1 ≥ 2 ^ 57 then x.1.fatal i clsAddress 2 (a + len - 1)
    else
      let met := if inval then x.1.sync.lockMet (r.agent i) 4 (.phys 0) a len false else none
      match met with
      | some (sub, l) => x.1.lockedAt i sub a l
      | none =>
        if actScope e < 3 then x.1
        else
          match x.1.s.getCtx r.w.ctx with
          | none => x.1
          | some c =>
            let p := c.rangeHas x.1.s.pkg a (a + len - 1)
            { x.1 with s := State.cacheAll p inval (x.1.s.cores.map Core.id) x.1.s }

def execCinv (e : Enc) (s : State) : Host.Outcome State Fault Refusal := issueUnits 0x0DA e (cacheUnit e true) s
def execCwb (e : Enc) (s : State) : Host.Outcome State Fault Refusal := issueUnits 0x0DB e (cacheUnit e false) s

/-! Streams (R213). -/

def qNo : Operand → Nat
  | .q n => n.toNat
  | _ => 0

/-- The base that `sbind` reads: the record's s register, a pair in `.glb`. -/
def Run.streamBase (r : Run) (rec : List Byte) : Nat :=
  let n := fieldAt rec 8 4
  if fieldAt rec 4 1 = 4 then pairVal (r.t.sGet n) (r.t.sGet (n + 1)) else (r.t.sGet n).toNat

/-- A copy in progress holds the stream register (R213, R289). -/
def Run.copyHolds (r : Run) (q : Nat) : Bool :=
  match (r.t.stream q).copy with
  | some k => ((r.s.getOp k).map (fun o => o.st.isBusy)).getD false
  | none => false

/-- A stream register that no record of the kernel names makes the instruction a trap stub (R213). -/
def noRecord (r : Run) : Run :=
  if r.active then { r with halt := .fatal { mkFault clsIllegal 0 0 with ppc := r.pc }, tmask := r.cands &&& r.t.top } else r

/-- What has been read ahead for a stream register is forgotten (R213, R214), and so is a READ under way for it: its answer finds no binding. -/
def Team.dropBlocks (t : Team) (q : Nat) : Team :=
  { t with streamBlocks := t.streamBlocks.filter (fun x => x.1 ≠ q), remote := t.remote.filter (fun x => x.d ≠ .bar (BitVec.ofNat 6 q)) }

def sbindUnit (q : Nat) (rec : List Byte) (r : Run) (_i : Nat) : Run :=
  if r.copyHolds q then r.stall (.streamBusy q)
  else { r with t := (r.t.dropBlocks q).setStream q
                  { bound := true, base := r.streamBase rec, pos := 0, buf := [], copy := none, total := recTotal rec, write := fieldAt rec 1 1 = 1, esz := fieldAt rec 2 1 } }

def execSbind (e : Enc) (s : State) : Host.Outcome State Fault Refusal :=
  issue e.g e.gn (lenOf e) (fun r =>
    match r.s.streamRecord r.w (qNo e.a) with
    | none => noRecord r
    | some rec => runUnits (sbindUnit (qNo e.a) rec) (r.units true) r) s

def scloseUnit (q : Nat) (r : Run) (_i : Nat) : Run :=
  if r.copyHolds q then r.stall (.streamBusy q)
  else { r with t := (r.t.dropBlocks q).setStream q { r.t.stream q with bound := false, buf := [], copy := none } }

/-- `sclose` of a write stream waits until every appended element has performed at the space's widest scope. -/
def execSclose (e : Enc) (s : State) : Host.Outcome State Fault Refusal :=
  issue e.g e.gn (lenOf e) (fun r =>
    match r.s.streamRecord r.w (qNo e.a) with
    | none => noRecord r
    | some rec =>
      let body := fun (r : Run) => runUnits (scloseUnit (qNo e.a)) (r.units true) r
      if (r.t.stream (qNo e.a)).bound && (r.t.stream (qNo e.a)).write then
        r.released (widest (fieldAt rec 4 1)) (fun r =>
          body (if r.parts.isEmpty then r else { r with s := r.s.release r.w.core r.w.ctx (widest (fieldAt rec 4 1)) }))
      else body r) s

end Sys2Proof.Machine
end

