-- ==== Sys2Proof/Machine/Barrier.lean ====
section
/-! DEFINITION. Barriers (R297 to R310): core barriers, barrier objects here and on other packages, the barrier instructions,
and the arrivals of operations. -/
namespace Sys2Proof.Machine

/-! Barrier objects (R300, R301). -/

/-- An event on a barrier object. -/
inductive BarEvent where
  | arm (scope expect : Nat)
  | arrive (n : Nat)
  | look
  | disarm
  /-- a look that another package's home answers once the phase is complete -/
  | wait (ph : Nat)
  /-- another package's operation is linked to the object, or has ended -/
  | link (on : Bool) (op : Nat)
  deriving DecidableEq, Repr

/-- The answer to an event: the sub-code of BAR_MISUSE, or the phase and count before it. -/
structure BarAns where
  sub : Option Nat
  phase : Nat
  count : Nat
  deriving DecidableEq, Repr

/-- Bytes of a place at its point of coherence. -/
def State.cohGet (s : State) (p : Place) (n : Nat) : List Byte :=
  match p with
  | .phys a => spTake 0 s.dram a n
  | .host a => s.hostTake a n
  | _ => natBytes n 0

def State.cohPut (s : State) (p : Place) (bs : List Byte) : State :=
  match p with
  | .phys a => ({ s with dram := spPut 0 s.dram a bs }).healUnits (firmwareAgent 0) p bs.length
  | .host a => s.hostPut a bs
  | _ => s

/-- A team that waits for a phase of a barrier which is not complete, or that a cut has found so (R310). -/
def Team.waitsOn (t : Team) (b : BarRef) (phase : Nat) : Bool :=
  match t.st, t.savedWait with
  | .stall (.phase x ph), _ => x = b && !phaseDone phase ph
  | _, some (x, ph) => x = b && !phaseDone phase ph
  | _, none => false

/-- An operation that a barrier is linked to and that has not ended. -/
def Op.linked (o : Op) (b : BarRef) : Bool :=
  (o.st.isBusy || o.st = .saved) && (o.link.arr = some b || (o.link.wait.map Prod.fst) = some b)

/-- R303 sub-code 3, its waiting teams and linked operations: of a workgroup for a core barrier, of the context for an
object. An object's home keeps the waiters and links of workgroups that a cut has saved, and of other packages (R300, R310). -/
def State.barBusy (s : State) (p : Workgroup → Bool) (c : Nat) (b : BarRef) (phase : Nat) : Bool :=
  s.wgs.any (fun w => p w && w.teams.any (fun t => t.waitsOn b phase)) ||
  s.ops.any (fun o => o.ctx = c && s.wgs.any (fun w => w.uid = o.wg && p w) && o.linked b) ||
  (match b with
   | .obj a => s.barWaits.any (fun y => y.ctx = c && y.va = a && !phaseDone phase y.ph) ||
       s.barLinks.any (fun y => y.ctx = c && y.va = a) || s.arrivals.any (fun o => o.ctx = c && o.link.arr = some b) ||
       ((s.getCtx c).map (fun x => x.save.wgs.any (fun w => w.teams.any (fun t => t.waitsOn b phase)) || x.save.ops.any (fun o => o.linked b))).getD false
   | .core _ => false)

/-- An event on a barrier object at its place, as one read-modify-write (R298, R300, R303, R304, R307). -/
def State.objAct (s : State) (c va : Nat) (p : Place) (ev : BarEvent) : State × BarAns :=
  let bs := s.cohGet p 64
  let phase := fieldAt bs 16 4
  let count := fieldAt bs 12 4
  let bad := fun (k : Nat) => (s, ({ sub := some k, phase := phase, count := count } : BarAns))
  let good : BarAns := { sub := none, phase := phase, count := count }
  let armed := fieldAt bs 0 4 = 1
  let met := s.barBusy (fun w => w.ctx = c) c (.obj va) phase
  let busy := count ≠ 0 || met
  let scopeBad := fieldAt bs 4 1 < 3 || fieldAt bs 4 1 > 6
  match ev with
  | .arm sc ex =>
    if met || (armed && count ≠ 0) then bad 3
    else (s.cohPut p (natBytes 4 1 ++ natBytes 1 sc ++ natBytes 3 0 ++ natBytes 4 ex ++ natBytes 4 0 ++ natBytes 4 0), good)
  | .disarm =>
    if !armed then bad 1 else if scopeBad then bad 4 else if busy then bad 3
    else (s.cohPut p (natBytes 4 0), good)
  | .arrive n =>
    if !armed then bad 1 else if scopeBad then bad 4
    else if count + n > fieldAt bs 8 4 then bad 2
    else if count + n = fieldAt bs 8 4 then
      (s.cohPut p (bs.take 12 ++ natBytes 4 0 ++ natBytes 4 (phase + 1)), good)
    else (s.cohPut p (bs.take 12 ++ natBytes 4 (count + n)), good)
  | .look => if !armed then bad 1 else if scopeBad then bad 4 else (s, good)
  | .wait _ => if !armed then bad 1 else if scopeBad then bad 4 else (s, good)
  | .link _ _ => (s, good)

/-- The bytes by which events and answers travel between packages: the manual gives barrier events no packet. -/
def BarEvent.bytes : BarEvent → List Byte
  | .arm sc ex => natBytes 4 (256 * sc) ++ natBytes 4 ex
  | .arrive n => natBytes 4 1 ++ natBytes 4 n
  | .look => natBytes 4 2 ++ natBytes 4 0
  | .disarm => natBytes 4 3 ++ natBytes 4 0
  | .wait ph => natBytes 4 4 ++ natBytes 4 ph
  | .link on k => natBytes 4 (if on then 261 else 5) ++ natBytes 4 k

def BarEvent.ofBytes (bs : List Byte) : BarEvent :=
  let k := fieldAt bs 0 1
  if k = 0 then .arm (fieldAt bs 1 1) (fieldAt bs 4 4) else if k = 1 then .arrive (fieldAt bs 4 4)
  else if k = 3 then .disarm else if k = 4 then .wait (fieldAt bs 4 4)
  else if k = 5 then .link (fieldAt bs 1 1 = 1) (fieldAt bs 4 4) else .look

def BarAns.bytes (a : BarAns) : List Byte :=
  natBytes 4 (match a.sub with
    | some k => k
    | none => 255) ++ natBytes 4 a.phase ++ natBytes 4 a.count

def BarAns.ofBytes (bs : List Byte) : BarAns :=
  { sub := if fieldAt bs 0 4 = 255 then none else some (fieldAt bs 0 4), phase := fieldAt bs 4 4, count := fieldAt bs 8 4 }

/-- AOP of a barrier event's ATOMIC packet: a code R86 leaves free. -/
def aopBar : Nat := 15

/-- Answers the waits of other packages for phases that are complete (R300). -/
def barServeGo (s : State) (c va phase : Nat) : List BarWait → State
  | [] => s
  | y :: r =>
    if y.ctx = c && y.va = va && phaseDone phase y.ph then
      barServeGo ({ s with barWaits := s.barWaits.filter (fun z => z ≠ y) }.send .reply
        { blankPacket y.peer c with
            conf := y.conf, aop := aopBar, rid := y.rid, addr := va, mask := 1,
            payload := ({ sub := none, phase := phase, count := 0 } : BarAns).bytes }) c va phase r
    else barServeGo s c va phase r

/-- An event on an object homed here, with what follows from it: the peer's frame of a mirrored page is written (R424), and
other packages' waits are answered. -/
def State.objEvent (s : State) (c va : Nat) (p : Place) (l : Option Leaf) (ev : BarEvent) : State × BarAns :=
  let x := s.objAct c va p ev
  let s1 := match l, p with
    | some l, .phys _ => if x.2.sub.isNone && ev ≠ .look then
        x.1.sendWrites c l.conf 0 0 0 va (x.1.cohGet p 20) (l.dests s.pkg) else x.1
    | _, _ => x.1
  (barServeGo s1 c va (fieldAt (s1.cohGet p 64) 16 4) s1.barWaits, x.2)

/-- What an event does to its object, for the checks of R401. -/
def BarEvent.acc : BarEvent → Acc
  | .arm _ _ => .store
  | .disarm => .store
  | .arrive _ => .atomic
  | .look => .load
  | .wait _ => .load
  | .link _ _ => .load

/-- The bytes of an object leave the issuing core's L1 before an event acts at the home. -/
def State.objFlush (s : State) (core : Nat) (p : Place) : State :=
  match p with
  | .phys a => (s.l1Clean core (fun y => a ≤ y && y < a + 64)).l1Drop core (fun y => a ≤ y && y < a + 64)
  | _ => s

/-- Sends an event to an object's home on another package and waits for the answer. -/
def Run.askObj (r : Run) (i va : Nat) (l : Leaf) (ev : BarEvent) : Run :=
  match r.bar i l.conf 8 va [l.home] with
  | some r1 => r1
  | none =>
    let q := r.s.nextId
    let p := { blankPacket l.home r.w.ctx with
                 conf := l.conf, scope := 6, aop := aopBar, rid := ridOf r.w.core r.t.lane r.t.slot q, addr := va,
                 mask := BitVec.ofNat 64 (2 ^ i), payload := ev.bytes }
    let w : RemoteWait := { req := q, peer := l.home, threads := bit32 i, d := .vt 0, ty := 0, size := 4, atomic := true,
                            aop := aopBar, operand := 0, pay := ev.bytes, acq := 0, va := va, conf := l.conf, ppc := r.pc, parked := false }
    let s1 := { r.s with nextId := q + 1 }
    { r with s := s1.send .atomic p, t := { r.t with remote := r.t.remote ++ [w] },
             halt := .stall .remote }

/-- An event of a team on an object (R303). -/
def Run.objEvent (r : Run) (i va : Nat) (ev : BarEvent) : Run × BarAns :=
  let none_ : BarAns := { sub := none, phase := 0, count := 0 }
  match r.sync.locate (r.agent i) 4 va 64 64 ev.acc with
  | .bad f => (r.fatalAt i f, none_)
  | .replay a _ => (r.replayAt a, none_)
  | .at_ p =>
    match p with
    | .remote l a =>
      match tabGet a r.t.fetched with
      | some bs => ({ r with t := { r.t with fetched := tabDel a r.t.fetched } }, BarAns.ofBytes bs)
      | none => (r.askObj i a l ev, none_)
    | _ =>
      let s := (r.sync.objFlush r.w.core p).tlbFill r.w.ctx r.w.core va
      if s.badRead (r.agent i) p 64 then (r.fatal i clsMemUe 0 va, none_)
      else
        let x := s.objEvent r.w.ctx va p (s.translate r.w.ctx r.w.core va) ev
        let s1 := if ev.acc = .load || x.2.sub.isSome then x.1 else x.1.setDirty r.w.ctx va
        (r.load s1, x.2)

/-- The scope of an object as it stands, read before an event only to know what the event releases. -/
def Run.objScope (r : Run) (i va : Nat) : Nat :=
  match r.s.locate (r.agent i) 4 va 64 64 .load with
  | .at_ (.remote _ _) => 6
  | .at_ p => min 6 (max 3 (fieldAt (r.s.cohGet p 64) 4 1))
  | _ => 6

/-! The barrier an instruction names (R302, R303). -/

/-- The barrier operand: a core barrier, or the object at the address of a pair. -/
def Run.barRef (r : Run) (i : Nat) (e : Enc) : BarRef :=
  match e.a with
  | .bar n => .core n.toNat
  | o => .obj (r.read i o 1 64 0 true).2

/-- Changes a core barrier of the issuing workgroup. -/
def Run.putBar (r : Run) (n : Nat) (b : CoreBar) : Run := { r with w := { r.w with bars := setNth r.w.bars n b } }

/-- The workgroup with the issuing team in it. -/
def Run.wgNow (r : Run) : Workgroup := r.w.putTeam r.t

/-- The scope at which a barrier orders (R309). -/
def Run.barScope (r : Run) (i : Nat) : BarRef → Nat
  | .core _ => 2
  | .obj a => r.objScope i a

/-- BAR_MISUSE. -/
def Run.misuse (r : Run) (i sub : Nat) : Run := r.fatal i clsBarrier sub 0

/-- The core barrier of a number, or BAR_MISUSE 0 or 1. -/
def Run.coreBar (r : Run) (n : Nat) (needArmed : Bool) : Nat ⊕ CoreBar :=
  match r.w.bars[n]? with
  | none => .inl 0
  | some b => if needArmed && !b.armed then .inl 1 else .inr b

/-- One arrival of `n` by the issuing team, with the phase arrived in (R305). -/
def Run.barArrive (r : Run) (i : Nat) (b : BarRef) (n : Nat) : Run × Nat :=
  match b with
  | .core k =>
    match r.coreBar k false with
    | .inl sub => (r.misuse i sub, 0)
    | .inr x =>
      match x.arrive r.wgNow.liveTeams (some r.t.tix) n with
      | .inl sub => (r.misuse i sub, 0)
      | .inr (y, ph) => (r.putBar k y, ph)
  | .obj a =>
    let x := r.objEvent i a (.arrive n)
    if x.1.halt ≠ .go then (x.1, 0)
    else match x.2.sub with
      | some sub => (x.1.misuse i sub, 0)
      | none => (x.1, x.2.phase)

/-- PHASE and COUNT of a barrier (R306). `wait` asks another package's home to answer once a phase is complete. -/
def Run.barLook (r : Run) (i : Nat) (b : BarRef) (wait : Option Nat) : Run × Nat × Nat :=
  match b with
  | .core k =>
    match r.coreBar k true with
    | .inl sub => (r.misuse i sub, 0, 0)
    | .inr x => (r, x.phase.toNat, x.count)
  | .obj a =>
    let x := r.objEvent i a (match wait with
      | some ph => .wait ph
      | none => .look)
    if x.1.halt ≠ .go then (x.1, 0, 0)
    else match x.2.sub with
      | some sub => (x.1.misuse i sub, 0, 0)
      | none => (x.1, x.2.phase, x.2.count)

/-- The wait for a phase, and the acquire when it is complete (R305, R306, R309). A wait that has ended looks no more at its barrier. -/
def Run.barWait (r : Run) (i : Nat) (b : BarRef) (ph : Nat) : Run :=
  if r.t.passed = some (b, ph) then
    { r with s := r.s.acquire r.w.core r.w.uid r.t.tix (r.barScope i b), t := { r.t with heldPhase := none, passed := none } }
  else
  let x := r.barLook i b (some ph)
  if x.1.halt ≠ .go then x.1
  else if phaseDone x.2.1 ph then
    { x.1 with s := x.1.s.acquire r.w.core r.w.uid r.t.tix (r.barScope i b), t := { x.1.t with heldPhase := none } }
  else x.1.stall (.phase b ph)

/-- A count from operand B, 1 to 65535 (R302, R303 sub-code 4). -/
def Run.barCount (r : Run) (i : Nat) (o : Operand) : Nat := (r.read i o 8 32 0 false).2

/-! The instructions. -/

/-- Sub-code 3 for a core barrier. -/
def Run.coreBusy (r : Run) (n : Nat) (b : CoreBar) : Bool :=
  b.count ≠ 0 || r.sync.barBusy (fun w => w.uid = r.w.uid) r.w.ctx (.core n) b.phase.toNat

def binitUnit (e : Enc) (r : Run) (i : Nat) : Run :=
  let n := r.barCount i e.b
  match r.barRef i e with
  | .core k =>
    match r.coreBar k false with
    | .inl sub => r.misuse i sub
    | .inr b =>
      if n > 65535 then r.misuse i 4
      else if r.coreBusy k b then r.misuse i 3
      else r.putBar k { armed := true, expect := n, arr := 0, count := 0, phase := 0 }
  | .obj a =>
    if n = 0 ∨ n ≥ 2 ^ 31 then r.misuse i 4
    else
      let x := r.objEvent i a (.arm e.var.toNat n)
      if x.1.halt ≠ .go then x.1
      else match x.2.sub with
        | some sub => x.1.misuse i sub
        | none => x.1

/-- `binit` (R304); an object's is a release at its scope. -/
def execBinit (e : Enc) (s : State) : Host.Outcome State Fault Refusal :=
  issue e.g e.gn (lenOf e) (fun r =>
    if e.ty = 0 then onceFirst (binitUnit e) r
    else r.released e.var.toNat (fun r => onceFirst (fun r i =>
      binitUnit e { r with s := r.s.release r.w.core r.w.ctx e.var.toNat } i) r)) s

/-- `barr` and `bsync` as far as the arrival: a release at the barrier's scope. -/
def arriveUnit (e : Enc) (r : Run) (i : Nat) : Run × Nat :=
  let b := r.barRef i e
  let n := r.barCount i e.b
  if n = 0 ∨ n > 65535 then (r.misuse i 4, 0)
  else
    let x := { r with s := r.s.release r.w.core r.w.ctx (r.barScope i b) }.barArrive i b n
    if x.1.halt ≠ .go then x else (x.1.writeEach e.d false x.2, x.2)

/-- Runs the preparation of an arrival's release, then its body. -/
def barReleased (e : Enc) (body : Run → Run) (r : Run) : Run :=
  match r.parts with
  | [] => r
  | i :: _ => r.released (r.barScope i (r.barRef i e)) body

def execBarr (e : Enc) (s : State) : Host.Outcome State Fault Refusal :=
  issue e.g e.gn (lenOf e) (barReleased e (onceFirst (fun r i => (arriveUnit e r i).1))) s

/-- `bsync`: the arrival once, then the wait for the held phase. -/
def bsyncUnit (e : Enc) (r : Run) (i : Nat) : Run :=
  match r.t.heldPhase with
  | some (b, ph) => r.barWait i b ph
  | none =>
    let x := arriveUnit e r i
    if x.1.halt ≠ .go then x.1
    else
      let b := r.barRef i e
      { x.1 with t := { x.1.t with heldPhase := some (b, x.2) } }.barWait i b x.2

def execBsync (e : Enc) (s : State) : Host.Outcome State Fault Refusal :=
  issue e.g e.gn (lenOf e) (fun r =>
    if r.t.heldPhase.isSome then onceFirst (bsyncUnit e) r else barReleased e (onceFirst (bsyncUnit e)) r) s

def execBwait (e : Enc) (s : State) : Host.Outcome State Fault Refusal :=
  issueKept e (fun r i => r.barWait i (r.barRef i e) (r.barCount i e.b)) s

/-- `blink`: a pending link of a token (R308). -/
def blinkUnit (e : Enc) (k : Nat) (r : Run) (i : Nat) : Run :=
  let b := r.barRef i e
  let arr := e.var.toNat / 2 % 2 = 1
  let x := r.barLook i b none
  if x.1.halt ≠ .go then x.1
  else
    let live := match b with
      | .core n => ((r.w.bars[n]?).map (fun y => decide (y.expect = 0))).getD false
      | .obj _ => false
    if arr && live then x.1.misuse i 2
    else
      let l := x.1.t.link k
      let l1 := if e.var.toNat % 2 = 1 then { l with wait := some (b, r.barCount i e.b) } else l
      let l2 := if arr then { l1 with arr := some b } else l1
      { x.1 with t := { x.1.t with links := tabSet k l2 x.1.t.links } }

/-- Number of a token operand. -/
def tkNo : Operand → Nat
  | .tk n => n.toNat
  | _ => 0

def execBlink (e : Enc) (s : State) : Host.Outcome State Fault Refusal := issueKept e (blinkUnit e (tkNo e.d)) s

def binvUnit (e : Enc) (r : Run) (i : Nat) : Run :=
  match r.barRef i e with
  | .core k =>
    match r.coreBar k true with
    | .inl sub => r.misuse i sub
    | .inr b => if r.coreBusy k b then r.misuse i 3 else r.putBar k { b with armed := false }
  | .obj a =>
    let x := r.objEvent i a .disarm
    if x.1.halt ≠ .go then x.1
    else match x.2.sub with
      | some sub => x.1.misuse i sub
      | none => x.1

def execBinv (e : Enc) (s : State) : Host.Outcome State Fault Refusal := issueKept e (binvUnit e) s

/-- `btest`: only `.done` returning 1 acquires. -/
def btestUnit (e : Enc) (r : Run) (i : Nat) : Run :=
  let b := r.barRef i e
  let ph := if e.var = 0 then r.barCount i e.b else 0
  let x := r.barLook i b none
  if x.1.halt ≠ .go then x.1
  else if e.var = 0 then
    let d := phaseDone x.2.1 ph
    let r1 := x.1.writeEach e.d false (if d then 1 else 0)
    if d then { r1 with s := r1.s.acquire r.w.core r.w.uid r.t.tix (r.barScope i b) } else r1
  else x.1.writeEach e.d false (if e.var = 1 then x.2.1 else x.2.2)

def execBtest (e : Enc) (s : State) : Host.Outcome State Fault Refusal := issueKept e (btestUnit e) s

/-! Arrivals of operations (R308). -/

/-- A fault of an operation, delivered to the issuing team at its next STOP point, or to the context if the team has
exited (R240, R308). -/
def State.opFault (s : State) (o : Op) (f : FaultInfo) : State :=
  let g := { f with engine := true, token := o.tk, ppc := o.ppc }
  match (s.getWg o.wg).bind (fun w => w.getTeam o.tix) with
  | some t =>
    if t.st = .done then s.fatal o.ctx (ctxRecord s g)
    else s.modTeam o.wg o.tix (fun t => { t with pendFaults := t.pendFaults ++ [g] })
  | none => s.fatal o.ctx (ctxRecord s g)

/-- The agent of an operation: the first thread of the issuing team. -/
def Op.agent (o : Op) : Agent := { ctx := o.ctx, core := o.core, wg := o.wg, tix := o.tix, thread := 0 }

/-- BAR_MISUSE of an operation's arrival. -/
def State.opMisuse (s : State) (o : Op) (sub : Nat) : State := s.opFault o (mkFault clsBarrier sub 0)

/-- An operation's arrival at an object that is still to be made: at the object's scope it releases what the operation has written (R309). One whose
page is away, or whose packet cannot be sent now, is made later; one sent to another package's home is answered. -/
def State.tryArrive (s : State) (o : Op) : State :=
  match o.link.arr with
  | some (.obj a) =>
    let gone : State := { s with arrivals := s.arrivals.filter (fun y => y.id ≠ o.id) }
    (match s.locate o.agent 4 a 64 64 .atomic with
     | .bad f => gone.opFault o f
     | .replay va _ => s.missAdd (dieOf o.core) o.ctx va
     | .at_ (.remote l va) =>
       (match s.sendBar l.home l.conf 8 with
        | .unreachable => gone.opFault o (mkFault clsLink 0 va)
        | .key => s.exhaust l.home
        | .full => s
        | .open_ =>
          let q := s.nextId
          let s1 := (({ s with nextId := q + 1 } : State).release o.core o.ctx 6).send .atomic
            { blankPacket l.home o.ctx with
                conf := l.conf, scope := 6, aop := aopBar, rid := ridOf o.core 0 0 q, addr := va, mask := 0,
                payload := (BarEvent.arrive 1).bytes }
          { s1 with arrivals := s1.arrivals.map (fun y => if y.id = o.id then { y with waits := [(q, va, 0)] } else y) })
     | .at_ p =>
       let s1 := (gone.release o.core o.ctx (min 6 (max 3 (fieldAt (s.cohGet p 64) 4 1)))).objFlush o.core p
       let x := s1.objEvent o.ctx a p (s1.translate o.ctx o.core a) (.arrive 1)
       (match x.2.sub with
        | some sub => x.1.opMisuse o sub
        | none => x.1.setDirty o.ctx a))
  | _ => s

/-- The arrivals that can be made now are made. -/
def State.tryArrivals (s : State) : State := (s.arrivals.filter (fun o => o.waits = [])).foldl State.tryArrive s

/-- An operation's arrival of 1 at its linked barrier (R308), a release at the barrier's scope (R309). -/
def State.opArrive (s : State) (o : Op) : State :=
  match o.link.arr with
  | none => s
  | some (.core n) =>
    (match s.getWg o.wg with
     | none => s
     | some w =>
       match w.bars[n]? with
       | none => s.opMisuse o 0
       | some b =>
         match b.arrive w.liveTeams none 1 with
         | .inl sub => s.opMisuse o sub
         | .inr (b1, _) => (s.release o.core o.ctx 2).putWg { w with bars := setNth w.bars n b1 })
  | some (.obj _) =>
    let o1 := { o with waits := [] }
    ({ s with arrivals := s.arrivals.filter (fun y => y.id ≠ o.id) ++ [o1] } : State).tryArrive o1

end Sys2Proof.Machine
end

