-- ==== Sys2Proof/Machine/Engine.lean ====
section
/-! DEFINITION. What copies and press operations share (R234, R237, R240, R247, R284): tokens, the creation and the end of an
operation, its range locks, and an engine's reads and writes of memory. -/
namespace Sys2Proof.Machine

/-! Tokens (R247). -/

/-- The operation a team's token names. -/
def Run.tokenOp (r : Run) (k : Nat) : Option Op := (r.t.token k).bind (fun i => r.s.getOp i)

/-- The token's operation is BUSY. -/
def Run.tokenBusy (r : Run) (k : Nat) : Bool := ((r.tokenOp k).map (fun o => o.st.isBusy || o.st = .saved)).getD false

/-- Status code of a token (R279): NONE for one that names no operation. -/
def Run.tokenCode (r : Run) (k : Nat) : Nat := ((r.tokenOp k).map (fun o => o.st.code)).getD 0

/-- A status whose observation is the acquire of R232. -/
def Run.tokenAcquire (r : Run) (k : Nat) : Run :=
  match r.tokenOp k with
  | some o => if o.st = .done ∨ o.st = .overflow then { r with s := r.s.acquire r.w.core r.w.uid r.t.tix o.scope } else r
  | none => r

/-- `pwait` and `cwait` (R269, R293). -/
def waitUnit (k : Nat) (r : Run) (_i : Nat) : Run :=
  if r.tokenBusy k then r.stall (.token k) else r.tokenAcquire k

/-! Range locks (R234, R237, R295). -/

/-- The lock of a byte interval of a space, for an operation of a workgroup; none where no byte of it lies in the table's
reach. `.nbh` bytes are locked as far as they lie in the own scratchpad. -/
def lockFor (w : Workgroup) (sp : Nat) (lo hi : Int) (write : Bool) : List Lock :=
  let mk := fun (space tag a b : Nat) => [({ space := space, tag := tag, lo := a, hi := b, write := write, op := 0, tk := 0 } : Lock)]
  if hi < lo then []
  else if sp = 2 then
    let base := (w.nbPosY * w.nbW + w.nbPosX) * w.sw
    let a := max lo.toNat base
    let b := min hi.toNat (base + w.sw - 1)
    if a ≤ b then mk 1 w.uid (a - base) (b - base) else []
  else if sp = 1 then mk 1 w.uid lo.toNat hi.toNat
  else if sp = 3 then mk 3 w.ctx (dieOf w.core * 2 ^ 26 + lo.toNat) (dieOf w.core * 2 ^ 26 + hi.toNat)
  else mk 4 w.ctx lo.toNat hi.toNat

/-- Entries of a core's table. -/
def lockEntries : Nat := 64

/-- Free entries of the issuing core's table. -/
def Run.freeLocks (r : Run) : Nat := lockEntries - ((r.s.getCore r.w.core).map (fun k => k.locks.length)).getD 0

/-! Reading memory for a team where the bytes go to no register. -/

/-- TY of an engine's READ: single bytes (R67), as many as its mask has bits. -/
def tyByte : Nat := 6

/-- Asks for a 64-byte block of another package's page, whose bytes go to no register: `d` is `.vt 0` for vat instructions and command
blocks, `.bar q` for stream register `q`. -/
def Run.askBlock (r : Run) (d : Operand) (i scope : Nat) (l : Leaf) (va : Nat) : Run :=
  let r0 := r.drain (fun c => c.isAt va)
  if r0.halt ≠ .go then r0
  else
    match r0.bar i l.conf 0 va [l.home] with
    | some r1 => r1
    | none =>
      let q := r0.s.nextId
      let p := { blankPacket l.home r.w.ctx with
                   conf := l.conf, scope := scope, ty := tyByte, rid := ridOf r.w.core r.t.lane r.t.slot q, addr := va,
                   mask := byteMask 0 64 }
      let w : RemoteWait := { req := q, peer := l.home, threads := bit32 i, d := d, ty := tyByte, size := 1,
                              atomic := false, aop := 0, operand := 0, pay := [], acq := 0, va := va, conf := l.conf, ppc := r.pc,
                              parked := false }
      let s1 := { r0.s with nextId := q + 1 }
      { r0 with s := s1.send .read p, t := { r0.t with remote := r0.t.remote ++ [w] }, halt := .stall .remote }

/-- Reads 8-byte units of global memory as plain loads of thread `i` (R286). -/
def Run.loadUnits (r : Run) (i : Nat) (a : Int) : Nat → Run × List Byte
  | 0 => (r, [])
  | n + 1 =>
    match r.check i 4 a 8 8 .load with
    | .halt r1 => (r1, [])
    | .ok p =>
      let x : Run × List Byte := match p with
        | .remote l va =>
          match r.combined i va 8, tabGet (va / 64 * 64) r.t.fetched with
          | some bs, _ => (r, bs)
          | none, some bs => (r, (bs.drop (va % 64)).take 8)
          | none, none => (r.askBlock (.vt 0) i 0 l (va / 64 * 64), [])
        | _ => r.readAt i 4 a.toNat 8 p
      if x.1.halt ≠ .go then x
      else
        let y := x.1.loadUnits i (a + 8) n
        (y.1, x.2 ++ y.2)

/-- Reads the command block at an address (R282, R286): the header first, then the whole block where SIZE is usable. -/
def Run.readBlock (r : Run) (i a : Nat) : Run × List Byte :=
  let x := r.loadUnits i (a : Int) 1
  if x.1.halt ≠ .go then x
  else
    let n := fieldAt x.2 2 2
    let y := if n % 8 = 0 && 8 < n && n ≤ 512 then x.1.loadUnits i ((a : Int) + 8) (n / 8 - 1) else (x.1, [])
    if y.1.halt ≠ .go then y
    else ({ y.1 with t := { y.1.t with fetched := [] } }, x.2 ++ y.2)

/-! Creation and end of an operation. -/

/-- What an issue of an operation does first: a fence's release still to perform does so (R227, R231). -/
def Run.opReady (r0 : Run) (f : Run → Run) : Run :=
  let r := r0.settleRel
  if r.halt = .go then f r else r

/-- Tells the home of an object that an operation is linked to, where that is another package, that the link holds or has ended (R300). -/
def State.tellLink (on : Bool) (o : Op) (s : State) (b : BarRef) : State :=
  match b with
  | .core _ => s
  | .obj a =>
    match (s.getCtx o.ctx).bind (fun x => x.walk a) with
    | some l =>
      if l.home = 255 || l.home = s.pkg then s
      else s.owe .atomic { blankPacket l.home o.ctx with conf := l.conf, scope := 6, aop := aopBar, rid := ridOf o.core 0 0 o.id, addr := a,
                                                          mask := 0, payload := (BarEvent.link on (o.id % 2 ^ 32)).bytes }
    | none => s

/-- The barriers that an operation is linked to. -/
def Link.bars (l : Link) : List BarRef := (l.arr.toList ++ (l.wait.map Prod.fst).toList).eraseDups

/-- Tells the homes of all its objects. -/
def State.tellLinks (s : State) (o : Op) (on : Bool) : State := o.link.bars.foldl (State.tellLink on o) s

/-- Creates an operation on a token: its locks are registered, the pending link of the token is consumed, and the token's
former operation is forgotten (R247, R268, R286, R308). -/
def Run.newOp (r : Run) (k scope : Nat) (st : OpSt) (locks : List Lock) (body : OpBody) : Run :=
  let id := r.s.nextId
  let o : Op := { id := id, ctx := r.w.ctx, wg := r.w.uid, tix := r.t.tix, tk := k, core := r.w.core, st := st, scope := scope,
                  link := r.t.link k, ppc := r.pc, waits := [], got := [], unacked := [], keyWait := none, body := body }
  let old := r.t.token k
  let s1 : State := { r.s with nextId := id + 1, ops := r.s.ops.filter (fun (y : Op) => some y.id ≠ old) ++ [o] }
  let s2 := s1.modCore r.w.core (fun c => { c with locks := c.locks ++ locks.map (fun l => { l with op := id, tk := k }) })
  { r with s := if st.isBusy then s2.tellLinks o true else s2, t := { r.t with tokens := tabSet k id r.t.tokens, links := tabDel k r.t.links } }

/-- An operation's status changes from BUSY: its locks go at that instant (R237), and teams whose access met them are
released (R369). -/
def State.opLeave (s : State) (o : Op) (st : OpSt) : State :=
  let s1 := s.putOp { o with st := st }
  let s2 : State := { s1 with cores := s1.cores.map (fun k => { k with locks := k.locks.filter (fun l => l.op ≠ o.id) }) }
  (s2.releaseLock o.id).tellLinks o false

/-- An operation ends in a status that makes its linked arrival (R308). -/
def State.opEnd (s : State) (o : Op) (st : OpSt) : State := (s.opLeave o st).opArrive { o with st := st }

/-- An operation ends FAULTED (R240, R284). -/
def State.opFail (s : State) (o : Op) (f : FaultInfo) : State := (s.opLeave o .faulted).opFault o f

/-! Intervals (R284). -/

/-- The bounding interval of a pattern: base, (count, stride) pairs and element size. -/
def boundLo (base : Int) (dims : List (Nat × Int)) : Int :=
  base + (dims.map (fun d => min 0 (((d.1 : Int) - 1) * d.2))).foldl (· + ·) 0
def boundHi (base : Int) (dims : List (Nat × Int)) (esz : Nat) : Int :=
  base + (dims.map (fun d => max 0 (((d.1 : Int) - 1) * d.2))).foldl (· + ·) 0 + esz - 1

/-- The check of an interval at issue: BAD_ADDRESS 0 or 2. -/
def Run.interval (r : Run) (i sp : Nat) (lo hi : Int) : Option FaultInfo :=
  if hi < lo then none
  else if sp = 4 then
    (if lo < 0 ∨ hi ≥ 2 ^ 57 then some (mkFault clsAddress 2 ((if lo < 0 then lo else hi) % 2 ^ 64).toNat) else none)
  else if lo < 0 ∨ hi ≥ r.s.spaceSize (r.agent i) r.w sp then
    some (mkFault clsAddress 0 ((if lo < 0 then lo else hi) % 2 ^ 32).toNat)
  else none

/-! An engine's accesses (R15, R284, R420): by the view of its own core, unaligned where the kind allows it. -/

/-- How an engine's access goes. -/
inductive EngOut (α : Type) where
  | ok (s : State) (x : α)
  /-- it waits BUSY, perhaps having sent something -/
  | wait (s : State)
  | fault (f : FaultInfo)

/-- Whether packets to a list of packages can go now, for an engine (R383, R415, R423, R428). -/
def State.engineBar (s : State) (o : Op) (l : Leaf) (bytes va : Nat) (ds : List Nat) : EngOut Unit :=
  if ds.isEmpty then .ok s ()
  else if ((s.getCtx o.ctx).map Context.gangQuiet).getD false then .wait s
  else match s.barOf l.conf bytes ds with
    | (.unreachable, _) => .fault (mkFault clsLink 0 va)
    | (.key, d) => .wait { s.exhaust d with ops := s.ops.map (fun (y : Op) => if y.id = o.id then { y with keyWait := some d } else y) }
    | (.full, _) => .wait s
    | (.open_, _) => .ok s ()

/-- Reads one byte for an operation. A byte of another package's page comes from what the engine has fetched; a READ for
the rest of its block goes out where none is under way. -/
def State.engineByte (s : State) (o : Op) (sp : Nat) (addr : Int) : EngOut Byte :=
  match s.locate o.agent sp addr 1 1 .load with
  | .bad f => .fault f
  | .replay va _ => .wait (s.missAdd (dieOf o.core) o.ctx va)
  | .at_ (.remote l va) =>
    match tabGet va o.got with
    | some b => .ok s b
    | none =>
      if o.waits.any (fun y => y.2.1 ≤ va && va < y.2.1 + y.2.2) then .wait s
      else
        match s.engineBar o l 0 va [l.home] with
        | .fault f => .fault f
        | .wait s1 => .wait s1
        | .ok s1 _ =>
          let q := s1.nextId
          let n := 64 - va % 64
          let s2 := { s1 with nextId := q + 1 }
          let s3 := s2.send .read { blankPacket l.home o.ctx with
            conf := l.conf, ty := tyByte, rid := ridOf o.core 0 0 q, addr := va, mask := byteMask 0 n }
          .wait (s3.putOp { o with waits := o.waits ++ [(q, va, n)] })
  | .at_ p =>
    if s.badRead o.agent p 1 then .fault (mkFault clsMemUe 0 addr.toNat)
    else .ok (if sp = 4 then s.tlbFill o.ctx o.core addr.toNat else s) ((s.readPlace o.agent p 1).headD 0)

/-- Reads `n` bytes from an address. -/
def State.engineRead (s : State) (o : Op) (sp : Nat) (addr : Int) : Nat → EngOut (List Byte)
  | 0 => .ok s []
  | n + 1 =>
    match s.engineByte o sp addr with
    | .fault f => .fault f
    | .wait s1 => .wait s1
    | .ok s1 b =>
      match s1.engineRead o sp (addr + 1) n with
      | .ok s2 bs => .ok s2 (b :: bs)
      | .wait s2 => .wait s2
      | .fault f => .fault f

/-- Sends the WRITE of one element's bytes and keeps its acknowledgements outstanding for the operation. -/
def State.engineSend (s : State) (o : Op) (l : Leaf) (va : Nat) (bs : List Byte) : State :=
  let q := s.nextId
  let ds := l.dests s.pkg
  let s1 := ({ s with nextId := q + 1 } : State).sendWrites o.ctx l.conf o.scope 0 (ridOf o.core 0 0 q) va bs ds
  { s1 with ops := s1.ops.map (fun y => if y.id = o.id then { y with unacked := y.unacked ++ ackKeys q l.mir o.ppc va ds } else y) }

/-- Whether the bytes of an element can be written now: every page there and writable, every packet sendable. -/
def State.engineCanWrite (s : State) (o : Op) (sp : Nat) (addr : Int) (n : Nat) : EngOut Unit :=
  match n with
  | 0 => .ok s ()
  | n + 1 =>
    match s.locate o.agent sp addr 1 1 .weak with
    | .bad f => .fault f
    | .replay va _ => .wait (s.missAdd (dieOf o.core) o.ctx va)
    | .at_ (.migr _ _) => .wait s
    | .at_ (.remote l va) =>
      match s.engineBar o l 1 va (l.dests s.pkg) with
      | .ok _ _ => s.engineCanWrite o sp (addr + 1) n
      | x => x
    | .at_ (.phys _) =>
      match s.translate o.ctx o.core addr.toNat with
      | some l =>
        match s.engineBar o l 1 addr.toNat (l.dests s.pkg) with
        | .ok _ _ => s.engineCanWrite o sp (addr + 1) n
        | x => x
      | none => s.engineCanWrite o sp (addr + 1) n
    | .at_ _ => s.engineCanWrite o sp (addr + 1) n

/-- Writes bytes that `engineCanWrite` has passed, a byte at a time; the first MEM_UE of a partial merge is answered. -/
def State.enginePut (s : State) (o : Op) (sp : Nat) (addr : Int) : List Byte → State × Option FaultInfo
  | [] => (s, none)
  | b :: r =>
    match s.locate o.agent sp addr 1 1 .weak with
    | .at_ (.remote l va) => (s.engineSend o l va [b]).enginePut o sp (addr + 1) r
    | .at_ p =>
      let bad := s.badMerge o.agent p 1
      let s1 := s.writePlace o.agent p [b]
      let s2 := if sp = 4 then (s1.tlbFill o.ctx o.core addr.toNat).setDirty o.ctx addr.toNat else s1
      let s3 := match p, s2.translate o.ctx o.core addr.toNat with
        | .phys _, some l => if (l.dests s2.pkg).isEmpty then s2 else s2.engineSend o l addr.toNat [b]
        | _, _ => s2
      let x := s3.enginePut o sp (addr + 1) r
      (x.1, if bad then some (mkFault clsMemUe 0 addr.toNat) else x.2)
    | _ => s.enginePut o sp (addr + 1) r

/-- Whether a whole element lies on one plain place of this package: it is then written as one access (R295). -/
def State.engineWrite (s : State) (o : Op) (sp : Nat) (addr : Int) (bs : List Byte) : EngOut Unit :=
  match s.engineCanWrite o sp addr bs.length with
  | .fault f => .fault f
  | .wait s1 => .wait s1
  | .ok s0 _ =>
    let one := bs.length = 1 || bs.length = 2 || bs.length = 4 || bs.length = 8 || bs.length = 16
    match if one then s0.locate o.agent sp addr bs.length bs.length .weak else .replay 0 0 with
    | .at_ (.remote l va) => .ok (s0.engineSend o l va bs) ()
    | .at_ (.phys pa) =>
      if s0.badMerge o.agent (.phys pa) bs.length then .fault (mkFault clsMemUe 0 addr.toNat)
      else
        let s1 := ((s0.writePlace o.agent (.phys pa) bs).tlbFill o.ctx o.core addr.toNat).setDirty o.ctx addr.toNat
        match s1.translate o.ctx o.core addr.toNat with
        | some l => .ok (if (l.dests s1.pkg).isEmpty then s1 else s1.engineSend o l addr.toNat bs) ()
        | none => .ok s1 ()
    | .at_ p =>
      if s0.badMerge o.agent p bs.length then .fault (mkFault clsMemUe 0 addr.toNat)
      else .ok (s0.writePlace o.agent p bs) ()
    | _ =>
      let x := s0.enginePut o sp addr bs
      match x.2 with
      | some f => .fault f
      | none => .ok x.1 ()

end Sys2Proof.Machine
end

