-- ==== Sys2Proof/Machine/Firmware.lean ====
section
/-! DEFINITION. Memory of a context as firmware, the loader and the queue processor reach it: reads and writes that wait for
a page (R334, R342, R403), and reads of pages homed on another package (R419). -/
namespace Sys2Proof.Machine

/-- How an access by firmware goes: done, waiting for a page or a reply, or unusable. -/
inductive Fw (α : Type) where
  | ok (s : State) (x : α)
  | wait (s : State)
  | bad (s : State)

/-- Forgets the blocks read for an action that has ended. -/
def State.fwClear (s : State) (c : Nat) : State :=
  match s.getCtx c with
  | some x => s.putCtx { x with fetched := [] }
  | none => s

/-- Asks another package for the 64-byte block of an address. -/
def State.fwAsk (s : State) (c : Nat) (x : Context) (l : Leaf) (va : Nat) : State :=
  if x.asks.any (fun y => y.2 = va) || s.sendBar l.home l.conf 0 ≠ .open_ then s
  else
    let q := s.nextId
    let s1 : State := { s with nextId := q + 1 }
    let s2 := s1.send .read { blankPacket l.home c with
      conf := l.conf, scope := 6, ty := tyByte, rid := ridOf 0 0 0 q, addr := va, mask := byteMask 0 64 }
    s2.putCtx { x with asks := x.asks ++ [(q, va)] }

/-- Reads one byte. -/
def State.fwByte (s : State) (c va : Nat) : Fw Byte :=
  match s.getCtx c with
  | none => .bad s
  | some x =>
    match x.walk va with
    | none => .bad s
    | some l =>
      if !l.res || l.mig then .wait (s.missAdd 0 c va)
      else if l.home = 255 then .ok s (spGet 0 s.hostMem (l.frame + (va - l.va)))
      else if l.home = s.pkg then .ok s (spGet 0 s.dram (pa42 (l.frame + (va - l.va))))
      else
        match tabGet (va / 64 * 64) x.fetched with
        | some bs => .ok s (bs.getD (va % 64) 0)
        | none => .wait (s.fwAsk c x l (va / 64 * 64))

/-- Reads `n` bytes. -/
def State.fwRead (s : State) (c va : Nat) : Nat → Fw (List Byte)
  | 0 => .ok s []
  | n + 1 =>
    match s.fwByte c va with
    | .bad s1 => .bad s1
    | .wait s1 => .wait s1
    | .ok s1 b =>
      match s1.fwRead c (va + 1) n with
      | .ok s2 bs => .ok s2 (b :: bs)
      | .wait s2 => .wait s2
      | .bad s2 => .bad s2

/-- Writes bytes of one page, aligned to their number, as a release at `.sys`. An address that is misaligned, unmapped or
on a read-only page is unusable; a page that is ABSENT or MIGRATING is waited for. -/
def State.fwWrite (s : State) (c va : Nat) (bs : List Byte) : Fw Unit :=
  if va % bs.length ≠ 0 then .bad s
  else
    match s.putBar c va with
    | .never => .bad s
    | .wait => .wait (s.missAdd 0 c va)
    | .open_ l =>
      match (if l.home = 255 then .open_ else (s.barOf l.conf bs.length (l.dests s.pkg)).1 : SendBar) with
      | .open_ => .ok (s.pagePut c l va bs) ()
      | .unreachable => .bad s
      | _ => .wait s

/-- Every byte of an extent lies in a mapped page at a canonical address (R343 reason 8). -/
def Context.mapped (x : Context) : Nat → Nat → Nat → Bool
  | 0, _, _ => false
  | k + 1, va, n =>
    if n = 0 then true
    else if va + n > 2 ^ 57 then false
    else
      match x.walk va with
      | none => false
      | some l => if l.va + pageBytes l.sz ≥ va + n then true else x.mapped k (l.va + pageBytes l.sz) (va + n - (l.va + pageBytes l.sz))

end Sys2Proof.Machine
end

