-- ==== Sys2Proof/Machine/Press.lean ====
section
/-! DEFINITION. The press (R42 to R52, R244 to R274): formats, the loop nest, micro-tiles, the press instructions, and the steps
of the engine. -/
namespace Sys2Proof.Machine

open Legal (space)

/-! Formats (R49 to R51, R22). -/

def pfField (p : BitVec 32) (hi lo : Nat) : Nat := Legal.bits hi lo p.toNat
def pfAF (p : BitVec 32) : Nat := pfField p 3 0
def pfBF (p : BitVec 32) : Nat := pfField p 7 4
def pfCF (p : BitVec 32) : Nat := pfField p 9 8
def pfASF (p : BitVec 32) : Nat := pfField p 11 10
def pfBSF (p : BitVec 32) : Nat := pfField p 13 12
def pfBLK (p : BitVec 32) : Nat := pfField p 15 14
def pfLSEL (p : BitVec 32) : Nat := pfField p 17 16
def pfISAT (p : BitVec 32) : Bool := pfField p 18 18 = 1

/-- The bits of `PFMT` that are not RSV (R50). -/
def pfmtMask : BitVec 32 := 0x7FFFF

/-- Class of an element format (R49): FP32, FP64, F16, F8, F4, I8, I4; 7 for a reserved code. -/
def pfClass (c : Nat) : Nat :=
  if c = 0 then 0 else if c = 1 then 1 else if c ≤ 3 then 2 else if c ≤ 7 ∨ c = 11 then 3
  else if c = 8 then 4 else if c = 9 then 5 else if c = 10 then 6 else 7

/-- Scales allowed to an operand that is not LC8 (R51 item 3). -/
def scaleOk (c sf : Nat) : Bool :=
  if c = 4 ∨ c = 5 ∨ c = 8 then sf ≤ 1 else if c = 6 ∨ c = 7 ∨ c = 11 then sf = 1 else sf = 0

/-- R51 items 1 to 5. -/
def pfmtOk (p : BitVec 32) : Bool :=
  let cls := pfClass (pfAF p)
  cls ≠ 7 && pfClass (pfBF p) = cls && pfASF p ≠ 3 && pfBSF p ≠ 3 && pfBLK p ≠ 3 && pfLSEL p ≠ 3 &&
  pfCF p = (if cls = 1 then 1 else if cls = 5 ∨ cls = 6 then 2 else 0) &&
  (if pfLSEL p = 1 then pfAF p = 4 && (pfASF p = 1 || pfASF p = 2) else scaleOk (pfAF p) (pfASF p)) &&
  (if pfLSEL p = 2 then pfBF p = 4 && (pfBSF p = 1 || pfBSF p = 2) else scaleOk (pfBF p) (pfBSF p)) &&
  (pfLSEL p ≠ 0 || pfBLK p = 0)

/-- K-step of a format class (R22). -/
def kStep (cls : Nat) : Nat := if cls = 1 then 2 else if cls = 0 then 16 else if cls = 2 then 64 else if cls = 3 ∨ cls = 5 then 128 else 256

/-- An operand as a ring slot holds it (R249): format, scale format, LC8 block length where it is LC8. -/
structure SlotFmt where
  fmt : Nat
  sf : Nat
  lc8 : Option Nat
  deriving DecidableEq, Repr

def slotA (p : BitVec 32) : SlotFmt :=
  { fmt := pfAF p, sf := pfASF p, lc8 := if pfLSEL p = 1 then some (32 * 2 ^ pfBLK p) else none }
def slotB (p : BitVec 32) : SlotFmt :=
  { fmt := pfBF p, sf := pfBSF p, lc8 := if pfLSEL p = 2 then some (32 * 2 ^ pfBLK p) else none }

/-- Bits of an element of a press format. -/
def pfBits (c : Nat) : Nat :=
  if c = 1 then 64 else if c = 0 then 32 else if c ≤ 3 then 16 else if c = 6 ∨ c = 7 then 6 else if c = 8 ∨ c = 10 then 4 else 8

/-- RB of R249. -/
def SlotFmt.rowBytes (f : SlotFmt) : Nat := if f.lc8.isSome then 32 else kStep (pfClass f.fmt) * pfBits f.fmt / 8

/-- Scale bytes of a row (R249). -/
def SlotFmt.scaleBytes (f : SlotFmt) : Nat :=
  match f.lc8 with
  | some blk => 128 / blk
  | none => if f.sf = 0 then 0 else kStep (pfClass f.fmt) / 32

/-- Slot size S: padded to a multiple of 256. -/
def SlotFmt.slotBytes (f : SlotFmt) : Nat := (64 * (f.rowBytes + f.scaleBytes) + 255) / 256 * 256

/-- Conversion format code (R145) of a press element code (R49). -/
def pfKind (c : Nat) : FKind :=
  if c = 0 then .flt fmtF32 else if c = 1 then .flt fmtF64 else if c = 2 then .flt fmtF16 else if c = 3 then .flt fmtBF16
  else if c = 4 then .flt fmtE4M3 else if c = 5 then .flt fmtE5M2 else if c = 6 then .flt fmtE3M2 else if c = 7 then .flt fmtE2M3
  else if c = 8 then .flt fmtE2M1 else if c = 9 then .sint 8 else if c = 10 then .sint 4 else .mxi8

/-- The bits of element `k` of row `r` of a slot's bytes: an LC8 index decodes to its weight as an E4M3 byte (R39, R249). -/
def SlotFmt.elem (f : SlotFmt) (slot : List Byte) (r k : Nat) : Nat :=
  if f.lc8.isSome then lcWeight (fieldAt slot (r * f.rowBytes + 2 * (k / 8)) 2) (k % 8 + 1)
  else
    let b := r * f.rowBytes * 8 + k * pfBits f.fmt
    fieldAt slot (b / 8) (pfBits f.fmt / 8 + 2) / 2 ^ (b % 8) % 2 ^ pfBits f.fmt

/-- The scale that covers position `k` of row `r`, 1 where the operand has none. -/
def SlotFmt.scale (f : SlotFmt) (slot : List Byte) (r k : Nat) : FVal :=
  if f.scaleBytes = 0 then .fin false 1 0
  else
    let x := fieldAt slot (64 * f.rowBytes + r * f.scaleBytes + k / (f.lc8.getD 32)) 1
    kindVal (if f.sf = 1 then .e8m0 else .flt fmtE4M3) x

/-- The value of an element. -/
def SlotFmt.val (f : SlotFmt) (slot : List Byte) (r k : Nat) : FVal :=
  kindVal (if f.lc8.isSome then .flt fmtE4M3 else pfKind f.fmt) (f.elem slot r k)

/-! The vat (R261): words by tile × 4096 + row × 64 + column; an FP64 element takes two words of its tile pair. -/

def vatIdx (wide : Bool) (tile m n : Nat) : Nat := if wide then tile * 4096 + 2 * (m * 64 + n) else tile * 4096 + m * 64 + n

def Workgroup.vatGet (w : Workgroup) (wide : Bool) (tile m n : Nat) : Nat :=
  let i := vatIdx wide tile m n
  (spGet 0 w.vat i).toNat + if wide then 2 ^ 32 * (spGet 0 w.vat (i + 1)).toNat else 0

def Workgroup.vatSet (w : Workgroup) (wide : Bool) (tile m n x : Nat) : Workgroup :=
  let i := vatIdx wide tile m n
  if wide then { w with vat := spSet 0 (spSet 0 w.vat i (BitVec.ofNat 32 x)) (i + 1) (BitVec.ofNat 32 (x / 2 ^ 32)) }
  else { w with vat := spSet 0 w.vat i (BitVec.ofNat 32 x) }

/-! The nest (R250, R251). -/

def NestRow.count (r : NestRow) : Nat := (r.getD 0 0).toNat
def NestRow.sa (r : NestRow) : Int := (r.getD 1 0).toInt
def NestRow.sb (r : NestRow) : Int := (r.getD 2 0).toInt
def NestRow.sc (r : NestRow) : Int := (r.getD 3 0).toInt
def NestRow.ra (r : NestRow) : Bool := (r.getD 4 0).getLsbD 0
def NestRow.rb (r : NestRow) : Bool := (r.getD 4 0).getLsbD 1
/-- RSV bits of a row, FL bits 7:2 included. -/
def NestRow.rsvZero (r : NestRow) : Bool :=
  (r.getD 4 0).toNat < 4 && r.getD 5 0 = 0 && r.getD 6 0 = 0 && r.getD 7 0 = 0

/-- The digits of a step, row 0 first. -/
def stepDigits : List NestRow → Nat → List Nat
  | [], _ => []
  | r :: rest, s => s % r.count :: stepDigits rest (s / r.count)

/-- Σ digit × stride. -/
def affine (f : NestRow → Int) : List NestRow → List Nat → Int
  | r :: rs, i :: is => (i : Int) * f r + affine f rs is
  | _, _ => 0

/-- A step pops a ring when every row that reuses its operand stands at its last index. -/
def popsAt (reuse : NestRow → Bool) : List NestRow → List Nat → Bool
  | r :: rs, i :: is => (!reuse r || i + 1 = r.count) && popsAt reuse rs is
  | _, _ => true

def rowsTotal (rows : List NestRow) : Nat := (rows.map NestRow.count).foldl (· * ·) 1

/-- Extremes of an affine form over the nest (R253). -/
def affLo (f : NestRow → Int) (rows : List NestRow) : Int := boundLo 0 (rows.map (fun r => (r.count, f r)))
def affHi (f : NestRow → Int) (rows : List NestRow) : Int := boundHi 0 (rows.map (fun r => (r.count, f r))) 1

/-- Tiles of one accumulator element format: two for FP64. -/
def tileWidth (p : BitVec 32) : Nat := if pfCF p = 1 then 2 else 1

def PressBody.offA (b : PressBody) (s : Nat) : Int := affine NestRow.sa b.rows (stepDigits b.rows s)
def PressBody.offB (b : PressBody) (s : Nat) : Int := affine NestRow.sb b.rows (stepDigits b.rows s)
def PressBody.tile (b : PressBody) (s : Nat) : Nat :=
  ((b.cbase : Int) + tileWidth b.pfmt * affine NestRow.sc b.rows (stepDigits b.rows s)).toNat
def PressBody.popA (b : PressBody) (s : Nat) : Bool := popsAt NestRow.ra b.rows (stepDigits b.rows s)
def PressBody.popB (b : PressBody) (s : Nat) : Bool := popsAt NestRow.rb b.rows (stepDigits b.rows s)

/-! Rings (R255, R256). -/

def Workgroup.ring (w : Workgroup) (n : Nat) : Ring := w.rings.getD n { base := 0, size := 0, head := 0, tail := 0 }
def Ring.occ (r : Ring) : Nat := (r.tail + 2 * r.size - r.head) % (2 * r.size)

/-- The slot `o` places after the head at issue is present, `pops` slots of the operation having been popped. -/
def slotThere (r : Ring) (head pops sz : Nat) (o : Int) : Bool :=
  r.size ≠ 0 && o ≥ 0 &&
  (o.toNat + 1) * sz ≤ pops * sz + (r.tail + 2 * r.size - (head + pops * sz) % (2 * r.size)) % (2 * r.size)

/-- Scratchpad bytes of a ring from a count. -/
def ringBytes (w : Workgroup) (r : Ring) (count n : Nat) : List Byte :=
  (List.range n).map (fun i => spGet 0 w.scratch (r.base + (count + i) % r.size))

/-- Scratchpad units that a slot touches, for MEM_UE. -/
def ringBad (s : State) (w : Workgroup) (r : Ring) (count n : Nat) : Bool :=
  (List.range n).any (fun i => s.bad.contains (.scratch w.uid ((r.base + (count + i) % r.size) / 8)))

/-! Micro-tiles (R45 to R48, R248). -/

/-- One K-step into one accumulator element (R248). -/
def macElem (p : BitVec 32) (nbv : Nat) (a b : List Byte) (m n acc : Nat) : Nat × BitVec 6 :=
  let fa := slotA p
  let fb := slotB p
  let ks := kStep (pfClass (pfAF p))
  if pfCF p = 2 then
    sumInt (pfISAT p) acc ((List.range ks).map (fun k => sVal (pfBits fa.fmt) (fa.elem a m k) * sVal (pfBits fb.fmt) (fb.elem b n k)))
  else
    sumStep (if pfCF p = 1 then fmtF64 else fmtF32) nbv acc
      ((List.range ks).map (fun k => prodVal [fa.val a m k, fb.val b n k, fa.scale a m k, fb.scale b n k]))

/-- A micro-tile over elements 0 to `k` − 1 of a tile: the workgroup with its vat, and the flags. -/
def microtileGo (p : BitVec 32) (nbv : Nat) (a b : List Byte) (tile : Nat) : Nat → Workgroup × BitVec 6 → Workgroup × BitVec 6
  | 0, x => x
  | k + 1, x =>
    let y := microtileGo p nbv a b tile k x
    let wide := pfCF p = 1
    let z := macElem p nbv a b (k / 64) (k % 64) (y.1.vatGet wide tile (k / 64) (k % 64))
    (y.1.vatSet wide tile (k / 64) (k % 64) z.1, y.2 ||| z.2)

def microtile (p : BitVec 32) (nbv : Nat) (a b : List Byte) (tile : Nat) (w : Workgroup) : Workgroup × BitVec 6 :=
  microtileGo p nbv a b tile 4096 (w, 0)

/-- A vat row with bad check bits: 8-byte units of the workgroup's vat. -/
def vatBad (s : State) (w : Workgroup) (tile tiles : Nat) : Bool :=
  s.bad.any (fun u => match u with
    | .vat g k => g = w.uid && tile * 2048 ≤ k && k < (tile + tiles) * 2048
    | _ => false)

/-! The engine's state on a core. -/

def Op.press (o : Op) : Option PressBody :=
  match o.body with
  | .press b => some b
  | _ => none

/-- Press operations held on a core: issued and not ended (R244). -/
def State.pressHeld (s : State) (core : Nat) : List Op := s.ops.filter (fun o => o.core = core && o.press.isSome && o.st.isBusy)

/-- ACTIVE ones. -/
def State.pressActive (s : State) (core : Nat) : List Op := (s.pressHeld core).filter (fun o => o.st = .active)

/-- The ramp (R259): the least spacing from the previous start, the starts since the idle interval counted. -/
def rampSpacing (k : Nat) : Nat := if k ≤ 4 then 256 else if k ≤ 8 then 128 else 64

/-- A micro-tile may start on a core now (R244, R259). -/
def State.startPlace (s : State) (core : Nat) : Bool :=
  match s.getCore core with
  | none => false
  | some k =>
    match k.lastStart with
    | none => true
    | some t => s.cc ≥ t + 4096 || s.cc ≥ t + rampSpacing (k.rampStarts + 1)

/-- Records a start. -/
def Core.startAt (k : Core) (cc : Nat) : Core :=
  { k with lastStart := some cc,
           rampStarts := match k.lastStart with
             | none => 1
             | some t => if cc ≥ t + 4096 then 1 else k.rampStarts + 1 }

/-! `pressActivate` (R246). -/

/-- Every barrier phase linked to a queued operation is complete. -/
def State.linkDone (s : State) (o : Op) : Bool :=
  match o.link.wait with
  | none => true
  | some (.core n, ph) => (((s.getWg o.wg).bind (fun w => w.bars[n]?)).map (fun b => phaseDone b.phase.toNat ph)).getD true
  | some (.obj a, ph) =>
    match s.locate o.agent 4 a 64 64 .load with
    | .at_ (.remote _ va) => (tabGet va o.got).isSome
    | .at_ p => phaseDone (fieldAt (s.cohGet p 64) 16 4) ph
    | _ => false

/-- A link's object homed on another package has not been asked yet: its home answers once the phase is complete. -/
def State.linkAsk (s : State) (o : Op) : Option (Leaf × Nat × Nat) :=
  match o.link.wait with
  | some (.obj a, ph) =>
    match s.locate o.agent 4 a 64 64 .load with
    | .at_ (.remote l va) =>
      if (tabGet va o.got).isNone && o.waits.isEmpty && s.sendBar l.home l.conf 8 = .open_ then some (l, va, ph) else none
    | _ => none
  | _ => none

/-- A cut has reached the press for a workgroup: none of its operations becomes ACTIVE, issues or starts (R260). -/
def State.pressStopped (s : State) (u : Nat) : Bool := ((s.getWg u).map Workgroup.pressStop).getD true

/-- Operations are created with rising identities, so identity is issue order. -/
def State.canActivate (s : State) (o : Op) : Bool :=
  o.st = .queued && o.press.isSome && !s.pressStopped o.wg && (s.pressActive o.core).length < 4 && s.linkDone o &&
  (s.pressHeld o.core).all (fun x => !(x.wg = o.wg && x.tix = o.tix && x.id < o.id && x.st = .queued)) &&
  (s.pressHeld o.core).all (fun x => !(x.st = .queued && x.id < o.id && s.linkDone x &&
    (s.pressHeld o.core).all (fun y => !(y.wg = x.wg && y.tix = x.tix && y.id < x.id && y.st = .queued))))

/-- The acquire of a `.wait` link's release (R309). -/
def State.linkAcquire (s : State) (o : Op) : State :=
  match o.link.wait with
  | some (.obj _, _) => s.acquire o.core o.wg o.tix 6
  | some (.core _, _) => s.acquire o.core o.wg o.tix 2
  | none => s

/-- An ACTIVE operation issues its steps at once, up to 64 beyond the window base (R257, R258). -/
def PressBody.issueAhead (b : PressBody) : PressBody := { b with next := max b.next (min b.total (b.wbase + 64)) }

def execPressActivate (id : Nat) (s : State) : Host.Outcome State Fault Refusal :=
  match s.getOp id with
  | none => .next s
  | some o =>
    match o.press, s.linkAsk o with
    | some b, none =>
      .next (if s.canActivate o then
        (s.putOp { o with st := .active, body := .press b.issueAhead }).linkAcquire o else s)
    | _, some (l, va, ph) =>
      let q := s.nextId
      let s1 := { s with nextId := q + 1 }
      let s2 := s1.send .atomic { blankPacket l.home o.ctx with
        conf := l.conf, scope := 6, aop := aopBar, rid := ridOf o.core 0 0 q, addr := va, mask := 0,
        payload := (BarEvent.wait ph).bytes }
      .next (s2.putOp { o with waits := [(q, va, 0)] })
    | _, _ => .next s

/-! `microtileStart` (R257). -/

/-- Steps that have been issued and not retired, or are about to be: the window. -/
def PressBody.retired (b : PressBody) (st : Nat) : Bool := st < b.wbase || (st < b.wbase + 64 && b.doneBits.getLsbD (st - b.wbase))

def PressBody.isStarted (b : PressBody) (st : Nat) : Bool := b.started.any (fun x => x.step = st)

/-- No earlier step of the operation on the same tile is unretired. -/
def PressBody.earlierFree (b : PressBody) (st : Nat) : Bool :=
  (List.range (st - b.wbase)).all (fun i => b.retired (b.wbase + i) || b.tile (b.wbase + i) ≠ b.tile st)

/-- Some step not yet retired of an operation lies on one of `wd` tiles from a tile (R257 item 3): an FP64 tile is two (R261). -/
def PressBody.touches (b : PressBody) (tile wd : Nat) : Bool :=
  (List.range (b.total - b.wbase)).any (fun i => !b.retired (b.wbase + i) && b.tile (b.wbase + i) < tile + wd &&
    tile < b.tile (b.wbase + i) + tileWidth b.pfmt)

/-- The conditions 1 to 3 of R257 for a step within the window. -/
def State.stepReady (s : State) (o : Op) (b : PressBody) (st : Nat) : Bool :=
  match s.getWg o.wg with
  | none => false
  | some w =>
    b.wbase ≤ st && st < b.wbase + 64 && st < b.total && !b.retired st && !b.isStarted st &&
    slotThere (w.ring b.ringA) b.headA b.popsA (slotA b.pfmt).slotBytes (b.offA st) &&
    slotThere (w.ring b.ringB) b.headB b.popsB (slotB b.pfmt).slotBytes (b.offB st) &&
    b.earlierFree st &&
    (s.pressHeld o.core).all (fun x => !(x.wg = o.wg && x.tix = o.tix && x.id < o.id) ||
      (match x.press with
       | some y => !y.touches (b.tile st) (tileWidth b.pfmt)
       | none => true))

/-- The lowest-numbered step of an ACTIVE operation that may start (R244, R257). -/
def State.firstStep (s : State) (o : Op) : Option Nat :=
  match o.press with
  | none => none
  | some b =>
    if o.st = .active && !s.pressStopped o.wg then
      findBy (fun st => st < b.next && s.stepReady o b st) ((List.range 64).map (fun i => b.wbase + i)) else none

/-- The step that starts next on a core (R244): of the operation that follows, in issue order and in rotation, the one that started last, passing over
those with no startable step. -/
def State.nextStart (s : State) (k : Core) : Option (Nat × Nat) :=
  let ops := (s.pressActive k.id).filter (fun o => (s.firstStep o).isSome)
  let ids := ops.map Op.id
  let pick := match listMin (ids.filter (fun i => i > k.lastOp)) with
    | some i => some i
    | none => listMin ids
  pick.bind (fun i => (findBy (fun o => o.id = i) ops).bind (fun o => (s.firstStep o).map (fun st => (i, st))))

/-- A step starts on the array: the NBV in force is captured as it starts. R44 fixes it for a micro-tile that has issued, R248 as the step
starts; the model follows R248 (DESIGN CHOICE, log 128), which differs where a placement falls between the two. -/
def execMicrotileStart (id st : Nat) (s : State) : Host.Outcome State Fault Refusal :=
  match s.getOp id with
  | none => .next s
  | some o =>
    match o.press with
    | none => .next s
    | some b =>
      if s.startPlace o.core && (s.getCore o.core).bind (fun k => s.nextStart k) = some (id, st) then
        let b1 := { b with started := b.started ++ [{ step := st, nbv := s.nbvOn o.core o.ctx, at_ := s.cc }] }
        .next ((s.putOp { o with body := .press b1 }).modCore o.core (fun k => { k.startAt s.cc with lastOp := o.id }))
      else .next s

/-! `microtileRetire` (R248, R252, R258). -/

/-- WBASE passes retired steps, performing their pops: the body and the rings' heads advanced. -/
def passBase : Nat → PressBody → Workgroup → PressBody × Workgroup
  | 0, b, w => (b, w)
  | k + 1, b, w =>
    if b.doneBits.getLsbD 0 then
      let pop := fun (w : Workgroup) (n sz : Nat) =>
        let r := w.ring n
        { w with rings := setNth w.rings n { r with head := (r.head + sz) % (2 * r.size) } }
      let pa := b.popA b.wbase
      let pb := b.popB b.wbase
      let w1 := if pa then pop w b.ringA (slotA b.pfmt).slotBytes else w
      let w2 := if pb then pop w1 b.ringB (slotB b.pfmt).slotBytes else w1
      passBase k { b with wbase := b.wbase + 1, doneBits := b.doneBits >>> 1, popsA := b.popsA + if pa then 1 else 0,
                          popsB := b.popsB + if pb then 1 else 0 } w2
    else (b, w)

/-- The least time from start to retirement (R248). -/
def retireAfter : Nat := 80

/-- A started step that may retire: in start order among the steps on its tile. -/
def PressBody.canRetire (b : PressBody) (cc st : Nat) : Bool := b.started.any (fun x => x.step = st && x.at_ + retireAfter ≤ cc)

/-- The retirement of a step: the vat tile, the flags, the DONE bit, the base and its pops, and the operation's end. -/
def State.retire (s : State) (o : Op) (b : PressBody) (w : Workgroup) (x : Started) : State :=
  let ra := w.ring b.ringA
  let rb := w.ring b.ringB
  let na := (slotA b.pfmt).slotBytes
  let nb := (slotB b.pfmt).slotBytes
  let ca := b.headA + (b.offA x.step).toNat * na
  let cb := b.headB + (b.offB x.step).toNat * nb
  let tile := b.tile x.step
  let started := b.started.filter (fun y => y.step ≠ x.step)
  if ringBad s w ra ca na || ringBad s w rb cb nb || vatBad s w tile (tileWidth b.pfmt) then
    s.opFail { o with body := .press { b with started := started } } (mkFault clsMemUe 0 0)
  else
    let y := microtile b.pfmt x.nbv (ringBytes w ra ca na) (ringBytes w rb cb nb) tile w
    let b1 := { b with started := started, doneBits := b.doneBits ||| BitVec.ofNat 64 (2 ^ (x.step - b.wbase)) }
    let z := passBase 64 b1 y.1
    let s1 := (s.putWg z.2).modTeam o.wg o.tix (fun t => { t with prsFstat := t.prsFstat ||| y.2 })
    let o1 := { o with body := .press (if w.pressStop then z.1 else z.1.issueAhead) }
    if z.1.wbase = z.1.total then s1.opEnd o1 .done else s1.putOp o1

/-- The retirement of a step of an operation. -/
def State.opRetire (s : State) (id st : Nat) : State :=
  match s.getOp id with
  | none => s
  | some o =>
    match o.press, s.getWg o.wg with
    | some b, some w =>
      match findBy (fun x => x.step = st) b.started with
      | some x => if b.canRetire s.cc st then s.retire o b w x else s
      | none => s
    | _, _ => s

/-! The instructions (R264 to R274). The native forms act through the same definitions. -/

/-- `fmt` (R266). Within a translation no capture falls inside the shadow of R118. -/
def Run.setFmt (r : Run) (x : Nat) : Run := { r with t := { r.t with pfmt := BitVec.ofNat 32 x &&& pfmtMask, pfmtLater := [] } }

def execFmt (e : Enc) (s : State) : Host.Outcome State Fault Refusal :=
  issueKept e (fun r i => r.setFmt (r.read i e.a 0 32 0 false).2) s

/-- Row `k` of a nest configuration set. -/
def setRow (rows : List NestRow) (k : Nat) (row : NestRow) : List NestRow :=
  setNth (rows ++ List.replicate (6 - rows.length) (List.replicate 8 (0 : Word))) k row

/-- `nestw` of eight registers from s(N). -/
def Run.setNest (r : Run) (k n : Nat) (last : Bool) : Run :=
  let row := (List.range 8).map (fun j => r.t.sGet (n + j))
  { r with t := { r.t with nest := setRow r.t.nest k row, nrows := if last then k + 1 else r.t.nrows } }

/-- Nest record `k` of an object's nest records: its rows (R78). -/
def nestRecord : Nat → List Byte → Option (List NestRow)
  | k, bs =>
    let n := fieldAt bs 0 1
    match k with
    | 0 => if bs.isEmpty then none
           else some ((List.range n).map (fun j => (List.range 8).map (fun i => BitVec.ofNat 32 (fieldAt bs (8 + 32 * j + 4 * i) 4))))
    | k + 1 => if bs.isEmpty then none else nestRecord k (bs.drop (8 + 32 * n))

/-- The descriptor of the first kernel of an object whose range holds a `.text` offset (R267). -/
def kernelHolding (kernels : List Byte) (off : Nat) : Option (List Byte) :=
  findBy (fun d => fieldAt d 4 4 ≤ off && off < fieldAt d 4 4 + fieldAt d 8 4)
    ((List.range (kernels.length / 64)).map (fun i => (kernels.drop (64 * i)).take 64))

/-- The rows that `nestw.rec` at a PC names; none makes it a trap stub. -/
def State.nestRows (s : State) (c pc k : Nat) : Option (List NestRow) :=
  (s.objAt c pc).bind (fun o => (kernelHolding o.kernels (pc - o.text)).bind (fun d =>
    if k < fieldAt d 36 1 then nestRecord (fieldAt d 34 2 + k) o.nests else none))

def putRows : Nat → List NestRow → List NestRow → List NestRow
  | _, rows, [] => rows
  | k, rows, x :: rest => putRows (k + 1) (setRow rows k x) rest

def Run.nestRec (r : Run) (k : Nat) : Run :=
  match r.s.nestRows r.w.ctx r.pc k with
  | none => noRecord r
  | some rows => { r with t := { r.t with nest := putRows 0 r.t.nest rows, nrows := rows.length } }

def sNo : Operand → Nat
  | .s n => n.toNat
  | _ => 0

def execNestw (e : Enc) (s : State) : Host.Outcome State Fault Refusal :=
  issue e.g e.gn (lenOf e) (fun r =>
    if e.var = 2 then
      (if (r.s.nestRows r.w.ctx r.pc (immOf e.a).toNat).isNone then noRecord r
       else onceFirst (fun r _ => r.nestRec (immOf e.a).toNat) r)
    else onceFirst (fun r _ => r.setNest (immOf e.a).toNat (sNo e.b) (e.var = 1)) r) s

/-! `pgo` (R268). -/

/-- The rows a `pgo` captures. -/
def Team.capture (t : Team) : List NestRow := t.nest.take t.nrows

/-- R52, R253: the sub-code of ILLEGAL_FORMAT. -/
def pgoCheck (w : Workgroup) (p : BitVec 32) (rows : List NestRow) (a b c : Nat) : Option Nat :=
  let wd := tileWidth p
  let ra := w.ring a
  let rb := w.ring b
  if !pfmtOk p then some 0
  else if rows.isEmpty || rows.any (fun r => r.count = 0 || !r.rsvZero) || rowsTotal rows > 2 ^ 32 - 1 then some 1
  else if (c : Int) + wd * affLo NestRow.sc rows < 0 || (c : Int) + wd * affHi NestRow.sc rows + wd - 1 ≥ w.vt ||
    (wd = 2 && c % 2 = 1) then some 2
  else if ra.size = 0 || rb.size = 0 || a = b || ra.size % (slotA p).slotBytes ≠ 0 || rb.size % (slotB p).slotBytes ≠ 0 ||
    affLo NestRow.sa rows < 0 || affLo NestRow.sb rows < 0 then some 3
  else none

/-- `pgo`: the waits, the capture and its checks, the operation. -/
def Run.pgo (r0 : Run) (i k a b c : Nat) : Run := r0.opReady fun r =>
  if r.tokenBusy k then r.stall (.token k)
  else if (r.s.pressHeld r.w.core).length ≥ 16 || ((r.s.getCore r.w.core).bind Core.direct).isSome then r.stall .pressFull
  else if r.freeLocks < 2 then r.stall (.locks 2)
  else
    match pgoCheck r.w r.t.pfmt r.t.capture a b c with
    | some sub => r.fatal i clsFormat sub 0
    | none =>
      let ra := r.w.ring a
      let rb := r.w.ring b
      let lk := fun (x : Ring) => lockFor r.w 1 x.base (x.base + x.size - 1 : Nat) false
      r.newOp k 2 .queued (lk ra ++ lk rb)
        (.press { rows := r.t.capture, pfmt := r.t.pfmt, cbase := c, ringA := a, ringB := b, headA := ra.head, headB := rb.head,
                  popsA := 0, popsB := 0, next := 0, wbase := 0, doneBits := 0, started := [],
                  total := rowsTotal r.t.capture })

def ringNo : Operand → Nat
  | .ring n => n.toNat
  | _ => 0

def vtNo : Operand → Nat
  | .vt n => n.toNat
  | _ => 0

/-- `pgo` is a release at `.wg` (R263). -/
def execPgo (e : Enc) (s : State) : Host.Outcome State Fault Refusal :=
  issue e.g e.gn (lenOf e) (fun r => r.released 2 (onceFirst (fun r i =>
    r.pgo i (tkNo e.d) (ringNo e.a) (ringNo e.b) (vtNo e.c)))) s

def execPwait (e : Enc) (s : State) : Host.Outcome State Fault Refusal := issueKept e (waitUnit (tkNo e.a)) s

/-- Steps retired of a token's press operation (R270): zero where it names none. -/
def Run.stepsDone (r : Run) (k : Nat) : Nat :=
  match (r.tokenOp k).bind Op.press with
  | some b => b.wbase + (List.range 64).countP (fun i => b.doneBits.getLsbD i)
  | none => 0

def execPstat (e : Enc) (s : State) : Host.Outcome State Fault Refusal :=
  issueKept e (fun r _ =>
    if e.var = 0 then (r.writeEach e.d false (r.tokenCode (tkNo e.a))).tokenAcquire (tkNo e.a)
    else r.writeEach e.d false (r.stepsDone (tkNo e.a))) s

/-! `vclr`, `vld`, `vst`, `vacc` (R261, R262, R271, R272). -/

/-- R261: a range of tiles, or ILLEGAL_FORMAT 2. -/
def tilesOk (w : Workgroup) (wide : Bool) (tile n : Nat) : Bool := tile + n * (if wide then 2 else 1) ≤ w.vt && (!wide || tile % 2 = 0)

/-- Clears whole tiles; a cleared unit has no bad check bits left. -/
def Run.clearTiles (r : Run) (lo hi : Nat) : Run :=
  { r with w := { r.w with vat := r.w.vat.filter (fun x => !(lo * 4096 ≤ x.1 && x.1 < hi * 4096)) },
           s := { r.s with bad := r.s.bad.filter (fun u => match u with
             | .vat g k => !(g = r.w.uid && lo * 2048 ≤ k && k < hi * 2048)
             | _ => true) } }

def Run.vclr (r : Run) (i tile n : Nat) (wide : Bool) : Run :=
  if n = 0 ∨ n > (if wide then 64 else 128) then r.fatal i clsFormat 2 0
  else if !tilesOk r.w wide tile n then r.fatal i clsFormat 2 0
  else r.clearTiles tile (tile + n * (if wide then 2 else 1))

def execVclr (e : Enc) (s : State) : Host.Outcome State Fault Refusal :=
  issueKept e (fun r i => r.vclr i (vtNo e.d) (r.read i e.a 8 32 0 false).2 (e.var.toNat ≥ 4)) s

/-- Conversion format codes of a memory format and of the tile (R272): FP64 0, FP32 1, FP16 2, BF16 3; none for bits moved
unchanged. -/
def vatFmt (ty : Nat) (wide : Bool) : Option (Nat × Nat) :=
  if ty = 10 then some (2, 1) else if ty = 11 then some (3, 1) else if ty = 12 && wide then some (1, 0) else none

/-- The address of element (m, n) of a tile's rows. -/
def vatAddr (e : Enc) (base : Nat) (pitch : Int) (esz m n : Nat) : Int := formAddr e base (pitch * m + esz * n)

/-- What stands in the way of the elements in order, before any moves (R272): another package's block not yet here, or, with a locked-range
handler, a lock. -/
inductive VatBar where
  | none_ | lock (l : Lock) | block (leaf : Leaf) (va : Nat)
  deriving DecidableEq, Repr

/-- The first page, in the order of the elements, on which the team replays: every row is translated before any element moves, whatever another
row's address is found to be. -/
def vatPages (r : Run) (i : Nat) (e : Enc) (addr : Nat → Int) (esz : Nat) (acc : Acc) : List Nat → Option Nat
  | [] => none
  | k :: rest =>
    match r.sync.locate (r.agent i) (space e) (addr k) esz esz acc with
    | .replay va _ => some va
    | _ => vatPages r i e addr esz acc rest

/-- The first lock to wait for or block to fetch among the elements before the first address that is bad. -/
def vatScan (r : Run) (i : Nat) (e : Enc) (addr : Nat → Int) (esz : Nat) (acc : Acc) (lrh : Bool) : List Nat → VatBar
  | [] => .none_
  | k :: rest =>
    match r.sync.locate (r.agent i) (space e) (addr k) esz esz acc with
    | .at_ p =>
      match if lrh then r.sync.lockMet (r.agent i) (space e) p (addr k).toNat esz (acc ≠ .load) else none with
      | some (_, l) => .lock l
      | none =>
        match p with
        | .remote l va =>
          if acc = .load && (tabGet (va / 64 * 64) r.t.fetched).isNone then .block l (va / 64 * 64)
          else vatScan r i e addr esz acc lrh rest
        | _ => vatScan r i e addr esz acc lrh rest
    | _ => .none_

/-- One element's bytes for a load. -/
def Run.vatLoad (r : Run) (i : Nat) (e : Enc) (a : Int) (esz : Nat) (p : Place) : Run × Nat :=
  match p with
  | .remote _ va =>
    match r.combined i va esz with
    | some bs => (r, bytesNat bs)
    | none => (r, fieldAt ((tabGet (va / 64 * 64) r.t.fetched).getD []) (va % 64) esz)
  | _ => let x := seen (r.readAt i (space e) a.toNat esz p) i p
         (x.1, bytesNat (x.2.getD []))

/-- One element's store. -/
def Run.vatStore (r : Run) (i : Nat) (e : Enc) (a : Int) (p : Place) (bs : List Byte) : Run :=
  match p with
  | .remote _ va => r.combine i va bs
  | _ => r.writeAt i (space e) a.toNat p bs

/-- The three operations. -/
inductive VatOp where
  | load | store | acc
  deriving DecidableEq, Repr

/-- The value that `vacc` leaves in an element, with its flags. -/
def vaccVal (ty : Nat) (wide : Bool) (mode old mem : Nat) : Nat × BitVec 6 :=
  if ty = 4 then ((old + mem) % 2 ^ 32, 0)
  else
    let f := if wide then fmtF64 else fmtF32
    match vatFmt ty wide with
    | some (m, _) => addVal f mode (fVal f old) (kindVal (fkind m) mem)
    | none => fAdd f mode old mem

/-- One element (R272). -/
def vatElem (op : VatOp) (e : Enc) (i tile : Nat) (addr : Nat → Int) (esz : Nat) (r : Run) (k : Nat) : Run :=
  let wide := e.var.toNat ≥ 4
  let mode := e.var.toNat % 4
  let ty := e.ty.toNat
  match r.check i (space e) (addr k) esz esz (if op = .store then .weak else .load) with
  | .halt r1 => r1
  | .ok p =>
    if vatBad r.s r.w tile (if wide then 2 else 1) && op ≠ .load then r.fatal i clsMemUe 0 0
    else
      let old := r.w.vatGet wide tile (k / 64) (k % 64)
      match op with
      | .store =>
        let x := match vatFmt ty wide with
          | some (m, t) => convert m t mode old
          | none => (old, 0)
        (r.vatStore i e (addr k) p (natBytes esz x.1)).flags x.2
      | .load =>
        let x := r.vatLoad i e (addr k) esz p
        let v := match vatFmt ty wide with
          | some (m, t) => (convert t m 0 x.2).1
          | none => x.2
        { x.1 with w := x.1.w.vatSet wide tile (k / 64) (k % 64) v }
      | .acc =>
        let x := r.vatLoad i e (addr k) esz p
        let y := vaccVal ty wide mode old x.2
        { x.1 with w := x.1.w.vatSet wide tile (k / 64) (k % 64) y.1 }.flags y.2

/-- The elements in order, as far as they go. -/
def vatGo (f : Run → Nat → Run) : List Nat → Run → Run
  | [], r => r
  | k :: rest, r =>
    let r1 := f r k
    if r1.halt = .go then vatGo f rest r1 else r1

def vatUnit (op : VatOp) (e : Enc) (r : Run) (i : Nat) : Run :=
  let tile := vtNo e.d
  let esz := accessBytes e.ty.toNat
  let base := r.base i e
  let pitch := sVal 32 (r.read i e.b 4 32 0 false).2
  let addr := fun (k : Nat) => vatAddr e base pitch esz (k / 64) (k % 64)
  let lrh := ((r.s.getCtx r.w.ctx).map Context.lrh).getD false
  if !tilesOk r.w (e.var.toNat ≥ 4) tile 1 then r.fatal i clsFormat 2 0
  else
    match vatPages r i e addr esz (if op = .store then .weak else .load) (List.range 4096) with
    | some va => r.replayAt va
    | none =>
    match vatScan r i e addr esz (if op = .store then .weak else .load) lrh (List.range 4096) with
    | .lock l => { r with halt := .replay (.lock l.op) }
    | .block l va => r.askBlock (.vt 0) i (actScope e) l va
    | .none_ =>
      let r1 := vatGo (vatElem op e i tile addr esz) (List.range 4096) r
      match r1.halt with
      | .stall _ => r1
      | _ => { r1 with t := { r1.t with fetched := [] } }

def execVld (e : Enc) (s : State) : Host.Outcome State Fault Refusal := issueKept e (vatUnit .load e) s
def execVst (e : Enc) (s : State) : Host.Outcome State Fault Refusal :=
  issueKept e (fun r i => r.opReady (fun r => (vatUnit .store e r i).mayRoll)) s
def execVacc (e : Enc) (s : State) : Host.Outcome State Fault Refusal := issueKept e (vatUnit .acc e) s

/-! `ringinit`, `ringstat` (R273, R274). -/

/-- A BUSY operation of the workgroup names a ring. -/
def Op.namesRing (o : Op) (n : Nat) : Bool :=
  o.st.isBusy && (match o.body with
    | .press b => b.ringA = n || b.ringB = n
    | .copy b => b.kind = 3 && fieldAt b.block 9 1 = n
    | .rpart _ => false)

def Run.ringinit (r : Run) (i n base size : Nat) : Run :=
  if r.s.ops.any (fun o => o.wg = r.w.uid && o.namesRing n) then r.stall (.ringIdle n)
  else if base % 256 ≠ 0 ∨ size = 0 ∨ size % 256 ≠ 0 ∨ base + size > r.w.sw then r.fatal i clsFormat 3 0
  else { r with w := { r.w with rings := setNth r.w.rings n { base := base, size := size, head := 0, tail := 0 } } }

def execRinginit (e : Enc) (s : State) : Host.Outcome State Fault Refusal :=
  issueKept e (fun r i => r.ringinit i (ringNo e.d) (r.read i e.a 8 32 0 false).2 (r.read i e.b 8 32 0 false).2) s

def Ring.stat (x : Ring) (v : Nat) : Nat :=
  if v = 0 then x.head else if v = 1 then x.tail else if v = 2 then x.size - x.occ else x.size

def execRingstat (e : Enc) (s : State) : Host.Outcome State Fault Refusal :=
  issueKept e (fun r _ => r.writeEach e.d false ((r.w.ring (ringNo e.a)).stat e.var.toNat)) s

end Sys2Proof.Machine
end

