-- ==== Sys2Proof/Machine/Copy.lean ====
section
/-! DEFINITION. The racker (R279 to R296): command blocks and their checks, the copy instructions, and the steps of a copy. -/
namespace Sys2Proof.Machine

/-! Command blocks (R282, R283). -/

/-- Version-1 size of a kind. -/
def blockSize (kind : Nat) : Nat :=
  if kind = 1 then 192 else if kind = 2 then 72 else if kind = 3 then 40 else if kind = 4 then 88 else if kind = 5 then 80 else 96

/-- RSV ranges of a kind's body, as (offset, size); the header's is 5 to 7. -/
def blockRsv (kind : Nat) : List (Nat × Nat) :=
  if kind = 1 then [(13, 3)] else if kind = 2 then [(11, 5), (52, 4)] else if kind = 3 then [(10, 6)]
  else if kind = 4 then [(11, 5)] else if kind = 5 then [(12, 4)] else [(13, 3), (72, 24)]

/-- A space code of a block: 1 to 4. -/
def isSpace (x : Nat) : Bool := 1 ≤ x && x ≤ 4

/-- Sizes and strides of `cpyt`. -/
def cpytDim (b : List Byte) (d : Nat) : Nat := fieldAt b (32 + 4 * d) 4
def cpytS (b : List Byte) (d : Nat) : Int := signedAt b (64 + 8 * d) 8
def cpytD (b : List Byte) (d : Nat) : Int := signedAt b (128 + 8 * d) 8
def cpytTotal (b : List Byte) : Nat := ((List.range 8).map (cpytDim b)).foldl (· * ·) 1

/-- Element size in bytes of `rerot`'s EFMT. -/
def rotBytes (b : List Byte) : Nat := if fieldAt b 10 1 = 0 then 4 else 2

/-- Reason 5: the limits of a kind's body and the alignments of R283. -/
def bodyOk (kind : Nat) (b : List Byte) : Bool :=
  let f := fun (o n : Nat) => fieldAt b o n
  if kind = 1 then
    let e := 2 ^ f 9 1
    let stream := f 11 1 = 15
    1 ≤ f 8 1 && f 8 1 ≤ 8 && f 9 1 ≤ 4 && isSpace (f 10 1) && (isSpace (f 11 1) || stream) &&
    (if stream then f 12 1 ≤ 15 else f 12 1 = 0) &&
    (List.range 8).all (fun d => cpytDim b d ≠ 0 && (d < f 8 1 || (cpytDim b d = 1 && cpytS b d = 0 && cpytD b d = 0)) &&
      cpytS b d % e = 0 && cpytD b d % e = 0 && (!stream || cpytD b d = 0)) &&
    cpytTotal b ≤ 2 ^ 48 && f 16 8 % e = 0 && f 24 8 % e = 0 && (!stream || f 24 8 = 0)
  else if kind = 2 then
    isSpace (f 8 1) && isSpace (f 9 1) && isSpace (f 10 1) && 1 ≤ f 32 4 && 1 ≤ f 36 4 && f 36 4 ≤ 2 ^ 20 && f 40 8 % 4 = 0 &&
    1 ≤ f 48 4
  else if kind = 3 then isSpace (f 8 1) && f 9 1 ≤ 15 && f 24 4 ≠ 0 && f 24 4 % 256 = 0 && 1 ≤ f 28 4
  else if kind = 4 then
    let ins := f 8 1 = 0
    f 8 1 ≤ 1 && isSpace (f 9 1) && (if ins then isSpace (f 10 1) else f 10 1 = 0) && f 32 8 ≥ f 68 4 &&
    (if ins then f 56 8 ≥ f 68 4 else zeroAt b 40 24) &&
    1 ≤ f 64 4 && f 64 4 ≤ 1024 && 1 ≤ f 68 4 && f 68 4 ≤ 2 ^ 20 && f 76 4 ≥ f 72 4 && 1 ≤ f 84 4 && f 84 4 ≤ 65535
  else if kind = 5 then
    let e := rotBytes b
    isSpace (f 8 1) && isSpace (f 9 1) && (f 10 1 = 0 || f 10 1 = 2 || f 10 1 = 3) && f 11 1 ≤ 1 &&
    f 16 8 % e = 0 && f 24 8 % e = 0 && f 32 8 % e = 0 && f 40 8 % 4 = 0 && 1 ≤ f 48 4 && f 48 4 ≤ 1024 && 1 ≤ f 56 4 &&
    f 60 4 % e = 0 && f 64 4 % 2 = 0 && 2 ≤ f 64 4 && f 64 4 ≤ 4096
  else
    (f 4 1 = 6 || f 4 1 = 7) && f 8 1 ≤ 1 && f 9 1 ≤ 1 && (f 10 1 = 2 || f 10 1 = 3) && 1 ≤ f 11 1 && f 11 1 ≤ 21 &&
    1 ≤ f 12 1 && f 12 1 ≤ 16 && 8 ≤ f 16 4 && f 16 4 ≤ 4096 && f 16 4 % 8 = 0 && f 20 4 % 4 = 0 &&
    f 20 4 + 4 * f 10 1 ≤ f 16 4 && (f 24 4 = 0xFFFFFFFF || (f 24 4 % 4 = 0 && f 24 4 + 4 ≤ f 16 4)) &&
    f 32 8 % 8 = 0 && f 48 8 % 8 = 0 && f 56 8 % 8 = 0 && f 64 8 % 8 = 0

/-- Checks 1 to 5 of R283, against the instruction's kind. -/
def headReason (kind : Nat) (b : List Byte) : Nat :=
  let n := fieldAt b 2 2
  if fieldAt b 1 1 = 0 then 1
  else if n % 8 ≠ 0 ∨ n < blockSize kind ∨ n > 512 then 2
  else if !(zeroAt b 5 3 && (blockRsv kind).all (fun r => zeroAt b r.1 r.2) && zeroAt b (blockSize kind) (n - blockSize kind)) then 3
  else if fieldAt b 0 1 ≠ kind then 4
  else if fieldAt b 4 1 > 7 || !bodyOk kind b then 5
  else 0

/-! Intervals (R284, R295). -/

/-- A range that a copy registers: space, bounding interval, write-locked. -/
structure Rng where
  sp : Nat
  lo : Int
  hi : Int
  write : Bool
  deriving DecidableEq, Repr

def rng (sp : Nat) (base : Nat) (dims : List (Nat × Int)) (esz : Nat) (write : Bool) : Rng :=
  { sp := sp, lo := boundLo base dims, hi := boundHi base dims esz, write := write }

/-- The ranges of a kind, as R295 lists them: read-locked, then write-locked. Of the pitches the signed ones are those that R288 to R292 and R296
call so. -/
def rangesOf (w : Workgroup) (kind : Nat) (b : List Byte) : List Rng :=
  let f := fun (o n : Nat) => fieldAt b o n
  let sg := fun (o : Nat) => signedAt b o 8
  if kind = 1 then
    let ds := fun (g : Nat → Int) => (List.range 8).map (fun d => (cpytDim b d, g d))
    [rng (f 10 1) (f 16 8) (ds (cpytS b)) (2 ^ f 9 1) false] ++
    if f 11 1 = 15 then [] else [rng (f 11 1) (f 24 8) (ds (cpytD b)) (2 ^ f 9 1) true]
  else if kind = 2 then
    [rng (f 8 1) (f 40 8) [] (4 * f 48 4) false, rng (f 9 1) (f 16 8) [(f 32 4, sg 24)] (f 36 4) false,
     rng (f 10 1) (f 56 8) [(f 48 4, sg 64)] (f 36 4) true]
  else if kind = 3 then
    let g := w.ring (f 9 1)
    [rng (f 8 1) (f 16 8) [(f 28 4, sg 32)] (f 24 4) false, rng 1 g.base [] g.size true]
  else if kind = 4 then
    (if f 8 1 = 0 then [rng (f 10 1) (f 40 8) [(f 64 4, sg 48), (f 84 4, f 56 8)] (f 68 4) false] else []) ++
    [rng (f 9 1) (f 16 8) [(f 64 4, sg 24), (f 76 4, f 32 8)] (f 68 4) true]
  else
    let x := rng (f 8 1) 0 [(f 48 4, sg 24), (f 56 4, f 32 8)] (f 64 4 * rotBytes b) true
    let base : Int := (f 16 8 : Int) + f 52 4 * f 32 8 + f 60 4
    [rng (f 9 1) (f 40 8) [] (f 76 4 * 4 * f 64 4) false, { x with lo := x.lo + base, hi := x.hi + base }]

/-- Two intervals share a byte (R291): within a space, or a `.core` and a `.nbh` one through the window of R197. -/
def overlap (w : Workgroup) (a b : Rng) : Bool :=
  let base : Int := (w.nbPosY * w.nbW + w.nbPosX) * w.sw
  let sh := fun (x : Rng) => if x.sp = 1 then base else 0
  let same := a.sp = b.sp || (a.sp = 1 && b.sp = 2) || (a.sp = 2 && b.sp = 1)
  let da := if a.sp = b.sp then 0 else sh a
  let db := if a.sp = b.sp then 0 else sh b
  same && a.lo + da ≤ b.hi + db && b.lo + db ≤ a.hi + da

/-- Checks 6 to 8 of R283. -/
def bodyReason (w : Workgroup) (kind : Nat) (b : List Byte) : Nat :=
  let f := fun (o n : Nat) => fieldAt b o n
  if kind = 4 then
    if f 8 1 = 0 then
      (if f 80 4 > f 72 4 || f 72 4 + f 84 4 > f 76 4 then 6
       else match rangesOf w 4 b with
         | [src, cache] => if overlap w src cache then 6 else 0
         | _ => 0)
    else if f 80 4 + f 84 4 > f 72 4 then 6 else 0
  else if kind = 5 then
    let q := signedAt b 68 4 + f 72 4
    if q < 0 ∨ q ≥ f 76 4 then 7 else 0
  else if kind = 3 then
    let g := w.ring (f 9 1)
    if g.size = 0 ∨ f 24 4 * f 28 4 > g.size ∨ g.size % f 24 4 ≠ 0 then 8 else 0
  else 0

/-- Elements of a copy: bytes of `cpy`, elements of `cpyt`, rows, slots, pairs. -/
def copyTotal (kind : Nat) (b : List Byte) : Nat :=
  let f := fun (o n : Nat) => fieldAt b o n
  if kind = 1 then cpytTotal b
  else if kind = 2 then f 48 4
  else if kind = 3 then f 28 4
  else if kind = 4 then (if f 8 1 = 0 then f 64 4 * (f 72 4 - f 80 4 + f 84 4) else f 64 4 * (f 72 4 - f 80 4 - f 84 4))
  else f 48 4 * f 56 4 * (f 64 4 / 2)

/-- Space of a copy's destination, for the narrowing of its scope (R192). -/
def copyDest (kind : Nat) (b : List Byte) : Nat :=
  if kind = 1 then fieldAt b 11 1 else if kind = 2 then fieldAt b 10 1 else if kind = 3 then 1
  else if kind = 4 then fieldAt b 9 1 else if kind = 5 then fieldAt b 8 1 else 4

/-! Issue (R280, R286, R308). -/

/-- Operations of the racker that are BUSY on a core. -/
def State.rackerHeld (s : State) (core : Nat) : Nat := s.ops.countP (fun o => o.core = core && o.press.isNone && o.st.isBusy)

/-- What an issue waits for before it reads anything: its link's phase, its token, a place in the racker, lock entries. -/
def Run.copyWaits (r : Run) (i k locks : Nat) : Run :=
  let r0 := match (r.t.link k).wait with
    | some (b, ph) => r.barWait i b ph
    | none => r
  if r0.halt ≠ .go then r0
  else if r0.tokenBusy k then r0.stall (.token k)
  else if r0.s.rackerHeld r.w.core ≥ 64 then r0.stall .rackerFull
  else if r0.freeLocks < locks then r0.stall (.locks locks)
  else r0

/-- The locks of a copy's ranges. -/
def Run.locksOf (r : Run) (l : List Rng) : List Lock := l.flatMap (fun x => lockFor r.w x.sp x.lo x.hi x.write)

/-- The first interval that fails its check. -/
def Run.badInterval (r : Run) (i : Nat) : List Rng → Option FaultInfo
  | [] => none
  | x :: rest => match r.interval i x.sp x.lo x.hi with
    | some f => some f
    | none => r.badInterval i rest

/-- Makes the arrival of an operation created in a final state (R308). -/
def Run.arriveNow (r : Run) (k : Nat) : Run :=
  match r.tokenOp k with
  | some o => r.load (r.sync.opArrive o)
  | none => r

/-- A copy created in a final state: REJECTED with its reason, or DONE. -/
def Run.newEnded (r : Run) (k : Nat) (st : OpSt) (kind why scope : Nat) : Run :=
  (r.newOp k scope st [] (.copy { kind := kind, block := [], dst := 0, src := 0, len := 0, idx := 0, total := 0, bytes := 0,
                                  flags := 0, why := why })).arriveNow k

/-- `cpy` (R287). -/
def Run.cpy (r : Run) (i k dst src len scope : Nat) : Run :=
  let r0 := r.copyWaits i k (if len = 0 then 0 else 2)
  if r0.halt ≠ .go then r0
  else if len = 0 then r0.newEnded k .done 0 0 scope
  else
    let rs := [rng 4 src [] len false, rng 4 dst [] len true]
    match r0.badInterval i rs with
    | some f => r0.fatalAt i f
    | none =>
      r0.newOp k scope .busy (r0.locksOf rs)
        (.copy { kind := 0, block := [], dst := dst, src := src, len := len, idx := 0, total := len, bytes := 0, flags := 0, why := 0 })

/-- Room of a ring for another push (R290). -/
def State.ringFree (s : State) (w : Workgroup) (n : Nat) : Nat :=
  let g := w.ring n
  g.size - g.occ - ((s.ops.filter (fun o => o.wg = w.uid && o.st.isBusy)).map (fun o => match o.body with
    | .copy b => if b.kind = 3 && fieldAt b.block 9 1 = n then (b.total - b.idx) * fieldAt b.block 24 4 else 0
    | _ => 0)).foldl (· + ·) 0

/-- A stream register that a copy cannot take now (R289). -/
def Run.streamTaken (r : Run) (q : Nat) : Bool := r.copyHolds q || ((r.t.stream q).bound && (r.t.stream q).copy.isNone)

/-- The fewest ranges that a block of a kind lists (R295). -/
def leastRanges (kind : Nat) : Nat := if kind = 2 then 3 else if kind = 1 ∨ kind = 4 then 1 else 2

/-- The copy instructions with a command block (R286): the entries of the ranges that the block alone tells are waited for once it is read. -/
def Run.blockCopy (r : Run) (i k a kind : Nat) : Run :=
  let r0 := r.copyWaits i k (leastRanges kind)
  if r0.halt ≠ .go then r0
  else
    let x := r0.readBlock i a
    let r1 := x.1
    let b := x.2
    if r1.halt ≠ .go then r1
    else
      let why := if headReason kind b ≠ 0 then headReason kind b else bodyReason r1.w kind b
      let scope := min (fieldAt b 4 1) (widest (copyDest kind b))
      if why ≠ 0 then r1.newEnded k .rejected kind why 0
      else
        let rs := rangesOf r1.w kind b
        if r1.freeLocks < rs.length then r1.stall (.locks rs.length)
        else
        match r1.badInterval i rs with
        | some f => r1.fatalAt i f
        | none =>
          let q := fieldAt b 12 1
          let stream := kind = 1 && fieldAt b 11 1 = 15
          if stream && r1.streamTaken q then r1.stall (.streamBusy q)
          else if kind = 3 && r1.s.ringFree r1.w (fieldAt b 9 1) < fieldAt b 24 4 * fieldAt b 28 4 then
            r1.stall (.ringRoom (fieldAt b 9 1) (fieldAt b 24 4 * fieldAt b 28 4))
          else
            let r2 := r1.newOp k scope .busy (r1.locksOf rs)
              (.copy { kind := kind, block := b, dst := 0, src := 0, len := 0, idx := 0, total := copyTotal kind b, bytes := 0,
                       flags := 0, why := 0 })
            if stream then
              { r2 with t := r2.t.setStream q { bound := true, base := 0, pos := 0, buf := [], copy := r2.t.token k,
                                                total := cpytTotal b, write := false, esz := fieldAt b 9 1 } }
            else r2

/-- A copy's issue is a release at its declared scope (R231); a block's scope is not known before it is read. -/
def copyIssue (scope : Nat) (f : Run → Nat → Run) (r : Run) : Run :=
  r.released scope (fun r => onceFirst (fun r i => r.opReady (fun r => f { r with s := r.s.release r.w.core r.w.ctx scope } i)) r)

def execCpy (e : Enc) (s : State) : Host.Outcome State Fault Refusal :=
  issue e.g e.gn (lenOf e) (copyIssue e.var.toNat (fun r i =>
    r.cpy i (tkNo e.d) (r.read i e.a 1 64 0 true).2 (r.read i e.b 1 64 0 true).2 (r.read i e.c 8 32 0 false).2 e.var.toNat)) s

/-- Issues a copy with a command block. Its SCOPE is peeked at for the release; the checks read the block properly. -/
def Run.peekScope (r : Run) (i a : Nat) : Nat :=
  match r.sync.locate (r.agent i) 4 a 8 8 .load with
  | .at_ (.remote _ _) => 6
  | .at_ p => min 7 (fieldAt (r.sync.readPlace (r.agent i) p 8) 4 1)
  | _ => 0

def blockIssue (kind : Nat) (e : Enc) (r : Run) : Run :=
  match r.parts with
  | [] => r
  | i :: _ => copyIssue (r.peekScope i (r.read i e.a 1 64 0 true).2)
      (fun r i => r.blockCopy i (tkNo e.d) (r.read i e.a 1 64 0 true).2 kind) r

def execCpyt (e : Enc) (s : State) : Host.Outcome State Fault Refusal := issue e.g e.gn (lenOf e) (blockIssue 1 e) s
def execCpyg (e : Enc) (s : State) : Host.Outcome State Fault Refusal := issue e.g e.gn (lenOf e) (blockIssue 2 e) s
def execRingpush (e : Enc) (s : State) : Host.Outcome State Fault Refusal := issue e.g e.gn (lenOf e) (blockIssue 3 e) s
def execKvpatch (e : Enc) (s : State) : Host.Outcome State Fault Refusal := issue e.g e.gn (lenOf e) (blockIssue 4 e) s
def execRerot (e : Enc) (s : State) : Host.Outcome State Fault Refusal := issue e.g e.gn (lenOf e) (blockIssue 5 e) s

/-! `cwait`, `cstat` (R293, R294). -/

def execCwait (e : Enc) (s : State) : Host.Outcome State Fault Refusal := issueKept e (waitUnit (tkNo e.a)) s

/-- The values of `cstat`. -/
def Run.cstat (r : Run) (k v : Nat) : Nat :=
  if v = 0 then r.tokenCode k
  else match (r.tokenOp k).map Op.body with
    | some (.copy b) => if v = 1 then min b.bytes (2 ^ 32 - 1) else if v = 2 then b.why else b.flags.toNat
    | some (.rpart b) => if v = 1 then min b.recv (2 ^ 32 - 1) else if v = 2 then b.why else 0
    | _ => 0

def execCstat (e : Enc) (s : State) : Host.Outcome State Fault Refusal :=
  issueKept e (fun r _ =>
    let r1 := r.writeEach e.d false (r.cstat (tkNo e.a) e.var.toNat)
    if e.var = 0 then r1.tokenAcquire (tkNo e.a) else r1) s

/-! The steps of a copy (R287 to R292). -/

/-- Moves the bytes of one element. -/
def State.moveElem (s : State) (o : Op) (sp : Nat) (src : Int) (dp : Nat) (dst : Int) (n : Nat) : EngOut Unit :=
  match s.engineRead o sp src n with
  | .fault f => .fault f
  | .wait s1 => .wait s1
  | .ok s1 bs => s1.engineWrite o dp dst bs

/-- The digits of an element number in mixed radix DIMS (R288). -/
def cpytOff (b : List Byte) (g : Nat → Int) : Nat → Nat → Nat → Int
  | 0, _, _ => 0
  | k + 1, d, n => ((n % cpytDim b d : Nat) : Int) * g d + cpytOff b g k (d + 1) (n / cpytDim b d)

/-- Element `n` of a `cpyt` to a stream: it arrives in the team's register (R289). -/
def State.streamElem (s : State) (o : Op) (b : List Byte) (n : Nat) : EngOut Unit :=
  match s.engineRead o (fieldAt b 10 1) (fieldAt b 16 8 + cpytOff b (cpytS b) 8 0 n) (2 ^ fieldAt b 9 1) with
  | .fault f => .fault f
  | .wait s1 => .wait s1
  | .ok s1 bs =>
    .ok (s1.modTeam o.wg o.tix (fun t =>
      let q := t.stream (fieldAt b 12 1)
      t.setStream (fieldAt b 12 1) { q with buf := q.buf ++ [{ val := bytesNat bs, fault := none }] })) ()

/-- Row `n` of a `cpyg` (R296). -/
def State.gatherRow (s : State) (o : Op) (b : List Byte) (n : Nat) : EngOut Unit :=
  match s.engineRead o (fieldAt b 8 1) (fieldAt b 40 8 + 4 * n) 4 with
  | .fault f => .fault f
  | .wait s1 => .wait s1
  | .ok s1 ix =>
    let k := bytesNat ix
    let dst : Int := fieldAt b 56 8 + n * signedAt b 64 8
    if k < fieldAt b 32 4 then
      s1.moveElem o (fieldAt b 9 1) (fieldAt b 16 8 + k * signedAt b 24 8) (fieldAt b 10 1) dst (fieldAt b 36 4)
    else s1.engineWrite o (fieldAt b 10 1) dst (natBytes (fieldAt b 36 4) 0)

/-- Row move `n` of a `kvpatch` (R291). -/
def State.patchRow (s : State) (o : Op) (b : List Byte) (n : Nat) : EngOut Unit :=
  let f := fun (x y : Nat) => fieldAt b x y
  let len := f 72 4
  let pos := f 80 4
  let cnt := f 84 4
  let cs := f 9 1
  let row := fun (h r : Nat) => (f 16 8 : Int) + h * signedAt b 24 8 + r * f 32 8
  if f 8 1 = 0 then
    let per := len - pos + cnt
    let h := n / per
    let m := n % per
    if m < len - pos then s.moveElem o cs (row h (len - 1 - m)) cs (row h (len - 1 - m + cnt)) (f 68 4)
    else
      let j := m - (len - pos)
      s.moveElem o (f 10 1) (f 40 8 + h * signedAt b 48 8 + j * f 56 8) cs (row h (pos + j)) (f 68 4)
  else
    let per := len - pos - cnt
    let h := n / per
    let r := pos + cnt + n % per
    s.moveElem o cs (row h r) cs (row h (r - cnt)) (f 68 4)

/-- Conversion format code (R145) of `rerot`'s EFMT. -/
def rotFmt (b : List Byte) : Nat := if fieldAt b 10 1 = 0 then 1 else fieldAt b 10 1

/-- The rotation of a pair (R292): both elements in EFMT and the flags. -/
def rotPair (fmt x0 y0 c sn : Nat) : Nat × Nat × BitVec 6 :=
  let x := if fmt = 1 then (x0, (0 : BitVec 6)) else convert 1 fmt 0 x0
  let y := if fmt = 1 then (y0, (0 : BitVec 6)) else convert 1 fmt 0 y0
  let p1 := fMul fmtF32 0 y.1 sn
  let x2 := fFma fmtF32 0 x.1 c (p1.1 ^^^ 2 ^ 31)
  let p2 := fMul fmtF32 0 x.1 sn
  let y2 := fFma fmtF32 0 y.1 c p2.1
  let ex := if fmt = 1 then (x2.1, (0 : BitVec 6)) else convert fmt 1 0 x2.1
  let ey := if fmt = 1 then (y2.1, (0 : BitVec 6)) else convert fmt 1 0 y2.1
  (ex.1, ey.1, x.2 ||| y.2 ||| p1.2 ||| x2.2 ||| p2.2 ||| y2.2 ||| ex.2 ||| ey.2)

/-- Pair `n` of a `rerot`: its flags when it has been written. -/
def State.rotElem (s : State) (o : Op) (b : List Byte) (n : Nat) : EngOut (BitVec 6) :=
  let f := fun (x y : Nat) => fieldAt b x y
  let half := f 64 4 / 2
  let e := rotBytes b
  let i := n % half
  let r := f 52 4 + n / half % f 56 4
  let h := n / half / f 56 4
  let row : Int := (f 16 8 : Int) + h * signedAt b 24 8 + r * f 32 8 + f 60 4
  let ax := row + (if f 11 1 = 0 then 2 * i else i) * e
  let ay := row + (if f 11 1 = 0 then 2 * i + 1 else i + half) * e
  let tb : Int := f 40 8 + (signedAt b 68 4 + f 72 4) * 4 * f 64 4 + 8 * i
  match s.engineRead o (f 8 1) ax e with
  | .fault x => .fault x
  | .wait s1 => .wait s1
  | .ok s1 bx =>
    match s1.engineRead o (f 8 1) ay e with
    | .fault x => .fault x
    | .wait s2 => .wait s2
    | .ok s2 by_ =>
      match s2.engineRead o (f 9 1) tb 8 with
      | .fault x => .fault x
      | .wait s3 => .wait s3
      | .ok s3 bt =>
        let z := rotPair (rotFmt b) (bytesNat bx) (bytesNat by_) (fieldAt bt 0 4) (fieldAt bt 4 4)
        match s3.engineCanWrite o (f 8 1) ay e with
        | .fault x => .fault x
        | .wait s4 => .wait s4
        | .ok _ _ =>
          match s3.engineWrite o (f 8 1) ax (natBytes e z.1) with
          | .fault x => .fault x
          | .wait s4 => .wait s4
          | .ok s4 _ =>
            match s4.engineWrite o (f 8 1) ay (natBytes e z.2.1) with
            | .fault x => .fault x
            | .wait s5 => .wait s5
            | .ok s5 _ => .ok s5 z.2.2

/-- Bytes that one element writes. -/
def elemBytes (c : CopyBody) : Nat :=
  let f := fun (x y : Nat) => fieldAt c.block x y
  if c.kind = 0 then 1 else if c.kind = 1 then 2 ^ f 9 1 else if c.kind = 2 then f 36 4 else if c.kind = 3 then f 24 4
  else if c.kind = 4 then f 68 4 else 2 * rotBytes c.block

/-- Performs the next element of a copy other than a `ringpush`: the flags it raises. -/
def State.copyElem (s : State) (o : Op) (c : CopyBody) : EngOut (BitVec 6) :=
  let lift := fun (x : EngOut Unit) => (match x with
    | .ok s1 _ => EngOut.ok s1 (0 : BitVec 6)
    | .wait s1 => .wait s1
    | .fault f => .fault f)
  if c.kind = 0 then lift (s.moveElem o 4 (c.src + c.idx : Nat) 4 (c.dst + c.idx : Nat) 1)
  else if c.kind = 1 then
    (if fieldAt c.block 11 1 = 15 then lift (s.streamElem o c.block c.idx)
     else lift (s.moveElem o (fieldAt c.block 10 1) (fieldAt c.block 16 8 + cpytOff c.block (cpytS c.block) 8 0 c.idx)
       (fieldAt c.block 11 1) (fieldAt c.block 24 8 + cpytOff c.block (cpytD c.block) 8 0 c.idx) (2 ^ fieldAt c.block 9 1)))
  else if c.kind = 2 then lift (s.gatherRow o c.block c.idx)
  else if c.kind = 4 then lift (s.patchRow o c.block c.idx)
  else s.rotElem o c.block c.idx

/-- Bytes of another package fetched for an element are forgotten once the element has performed. -/
def State.elemDone (s : State) (id : Nat) (n : Nat) (fl : BitVec 6) : State :=
  { s with ops := s.ops.map (fun o => if o.id = id then
      { o with got := [], body := match o.body with
          | .copy c => .copy { c with idx := c.idx + 1, bytes := c.bytes + n, flags := c.flags ||| fl }
          | b => b } else o) }

/-- A copy of a discarded context has ended: nothing is signalled, and the regions of its workgroup go with its last (R281). -/
def State.killEnd (s : State) (o : Op) : State :=
  let s1 : State := { s with ops := s.ops.filter (fun y => y.id ≠ o.id),
                             cores := s.cores.map (fun k => { k with locks := k.locks.filter (fun l => l.op ≠ o.id) }), passDue := true }
  if s1.ops.any (fun y => y.wg = o.wg) then s1 else s1.removeWgs [o.wg]

/-- The end of a copy whose elements have all performed: acknowledged, written back at its scope, arrived (R232, R279). -/
def State.copyEnd (s : State) (o : Op) : State :=
  if o.unacked ≠ [] then s
  else if o.st = .killed then s.killEnd o
  else (s.release o.core o.ctx o.scope).opEnd o .done

/-- A fault of a copy's element: the operation ends with it, and of a discarded context it is only counted (R240, R368). -/
def State.copyFault (s : State) (o : Op) (f : FaultInfo) : State :=
  if o.st = .killed then (s.fatal o.ctx (ctxRecord s { f with engine := true })).killEnd o else s.opFail o f

/-- Performs up to `n` elements of a copy, and ends it after the last. -/
def State.copySteps (s : State) (id : Nat) : Nat → State
  | 0 => s
  | n + 1 =>
    match s.getOp id with
    | none => s
    | some o =>
      match o.body with
      | .copy c =>
        if o.st ≠ .busy && o.st ≠ .killed then s
        else if c.idx ≥ c.total then s.copyEnd o
        else if c.kind = 3 then s
        else
          match s.copyElem o c with
          | .fault f => s.copyFault o f
          | .wait s1 => s1
          | .ok s1 fl => (s1.elemDone id (elemBytes c) fl).copySteps id n
      | _ => s

/-- `copyComplete`: up to `n` elements perform; after the last the status changes from BUSY to its final state. -/
def execCopyComplete (id n : Nat) (s : State) : Host.Outcome State Fault Refusal := .next (s.copySteps id (n + 1))

/-! `ringTailAdvance` (R290). -/

/-- No push issued earlier to the ring is still filling. -/
def State.pushTurn (s : State) (o : Op) (n : Nat) : Bool :=
  s.ops.all (fun x => !(x.wg = o.wg && x.id < o.id && x.st.isBusy && (match x.body with
    | .copy b => b.kind = 3 && fieldAt b.block 9 1 = n && b.idx < b.total
    | _ => false)))

/-- Writes a slot at TAIL, in two parts where it passes the end of the ring, then advances TAIL. -/
def State.pushSlot (s : State) (o : Op) (c : CopyBody) (w : Workgroup) : EngOut Unit :=
  let n := fieldAt c.block 9 1
  let g := w.ring n
  let slot := fieldAt c.block 24 4
  match s.engineRead o (fieldAt c.block 8 1) (fieldAt c.block 16 8 + c.idx * signedAt c.block 32 8) slot with
  | .fault f => .fault f
  | .wait s1 => .wait s1
  | .ok s1 bs =>
    let x := g.tail % g.size
    let m := min slot (g.size - x)
    let s2 := (s1.writePlace o.agent (.scratch w.uid (g.base + x)) (bs.take m)).writePlace o.agent (.scratch w.uid g.base) (bs.drop m)
    match s2.getWg w.uid with
    | some w2 => .ok (s2.putWg { w2 with rings := setNth w2.rings n { g with tail := (g.tail + slot) % (2 * g.size) } }) ()
    | none => .ok s2 ()

def execRingTailAdvance (id : Nat) (s : State) : Host.Outcome State Fault Refusal :=
  match s.getOp id with
  | none => .next s
  | some o =>
    match o.body, s.getWg o.wg with
    | .copy c, some w =>
      if (o.st = .busy || o.st = .killed) && c.kind = 3 && c.idx < c.total && s.pushTurn o (fieldAt c.block 9 1) then
        match s.pushSlot o c w with
        | .fault f => .next (s.copyFault o f)
        | .wait s1 => .next s1
        | .ok s1 _ => .next (s1.elemDone id (fieldAt c.block 24 4) 0)
      else .next s
    | _, _ => .next s

end Sys2Proof.Machine
end

