-- ==== Sys2Proof/Machine/System.lean ====
section
/-! DEFINITION. Special registers and the system instructions (R3 to R5, R388 to R394; the registers' own rules as cited), the
rotor's matching (R411), and the end of a team by `halt`. -/
namespace Sys2Proof.Machine

/-! Codes (R154, R333, R365). -/

/-- Codes of R154. No team reads its own slot FREE, which is 0: the slot's reader is the team in it. -/
def TeamSt.code : TeamSt → Nat
  | .zero => 1 | .ready => 2 | .stall _ => 3 | .replay _ => 4 | .done => 5 | .saved => 6

def CtxSt.code : CtxSt → Nat
  | .free => 0 | .running => 1 | .polite => 2 | .cutting => 3 | .saved => 4 | .resuming => 5 | .faulted => 6

def QueueSt.code : QueueSt → Nat
  | .free => 0 | .active => 1 | .suspended => 2 | .error => 3

def b2n (b : Bool) : Nat := if b then 1 else 0

/-- A value as a field of some bits holds it. What BW and PW of `DMP_USE` read where the declared sums do not fit them R348 does not say: there
the field holds a free value (DESIGN CHOICE, log 127). -/
def fieldOr (bits x : Nat) : Nat := if x < 2 ^ bits then x else (Config.beyond bits x).toNat % 2 ^ bits

/-- `CTX_ID.STATE` as a running team reads it: 1 or 2, also while a cut is on its way to the team (R366). -/
def CtxSt.seen (st : CtxSt) : Nat := if st = .cutting then 2 else st.code

/-! The rotor (R411). -/

/-- Cycle position 12·port + slot at which two packages meet. -/
def meetAt (i j : Nat) : Nat := (i + j) % 192

/-! Charges (R348, R349). -/

/-- Cores, MB/s and mW that a context's running workgroups are charged. -/
def Context.useCores (x : Context) : Nat := (x.charges.map (fun c => c.2.1)).eraseDups.length
def Context.useBw (x : Context) : Nat := (x.charges.map (fun c => c.2.2.1)).foldl (· + ·) 0
def Context.usePw (x : Context) : Nat := (x.charges.map (fun c => c.2.2.2)).foldl (· + ·) 0

/-- `QUE_STAT` (R362). -/
def Queue.stat (q : Queue) : Nat :=
  q.st.code + 4 * b2n q.lostC + (if q.st = .error then 8 * q.err + 2 ^ 8 * q.eoff else 0) + 2 ^ 28 * b2n q.lostR

/-- Width of a special register in bits and its largest index (R389, R430); none for an unlisted number. -/
def regInfo (n : Nat) : Option (Nat × Nat) := (Legal.sysReg n).map (fun x => (x.1, x.2.1))

/-- Pending gang record's kind (R377). -/
def Context.gangPend (x : Context) : Nat := if x.gangTaken then 0 else (x.gangPending.map GangRec.kind).getD 0

/-- `GNG_STAT` (R377). -/
def State.gngStat (s : State) (x : Context) : Nat :=
  s.clockMode + 4 * (if s.clockMode = 1 then min 1000000 ((s.tai - s.holdSince) / 1000) else 0) + 2 ^ 22 * x.gangPend +
  2 ^ 24 * b2n x.gangOpen + 2 ^ 32 * x.gangGen

/-- Flits held in the relay store (R430). -/
def State.relayFlits (s : State) : Nat := (s.relayStore.map (fun o => o.p.len)).foldl (· + ·) 0

def State.lnkPort (s : State) (i : Nat) : Nat :=
  match s.ports[i]? with
  | some p => p.st + 2 ^ 8 * min p.crcf (2 ^ 24 - 1) + 2 ^ 32 * (p.trains % 2 ^ 32)
  | none => 0

def State.lnkPeer (s : State) (i : Nat) : Nat :=
  if i ≥ 192 ∨ i = s.pkg ∨ s.pkg ≥ 192 then (s.peer i).reach
  else
    let m := meetAt s.pkg i
    (s.peer i).reach + 4 * b2n ((s.ports[m / 12]?).map (fun p => decide (p.st = 2)) |>.getD false) + 2 ^ 8 * (m / 12) + 2 ^ 12 * (m % 12) +
    2 ^ 32 * (s.peer i).credit

def State.lnkKeySt (s : State) (i : Nat) : Nat :=
  let p := s.peer i
  (match p.txKey with
   | some k => k.st + 4 * k.ix + 2 ^ 16 * k.ctr
   | none => b2n p.txNext.isSome) + 8 * b2n p.rx0.isSome + 16 * b2n p.rx1.isSome

/-- Bits `lo` to `lo + 63` of the absent cores (R366). -/
def State.absentWord (s : State) (i : Nat) : Nat := s.absent.toNat / 2 ^ (64 * i) % 2 ^ 64

/-- A node stands in the ready pool from stage 3 until its completion (R345), which comes with its record where it has one (R342); a withdrawn
ticket counts as complete at once (R357). -/
def Node.inPool (n : Node) : Bool := 3 ≤ n.stage && (n.outcome.map Prod.fst) ≠ some 2

/-- Nodes of a context in the pool. -/
def State.poolUsed (s : State) (c : Nat) : Nat := s.nodes.countP (fun n => n.ctx = c && n.inPool)

def Run.coreVal (r : Run) (f : Core → Nat) : Nat := ((r.s.getCore r.w.core).map f).getD 0
def Run.ctxVal (r : Run) (f : Context → Nat) : Nat := ((r.s.getCtx r.w.ctx).map f).getD 0
def Run.pressVal (r : Run) (k : Nat) (f : PressBody → Nat) : Nat := (((r.tokenOp k).bind Op.press).map f).getD 0

/-- The current value of a register at an index within its range (R389). -/
def Run.regGet (r : Run) (n i : Nat) : Nat :=
  if n = 0x000 then ((r.s.getNode r.w.node).map Node.feat).getD r.s.featGen.toNat + 2 * 2 ^ 32 + 2 * 2 ^ 40
  else if n = 0x001 then 1024
  else if n = 0x002 then r.s.absentWord i
  else if n = 0x003 then r.ctxVal (fun x => x.ladder.getD i 0)
  else if n = 0x004 then r.s.memCe + 2 ^ 32 * r.s.memUe
  else if n = 0x010 then
    r.w.core % 32 + 2 ^ 5 * (r.w.core / 32) + 2 ^ 10 * dieOf r.w.core + 2 ^ 13 * r.coreVal Core.phys + 2 ^ 21 * r.s.pkg
  else if n = 0x011 then r.coreVal (fun k => (k.triple.map (fun t => t.b0 / 16)).getD 0)
  else if n = 0x012 then r.coreVal (fun k => (k.triple.map (fun t => t.b1 / 16)).getD 0)
  else if n = 0x013 then r.coreVal (fun k => (k.triple.map (fun t => t.b2 / 16)).getD 0)
  else if n = 0x014 then r.coreVal (fun k => k.bankser.toNat)
  else if n = 0x015 then r.coreVal (fun k => k.aliasRb.toNat % 2 ^ 48)
  else if n = 0x020 then
    r.t.st.code + 2 ^ 3 * r.t.depth + 2 ^ 7 * b2n r.t.diverged + 2 ^ 8 * b2n r.t.split + 2 ^ 9 * (r.w.teamSize - 1) +
    2 ^ 14 * r.t.tix + 2 ^ 20 * r.t.lane
  else if n = 0x021 then r.t.fmask.toNat
  else if n = 0x022 then r.t.fstat.toNat
  else if n = 0x023 then r.t.wdog.toNat + 2 ^ 32 * b2n r.t.wdogExp
  else if n = 0x030 then r.t.pfmt.toNat
  else if n = 0x031 then r.t.prsFstat.toNat
  else if n = 0x032 then r.pressVal i PressBody.next
  else if n = 0x033 then r.pressVal i PressBody.wbase
  else if n = 0x034 then r.pressVal i (fun b => b.doneBits.toNat)
  else if n = 0x040 then r.s.ops.countP (fun o => o.wg = r.w.uid && o.tix = r.t.tix && o.press.isNone && o.st.isBusy)
  else if n = 0x050 then r.ctxVal Context.quota + 2 ^ 16 * r.s.poolUsed r.w.ctx
  else if n = 0x051 then
    (match r.s.getQueue i with
     | some q => if q.ctx = r.w.ctx && q.st ≠ .free then q.stat else 0
     | none => 0)
  else if n = 0x060 then r.ctxVal (fun x => x.budget.toNat)
  else if n = 0x061 then
    r.ctxVal (fun x => x.useCores + 2 ^ 16 * fieldOr 17 ((x.useBw + 999) / 1000) + 2 ^ 48 * fieldOr 12 ((x.usePw + 999) / 1000))
  else if n = 0x070 then r.ctxVal (fun x => x.id + 2 ^ 8 * x.st.seen + 2 ^ 11 * b2n x.gang)
  else if n = 0x071 then r.ctxVal Context.nbv
  else if n = 0x072 then r.ctxVal Context.politeWindow
  else if n = 0x073 then r.ctxVal (fun x => b2n x.brk + 2 * b2n x.lrh)
  else if n = 0x080 then r.ctxVal r.s.gngStat
  else if n = 0x081 then r.ctxVal (fun x => (tabGet i x.txc).getD 0)
  else if n = 0x082 then r.ctxVal (fun x => (tabGet i x.rxc).getD 0)
  else if n = 0x0C0 then r.s.lnkPort i
  else if n = 0x0C1 then r.s.lnkPeer i
  else if n = 0x0C2 then r.s.slot + 2 ^ 4 * r.s.cycle
  else if n = 0x0C3 then r.s.lnkKeySt i
  else if n = 0x0C4 then r.s.keyTmo
  else if n = 0x0C5 then r.s.relayFlits % 2 ^ 32 + 2 ^ 32 * (r.s.sendFlits % 2 ^ 32)
  else if n = 0x0C6 then min r.s.authF (2 ^ 32 - 1) + 2 ^ 32 * min r.s.rlyUe 65535 + 2 ^ 48 * min r.s.badPkt 65535
  else 0

/-- Registers with a PRIV or PW1C field, at the indices that have one (R4, R97). -/
def regPriv (n i : Nat) : Bool :=
  [0x004, 0x050, 0x060, 0x071, 0x072, 0x073, 0x0C4].contains n || (n = 0x003 && (i ≤ 2 || i = 15))

/-- `SYS_MEMERR` after a PW1C write (R218). -/
def State.memErrClear (s : State) (x : Nat) : State :=
  { s with memCe := s.memCe &&& (2 ^ 32 - 1 - x % 2 ^ 32), memUe := s.memUe &&& (65535 - x / 2 ^ 32 % 65536) }

/-- `QUE_STAT` after a W1C write (R362). -/
def Queue.statClear (q : Queue) (x : Nat) : Queue :=
  { q with lostC := q.lostC && !(x / 4 % 2 = 1), lostR := q.lostR && !(x / 2 ^ 28 % 2 = 1) }

def Run.modCtx (r : Run) (f : Context → Context) : Run :=
  match r.s.getCtx r.w.ctx with
  | some x => { r with s := r.s.putCtx (f x) }
  | none => r

/-- The fields of `DMP_BUDGET` that are not RSV (R348). -/
def budgetMask : DWord := 0x0FFF0001FFFF07FF

/-- A new distributor pass starts (R353). -/
def Run.due (r : Run) : Run := { r with s := { r.s with passDue := true } }

/-- A write of a value under the Access code of each field (R4, R390). -/
def Run.regPut (r : Run) (n i x : Nat) : Run :=
  if n = 0x003 then
    (if i ≤ 2 ∨ i = 15 then r.modCtx (fun c => { c with ladder := setNth c.ladder i (x % 2 ^ 64) }) else r)
  else if n = 0x004 then { r with s := r.s.memErrClear x }
  else if n = 0x022 then { r with t := { r.t with fstat := r.t.fstat &&& ~~~(BitVec.ofNat 6 x) } }
  else if n = 0x030 then r.setFmt x
  else if n = 0x031 then { r with t := { r.t with prsFstat := r.t.prsFstat &&& ~~~(BitVec.ofNat 6 x) } }
  else if n = 0x050 then
    (if 1 ≤ x % 2 ^ 15 ∧ x % 2 ^ 15 ≤ 16384 then r.modCtx (fun c => { c with quota := x % 2 ^ 15 }) else r)
  else if n = 0x051 then
    (match r.s.getQueue i with
     | some q => if q.ctx = r.w.ctx then { r with s := r.s.putQueue (q.statClear x) } else r
     | none => r)
  else if n = 0x060 then r.modCtx (fun c => { c with budget := BitVec.ofNat 64 x &&& budgetMask }) |>.due
  else if n = 0x071 then (if x % 4 = 1 ∨ x % 4 = 2 then r.modCtx (fun c => { c with nbv := x % 4 }) else r)
  else if n = 0x072 then r.modCtx (fun c => { c with politeWindow := x % 2 ^ 24 })
  else if n = 0x073 then r.modCtx (fun c => { c with brk := x % 2 = 1, lrh := x / 2 % 2 = 1 })
  else if n = 0x0C4 then (if x % 2 ^ 24 = 0 then r else { r with s := { r.s with keyTmo := x % 2 ^ 24 } })
  else r

/-- An index within the register's range (R389, R390). -/
def regHas (n i : Nat) : Bool :=
  match regInfo n with
  | some (_, k) => i ≤ k
  | none => false

/-- `srd`, given the index. -/
def Run.srd (r : Run) (n i : Nat) : Nat := if regHas n i then r.regGet n i else 0

/-- `swr`, given the index and value: a PRIV or PW1C field written by unprivileged code is ILLEGAL_ENCODING 5. -/
def Run.swr (r : Run) (i0 n i x : Nat) (priv : Bool) : Run :=
  if !regHas n i then r
  else if regPriv n i && !priv then r.fatal i0 clsIllegal 5 0
  else r.regPut n i x

/-- The code at the instruction is that of a privileged native object (R390). -/
def Run.privileged (r : Run) : Bool :=
  match r.s.objAt r.w.ctx r.pc with
  | some o => o.native && o.priv
  | none => false

/-- The index operand. -/
def Run.regIndex (r : Run) (i : Nat) : Operand → Nat
  | .tk n => n.toNat
  | o => (r.read i o 8 32 0 false).2

/-- The register number: operand A, read raw. -/
def regNo (o : Operand) : Nat := Legal.raw12 o

def execSrd (e : Enc) (s : State) : Host.Outcome State Fault Refusal :=
  issueKept e (fun r i => r.writeEach e.d (e.ty = 1) (r.srd (regNo e.a) (r.regIndex i e.b))) s

def execSwr (e : Enc) (s : State) : Host.Outcome State Fault Refusal :=
  issueKept e (fun r i =>
    r.swr i (regNo e.a) (r.regIndex i e.b) (r.read i e.d (if e.ty = 1 then 1 else 0) 64 0 (e.ty = 1)).2 r.privileged) s

/-! `clk` (R391). -/

def State.clk (s : State) (v : Nat) : Nat := (if v = 0 then s.cc else s.tai) % 2 ^ 64

def execClk (e : Enc) (s : State) : Host.Outcome State Fault Refusal :=
  issueKept e (fun r _ => r.writeEach e.d true (r.s.clk e.var.toNat)) s

/-! `prof` (R392). -/

/-- The number of native bundles of a translation is not the portable program's to give: at each read of `.bund` an open number of samples of
4096 has been added. -/
def Run.prof (r : Run) (v : Nat) : Run × Nat :=
  match r.s.entryAt r.w r.pc with
  | none => (r, 0)
  | some (d, g) =>
    if v = 0 then (r, (d.counts r.w.ctx g).nodes)
    else if v = 1 then
      let x := r.s.freeValue
      let p := d.counts r.w.ctx g
      let n := p.samples + x.1.toNat
      ({ r with s := x.2.putDir { d with prof := { p with samples := n } :: d.prof.filter (fun q => !(q.ctx = r.w.ctx && q.gen = g)) } },
       4096 * n % 2 ^ 64)
    else if v = 2 then (r, (d.counts r.w.ctx g).rollbacks)
    else (r, g)

def execProf (e : Enc) (s : State) : Host.Outcome State Fault Refusal :=
  issueKept e (fun r _ =>
    let x := r.prof e.var.toNat
    x.1.writeEach e.d true x.2) s

/-! `halt` (R393). -/

/-- A team that `halt` ends: every thread in EXIT. What its combining buffer holds drains afterwards. -/
def Team.halted (t : Team) : Team :=
  { t with st := .done, threads := t.threads.map (fun h => { h with st := .exit }), masks := t.masks.map (fun _ => 0), fmask := 0,
           pend := none, heldPhase := none, links := [] }

/-- The native code of a team stands between two STOP points: a clause has started, or has been left without a STOP (R113). -/
def State.running (s : State) (w : Workgroup) (t : Team) : Bool :=
  s.inNative w t && (match t.st with
    | .stall _ | .replay _ | .zero => false
    | _ => true)

/-- Ends one team where it stands; a pending fault is delivered there (R238, R240). -/
def State.haltTeam (u i : Nat) (s : State) : State :=
  match s.teamOf u i with
  | none => s
  | some (w, t) =>
    if t.st = .done then s
    else match t.pendFaults with
      | f :: _ => s.teamFatal w t t.runMask f
      | [] => (s.modTeam u i Team.halted).teamEnded u i

/-- A `halt` reaches a workgroup: a team that issues native code ends at its next STOP point, every other where it stands, a boundary of
portable instructions being one. -/
def State.haltWg (s : State) (u : Nat) : State :=
  match s.getWg u with
  | none => s
  | some w =>
    let ends := w.teams.filter (fun t => t.st ≠ .done && !s.running w t)
    match ends.flatMap (fun t => t.pendFaults.map (fun f => (t, f))) with
    | (t, f) :: _ => s.teamFatal w t t.runMask f
    | [] =>
      let s1 := s.putWg { w with teams := w.teams.map (fun t =>
        if t.st = .done then t else if s.running w t then { t with halting := true } else t.halted) }
      ends.foldl (fun s t => s.teamEnded u t.tix) s1

/-- Ends every placed workgroup of a node, and the placement of more. -/
def State.haltNode (s : State) (n : Nat) : State :=
  let s1 : State := { s with nodes := s.nodes.map (fun (x : Node) => if x.id = n then { x with halted := true } else x) }
  (s1.wgs.filter (fun (w : Workgroup) => w.node = n)).foldl (fun s w => s.haltWg w.uid) s1

/-- The issuing team ends at the `halt`. -/
def Run.haltIssue (r : Run) (node : Bool) : Run :=
  let r1 := r.load ((if node then r.sync.haltNode r.w.node else r.sync.haltWg r.w.uid).haltTeam r.w.uid r.t.tix)
  { r1 with moved := r1.cands }

def execHalt (e : Enc) (s : State) : Host.Outcome State Fault Refusal :=
  issue e.g e.gn (lenOf e) (fun r => onceFirst (fun r _ => r.haltIssue (e.var = 1)) r) s

/-! `sleep` (R394). -/

/-- The team waits after the instruction: its count, or its target, is fixed now. -/
def Run.sleep (r : Run) (until_ : Bool) (x : Nat) : Run :=
  { r with post := some (if until_ then .sleepTai x else .sleepCc (r.s.cc + x)) }

def execSleep (e : Enc) (s : State) : Host.Outcome State Fault Refusal :=
  issueKept e (fun r i =>
    if e.ty = 1 then r.sleep true (r.read i e.a 1 64 0 true).2 else r.sleep false (r.read i e.a 8 32 0 false).2) s

/-- A sleep whose time has come. -/
def State.sleepOver (s : State) : TeamSt → Bool
  | .stall (.sleepCc t) => s.cc ≥ t
  | .stall (.sleepTai t) => s.tai ≥ t
  | _ => false

/-- `sleepExpiry`: the team returns to READY, its watchdog reset as by a `yield`. -/
def execSleepExpiry (u i : Nat) (s : State) : Host.Outcome State Fault Refusal :=
  .next (match (s.getWg u).bind (fun w => w.getTeam i) with
    | some t => if s.sleepOver t.st then s.modTeam u i (fun t => { t.wdogReset with st := .ready }) else s
    | none => s)

end Sys2Proof.Machine
end

