-- ==== Sys2Proof/Machine/Queue.lean ====
section
/-! DEFINITION. User queues and graph nodes up to the ready pool (R333 to R346, R357 to R362): kicks, parsing, completion
records and withdrawal. -/
namespace Sys2Proof.Machine

/-! What the host can do while the package runs (R442, R446). -/

/-- A host write to the open apertures: dropped before READY or without power, held while firmware recovers. -/
def State.hostAct (s : State) (i : Instr) (f : State → State) : State :=
  if s.bootStage ≠ 4 || s.power ≠ .d0 then s
  else if s.recovering ≠ [] then { s with held := s.held ++ [i] }
  else f s

/-! Queues (R333, R334). -/

/-- Publishes RIDX to RIDXADDR; a page that is not there leaves the publication waiting, an unusable address loses it. -/
def State.publish (s : State) (qn : Nat) : State :=
  match s.getQueue qn with
  | none => s
  | some q =>
    match s.fwWrite q.ctx q.ridxAddr (natBytes 8 q.ridx) with
    | .ok s1 _ => s1.putQueue { q with publish := none }
    | .wait s1 => s1.putQueue { q with publish := some q.ridx }
    | .bad s1 => s1.putQueue { q with publish := none, lostR := true }

/-- Advances RIDX by a packet of some bytes and publishes it. -/
def State.advance (s : State) (qn bytes : Nat) : State :=
  match s.getQueue qn with
  | none => s
  | some q => (s.putQueue { q with ridx := q.ridx + bytes, seq := q.seq + 2 }).publish qn

/-- A reset (R333): RIDX := WIDX; the packets between take no ticket. -/
def State.queueReset (s : State) (qn : Nat) : State :=
  match s.getQueue qn with
  | none => s
  | some q =>
    (s.putQueue { q with st := .active, err := 0, eoff := 0, ridx := q.widx, withdrawn := [], seq := q.seq + 2 }).publish qn

/-- A ticket completes, is withdrawn or is refused: CDONE passes the leading ones (R368). -/
def cdoneGo : Nat → Nat → List Nat → Nat × List Nat
  | 0, c, l => (c, l)
  | k + 1, c, l => if l.contains c then cdoneGo k (c + 1) (l.filter (· ≠ c)) else (c, l)

def Queue.ticketDone (q : Queue) (t : Nat) : Queue :=
  let x := cdoneGo (q.doneTickets.length + 1) q.cdone (t :: q.doneTickets)
  { q with cdone := x.1, doneTickets := x.2 }

/-! Readiness of a node (R23, R25, R315, R316). -/

/-- The 64-byte descriptor of a kernel of an object. -/
def CodeObj.desc (o : CodeObj) (k : Nat) : List Byte := (o.kernels.drop (64 * k)).take 64
def CodeObj.kernelCount (o : CodeObj) : Nat := o.kernels.length / 64

/-- A context-fatal fault that meets a node before any team of it issues. -/
def State.nodeFatal (s : State) (n : Node) (cls sub : Nat) : State :=
  s.fatal n.ctx { ctxRecord s (mkFault cls sub 0) with node := n.queue * 2 ^ 52 + n.ticket % 2 ^ 52 }

/-- A launch asks for its kernel's translation; with it the node stands at stage 5. -/
def State.askKernel (s : State) (id : Nat) : State :=
  match s.getNode id with
  | none => s
  | some n =>
    match s.getObj n.obj with
    | none => s
    | some o =>
      if o.st = .quarantined then s.nodeFatal n clsIntegrity 1
      else
        let off := fieldAt (o.desc n.kernel) 12 4
        let s1 := s.requestFn o off true
        match s1.dirFind o.identity off with
        | none => s1
        | some d =>
          if d.st = .translating then s1.putNode { n with stage := 4, dir := some d.id }
          else if d.st = .failed then s1.nodeFatal n clsIntegrity (s1.failedSub o)
          else s1.putNode { n with stage := 5, dir := some d.id }

/-- A node's predecessor count has reached zero: it stands in the ready pool. -/
def State.nodeReady (s : State) (id : Nat) : State :=
  match s.getNode id with
  | none => s
  | some n =>
    let s1 := { s.putNode { n with stage := 4 } with passDue := true }
    if n.kind = .launch then s1.askKernel id else s1

/-! Completion (R342). -/

/-- Each successor's count falls by one. -/
def decrementAll : List Nat → State → State
  | [], s => s
  | k :: r, s =>
    match s.getNode k with
    | none => decrementAll r s
    | some n =>
      let s1 := s.putNode { n with pred := n.pred - 1 }
      decrementAll r (if n.pred = 1 ∧ n.stage = 3 ∧ n.outcome.isNone then s1.nodeReady k else s1)

/-- Steps 2 and 3 of a completion: the interrupt, and the successors. The node leaves the pool. -/
def State.nodeAfter (s : State) (n : Node) : State :=
  let s1 : State := { s with nodes := s.nodes.filter (fun (x : Node) => x.id ≠ n.id), passDue := true }
  match s1.getQueue n.queue with
  | none => decrementAll n.succs s1
  | some q =>
    let s2 := s1.putQueue (q.ticketDone n.ticket)
    decrementAll n.succs (if n.irq then s2.emit (.msix q.msix) else s2)

/-- The record of a node whose outcome is known: one 16-byte release store. Where its page is not there, the node waits
with the outcome; an unusable address sets LOSTC. -/
def State.nodeRecord (s : State) (n : Node) : State :=
  match n.outcome with
  | none => s
  | some (st, why, v) =>
    if n.compl = 0 then s.nodeAfter n
    else
      match s.fwWrite n.ctx n.compl (complBytes st why n.tag v) with
      | .ok s1 _ => s1.nodeAfter n
      | .wait s1 => s1
      | .bad s1 =>
        (match s1.getQueue n.queue with
         | some q => s1.putQueue { q with lostC := true }
         | none => s1).nodeAfter n

/-- VALUE of a record other than a LOAD's. -/
def Node.value (n : Node) : Nat := n.ticket % 2 ^ 52 + n.queue * 2 ^ 52

/-- Ends a node, or a packet that never became one, with an outcome. -/
def State.nodeEnd (s : State) (n : Node) (st why v : Nat) : State :=
  let n1 := { n with stage := if (s.getNode n.id).isSome then 8 else 2, outcome := some (st, why, v) }
  let s1 : State := if (s.getNode n.id).isSome then s.putNode n1 else { s with nodes := s.nodes ++ [n1] }
  s1.nodeRecord n1

/-! Parsing (R337 to R346). -/

/-- Byte offset of the references of a packet type (R339). -/
def refsAt (ty : Nat) : Nat := if ty = 1 then 96 else if ty = 2 then 40 else if ty = 3 then 32 else 24

/-- The structural faults 1 to 3 of a header at a ring offset. -/
def headerFault (h : List Byte) (off size : Nat) : Option Nat :=
  let u := fieldAt h 1 1
  if u = 0 ∨ u > 16 then some 1 else if off + 64 * u > size then some 2 else if fieldAt h 0 1 > 4 then some 3 else none

/-- References of a packet: (queue, ticket), SERIAL among them. -/
def packetRefs (pk : List Byte) (qn ticket : Nat) : List (Nat × Nat) :=
  let at_ := refsAt (fieldAt pk 0 1)
  let ids := (List.range (min (fieldAt pk 3 1) 8)).filter (fun i => at_ + 8 * i + 8 ≤ pk.length)
  ids.map (fun i => (fieldAt pk (at_ + 8 * i) 8 / 2 ^ 52, fieldAt pk (at_ + 8 * i) 8 % 2 ^ 52)) ++
    (if fieldAt pk 2 1 % 2 = 1 && ticket ≠ 0 then [(qn, ticket - 1)] else [])

/-- R337, R339: limits that every packet keeps. -/
def commonOk (pk : List Byte) : Bool :=
  fieldAt pk 2 1 < 4 && fieldAt pk 3 1 ≤ 8 && 5 ≤ fieldAt pk 16 1 && fieldAt pk 16 1 ≤ 7 && zeroAt pk 17 7 &&
  refsAt (fieldAt pk 0 1) + 8 * fieldAt pk 3 1 ≤ pk.length

/-- R340: limits of a LAUNCH body. -/
def launchOk (pk : List Byte) : Bool :=
  let nw := fieldAt pk 34 1
  let nh := fieldAt pk 35 1
  let fw := fieldAt pk 36 1
  let fh := fieldAt pk 37 1
  nw ≤ 16 && nh ≤ 8 && ((nw = 0) == (nh = 0)) && (fw ≤ 16 || fw = 255) && fh ≤ 8 && ((fh = 0) == (fw = 0 || fw = 255)) &&
  fieldAt pk 38 1 ≤ 48 && fieldAt pk 39 1 ≤ 128 && fieldAt pk 40 2 ≤ 4096 && fieldAt pk 40 2 % 16 = 0 && fieldAt pk 42 2 = 0 &&
  1 ≤ fieldAt pk 44 4 && fieldAt pk 56 8 % 4 = 0 && fieldAt pk 64 4 ≤ 2 ^ 24 && fieldAt pk 68 1 ≤ 1 && zeroAt pk 69 3 &&
  zeroAt pk 80 16

/-- Neighbourhood sizes in force: preferred width and height, fallback width and height, 0 for none (R340). -/
def sizesOf (pk d : List Byte) : Nat × Nat × Nat × Nat :=
  let p : Nat × Nat := if fieldAt pk 34 1 ≠ 0 then (fieldAt pk 34 1, fieldAt pk 35 1) else (fieldAt d 24 1, fieldAt d 25 1)
  let f : Nat × Nat := if fieldAt pk 36 1 = 255 || p.1 = 0 then (0, 0)
                       else if fieldAt pk 36 1 ≠ 0 then (fieldAt pk 36 1, fieldAt pk 37 1) else (fieldAt d 26 1, fieldAt d 27 1)
  (p.1, p.2, f.1, f.2)

/-- R340: sizes of at most 24, a fallback that divides, and a grid that fills. -/
def sizesOk (pk d : List Byte) : Bool :=
  let z := sizesOf pk d
  let grid := fieldAt pk 44 4
  z.1 = 0 || (z.1 * z.2.1 ≤ 24 && z.2.2.1 * z.2.2.2 ≤ 24 &&
    (if z.2.2.1 = 0 then grid % (z.1 * z.2.1) = 0
     else z.1 % z.2.2.1 = 0 && z.2.1 % z.2.2.2 = 0 && grid % (z.2.2.1 * z.2.2.2) = 0))

/-- A reference names a queue that is FREE or another context's. -/
def State.foreign (s : State) (c : Nat) (refs : List (Nat × Nat)) : Bool :=
  refs.any (fun x => match s.getQueue x.1 with
    | some q => q.ctx ≠ c || q.st = .free
    | none => true)

/-- Why a packet is REFUSED at parsing: the first of reasons 1 to 4 and 6 (R343). -/
def State.refusal (s : State) (c : Nat) (pk : List Byte) (refs : List (Nat × Nat)) : Option Nat :=
  let ty := fieldAt pk 0 1
  let obj := (s.getObj (fieldAt pk 24 8)).bind (fun o => if o.ctx = c then some o else none)
  let loaded := match obj with
    | some o => o.st = .loaded || (ty = 3 && o.st = .quarantined)
    | none => false
  if (ty = 1 || ty = 3) && !loaded then some 1
  else if !commonOk pk then some 2
  else if ty = 1 then
    match obj with
    | none => some 1
    | some o =>
      if !launchOk pk then some 2
      else
        let k := fieldAt pk 32 2
        if k < o.kernelCount && fieldAt (o.desc k) 37 1 = 0 && fieldAt pk 48 8 ≠ 0 then some 2
        else if k ≥ o.kernelCount then some 3
        else if !sizesOk pk (o.desc k) then some 4
        else if s.foreign c refs then some 6 else none
  else if s.foreign c refs then some 6 else none

def kindOf (ty : Nat) : NodeKind := if ty = 1 then .launch else if ty = 2 then .load else if ty = 3 then .unload else .join

/-- A node made from a packet. -/
def mkNode (q : Queue) (id stamp : Nat) (pk : List Byte) : Node :=
  { id := id, ctx := q.ctx, queue := q.id, ticket := q.ticket, stamp := stamp, prio := q.prio, stage := 3, kind := kindOf (fieldAt pk 0 1),
    packet := pk, tag := fieldAt pk 4 4, compl := fieldAt pk 8 8, cscope := fieldAt pk 16 1, irq := fieldAt pk 2 1 / 2 % 2 = 1, pred := 0,
    succs := [], obj := fieldAt pk 24 8, kernel := fieldAt pk 32 2, triple := none, nextWgx := 0, nextNbx := 0, startDie := none,
    args := [], feat := 0, dir := none, dirGen := 0, running := 0, halted := false, passedOver := 0, entered := [], outcome := none, loading := none }

/-- Nodes of the pool (R345). -/
def State.poolNodes (s : State) : Nat := s.nodes.countP Node.inPool

/-- Adds the edges of a node's references to tickets that are nodes of the pool (R344). -/
def edgesGo (n : Nat) : List (Nat × Nat) → State → State
  | [], s => s
  | (q, k) :: r, s =>
    match findBy (fun (x : Node) => x.queue = q && x.ticket = k && x.inPool) s.nodes, s.getNode n with
    | some p, some x => edgesGo n r ((s.putNode { p with succs := p.succs ++ [n] }).putNode { x with pred := x.pred + 1 })
    | _, _ => edgesGo n r s

/-- A packet enters the pool as a node, or completes REFUSED. -/
def State.nodeEnters (s : State) (q : Queue) (pk : List Byte) (refs : List (Nat × Nat)) : State :=
  let n := mkNode q s.nextId s.nextStamp pk
  let s1 := ({ s with nextId := s.nextId + 1 }.putQueue { q with ticket := q.ticket + 1 }).advance q.id pk.length
  match s.refusal q.ctx pk refs with
  | some why => s1.nodeEnd n 3 why n.value
  | none =>
    let s2 := edgesGo n.id refs { s1 with nodes := s1.nodes ++ [n], nextStamp := s.nextStamp + 1, passDue := true }
    match s2.getNode n.id with
    | some x => if x.pred = 0 then s2.nodeReady n.id else s2
    | none => s2

/-- Moves a queue to ERROR (R337). -/
def Queue.fail (q : Queue) (why off : Nat) : Queue := { q with st := .error, err := why, eoff := off / 64, seq := q.seq + 2 }

/-- A LAUNCH of a quarantined object faults its context (R321 item 5, R343). -/
def State.launchesQuarantined (s : State) (c : Nat) (pk : List Byte) : Bool :=
  fieldAt pk 0 1 = 1 && (match s.getObj (fieldAt pk 24 8) with
    | some o => o.ctx = c && o.st = .quarantined
    | none => false)

/-- A packet whose references to other queues are not all parsed is held, unless it is refused (R344). A withdrawn ticket counts as complete
(R357). -/
def State.packetHeld (s : State) (q : Queue) (pk : List Byte) (refs : List (Nat × Nat)) : Bool :=
  (s.refusal q.ctx pk refs).isNone && refs.any (fun x => match s.getQueue x.1 with
    | some p => x.2 ≥ p.ticket && !p.withdrawn.any (fun y => y.2 = x.2)
    | none => false)

/-- The parser may go on with a queue. -/
def State.mayParse (s : State) (q : Queue) : Bool :=
  q.st = .active && s.bootStage = 4 && q.ridx + 64 ≤ q.widx && (match s.getCtx q.ctx with
    | some x => x.st = .running && s.poolUsed q.ctx < x.quota && s.poolNodes < 16384
    | none => false)

/-- A queue has a parseable packet at RIDX (R346): whole, in memory of this package that is there, and not held. -/
def State.parseable (s : State) (q : Queue) : Bool :=
  let off := q.ridx % 2 ^ q.log2sz
  s.mayParse q && (match s.memGet q.ctx (q.base + off) 64 with
    | none => false
    | some h =>
      (headerFault h off (2 ^ q.log2sz)).isSome ||
      q.ridx + 64 * fieldAt h 1 1 ≤ q.widx && (fieldAt h 0 1 = 0 || q.withdrawn.any (fun y => y.1 = q.ridx) ||
        (match s.memGet q.ctx (q.base + off) (64 * fieldAt h 1 1) with
         | none => false
         | some pk => !s.packetHeld q pk (packetRefs pk q.id q.ticket))))

/-- A queue is served before another (R346): it has the higher PRIO, or the same and comes first in the rotation after the last one served. -/
def State.servedBefore (s : State) (p q : Queue) : Bool :=
  let turn := fun (x : Queue) => match tabGet q.prio s.lastServed with
    | some l => if x.id > l then x.id else x.id + 4096
    | none => x.id
  p.prio > q.prio || p.prio = q.prio && turn p < turn q

/-- It is a queue's turn: no queue with a parseable packet comes before it (R346). -/
def State.parseTurn (s : State) (q : Queue) : Bool := s.queues.all (fun p => !(s.servedBefore p q && s.parseable p))

/-- The parser serves the packet at RIDX of a queue, of a type `want` (R337 to R344). A faulty header moves the queue to
ERROR, and a withdrawn packet is skipped, whatever the type. A packet whose references are not parsed yet is held. -/
def State.parse (s : State) (qn want : Nat) : State :=
  match s.getQueue qn with
  | none => s
  | some q =>
    if !s.mayParse q || !s.parseTurn q then s
    else
      let size := 2 ^ q.log2sz
      let off := q.ridx % size
      match s.fwRead q.ctx (q.base + off) 64 with
      | .bad s1 => s1
      | .wait s1 => s1
      | .ok s1 h =>
        let served := { s1.fwClear q.ctx with lastServed := tabSet q.prio qn s1.lastServed }
        match headerFault h off size with
        | some why => served.putQueue (q.fail why off)
        | none =>
          let n := 64 * fieldAt h 1 1
          if q.ridx + n > q.widx then s
          else if fieldAt h 0 1 = 0 then (if want = 0 then served.advance qn n else s)
          else if q.withdrawn.any (fun y => y.1 = q.ridx) then
            (served.putQueue { q with ticket := q.ticket + 1, withdrawn := q.withdrawn.filter (fun y => y.1 ≠ q.ridx) }).advance qn n
          else
            match s1.fwRead q.ctx (q.base + off) n with
            | .bad s2 => s2
            | .wait s2 => s2
            | .ok _ pk =>
              let refs := packetRefs pk qn q.ticket
              if refs.any (fun x => x.1 = qn && x.2 ≥ q.ticket) then served.putQueue (q.fail 5 off)
              else if fieldAt h 0 1 ≠ want then s
              else if s.launchesQuarantined q.ctx pk then served.nodeFatal (mkNode q 0 0 pk) clsIntegrity 1
              else if s.packetHeld q pk refs then s
              else served.nodeEnters q pk refs

def execParsePad (q : Nat) (s : State) : Host.Outcome State Fault Refusal := .next (s.parse q 0)
def execParseLaunch (q : Nat) (s : State) : Host.Outcome State Fault Refusal := .next (s.parse q 1)
def execParseLoad (q : Nat) (s : State) : Host.Outcome State Fault Refusal := .next (s.parse q 2)
def execParseUnload (q : Nat) (s : State) : Host.Outcome State Fault Refusal := .next (s.parse q 3)
def execParseJoin (q : Nat) (s : State) : Host.Outcome State Fault Refusal := .next (s.parse q 4)

/-! Kicks (R335, R336). -/

/-- A host kick; ordered by PCIe after the host's earlier writes. -/
def execQueKick (q : Nat) (w : BitVec 64) (s : State) : Host.Outcome State Fault Refusal :=
  .next (s.hostAct (.queKick q w) (fun s => { s.kick q w.toNat none with passDue := true }))

/-! Withdrawal (R357 to R359). -/

/-- The unparsed packets of a queue with a tag: (start, ticket, header), from a position on. A page that a header lies on is waited for; one that
is unusable ends the search in its queue. -/
def withdrawWalk (q : Queue) (tag : Nat) : Nat → Nat → Nat → State → Fw (List (Nat × Nat × List Byte))
  | 0, _, _, s => .ok s []
  | k + 1, pos, ticket, s =>
    if pos + 64 > q.widx then .ok s []
    else
      match s.fwRead q.ctx (q.base + pos % 2 ^ q.log2sz) 64 with
      | .wait s1 => .wait s1
      | .bad s1 => .ok s1 []
      | .ok s1 h =>
        if (headerFault h (pos % 2 ^ q.log2sz) (2 ^ q.log2sz)).isSome then .ok s1 []
        else
          let ty := fieldAt h 0 1
          match withdrawWalk q tag k (pos + 64 * fieldAt h 1 1) (if ty = 0 then ticket else ticket + 1) s1 with
          | .ok s2 rest =>
            .ok s2 (if ty ≠ 0 && fieldAt h 4 4 = tag && !q.withdrawn.any (fun y => y.1 = pos) then (pos, ticket, h) :: rest else rest)
          | x => x

/-- The same for a list of queues. -/
def withdrawFind (tag : Nat) : List Queue → State → Fw (List (Nat × List (Nat × Nat × List Byte)))
  | [], s => .ok s []
  | q :: r, s =>
    match withdrawWalk q tag ((q.widx - q.ridx) / 64 + 1) q.ridx q.ticket s with
    | .ok s1 l =>
      match withdrawFind tag r s1 with
      | .ok s2 m => .ok s2 ((q.id, l) :: m)
      | x => x
    | .wait s1 => .wait s1
    | .bad s1 => .bad s1

/-- The withdrawn packets of one queue complete. -/
def withdrawPackets (qn : Nat) : List (Nat × Nat × List Byte) → State → State
  | [], s => s
  | (pos, ticket, h) :: r, s =>
    match s.getQueue qn with
    | none => s
    | some q =>
      let n := { mkNode q s.nextId 0 h with ticket := ticket }
      let s1 := { s with nextId := s.nextId + 1 }.putQueue { q with withdrawn := q.withdrawn ++ [(pos, ticket)] }
      withdrawPackets qn r (s1.nodeEnd n 2 0 n.value)

def withdrawQueues (tag : Nat) : List (Nat × List (Nat × Nat × List Byte)) → State → State
  | [], s => s
  | (q, l) :: r, s => withdrawQueues tag r (withdrawPackets q l s)

def withdrawNodes : List Node → State → State
  | [], s => s
  | n :: r, s =>
    match s.getNode n.id with
    | some x => withdrawNodes r (s.nodeEnd x 2 0 x.value)
    | none => withdrawNodes r s

/-- A withdrawal at one point: every match is found first, then each completes. The answer is their number; none while a page is waited for. -/
def State.withdrawNow (s : State) (c tag : Nat) : State × Option Nat :=
  if tag = 0 then (s, some 0)
  else
    match withdrawFind tag (s.queues.filter (fun q => q.ctx = c && q.st ≠ .free)) s with
    | .bad s1 => (s1, some 0)
    | .wait s1 => (s1, none)
    | .ok s0 ps =>
      let ns := s0.nodes.filter (fun n => n.ctx = c && n.tag = tag && 3 ≤ n.stage && n.stage ≤ 5)
      let marked : State := { s0.fwClear c with nodes := s0.nodes.map (fun (n : Node) =>
        if ns.any (fun x => x.id = n.id) then { n with stage := 8, outcome := some (2, 0, n.value) } else n), passDue := true }
      (withdrawQueues tag ps (withdrawNodes ns marked), some (ns.length + (ps.map (fun x => x.2.length)).foldl (· + ·) 0))

/-- A withdrawal of the host in a context: held while the context is saved or a page is waited for, nothing where it is discarded or does not
exist. -/
def State.withdraw (s : State) (c tag : Nat) : State :=
  match s.getCtx c with
  | none => s
  | some x =>
    if x.st = .faulted then s
    else if x.st = .saved || !x.heldWithdrawals.isEmpty then s.putCtx { x with heldWithdrawals := x.heldWithdrawals ++ [tag] }
    else
      match s.withdrawNow c tag with
      | (s1, some _) => s1
      | (s1, none) => (match s1.getCtx c with
        | some y => s1.putCtx { y with heldWithdrawals := [tag] }
        | none => s1)

/-- The withdrawals held take effect, in their order, as far as they can go. -/
def withdrawHeld (c : Nat) : List Nat → State → State
  | [], s => (match s.getCtx c with
    | some x => s.putCtx { x with heldWithdrawals := [] }
    | none => s)
  | t :: r, s =>
    match s.withdrawNow c t with
    | (s1, some _) => withdrawHeld c r s1
    | (s1, none) => (match s1.getCtx c with
      | some x => s1.putCtx { x with heldWithdrawals := t :: r }
      | none => s1)

/-- `QUE_WDRAW`. -/
def execQueWdraw (x : BitVec 64) (s : State) : Host.Outcome State Fault Refusal :=
  .next (s.hostAct (.queWdraw x) (fun s => s.withdraw (x.toNat / 2 ^ 32 % 256) (x.toNat % 2 ^ 32)))

/-- `wdraw`: the withdrawal is performed and D written in one step; the team waits in STALL for a page that it must read. -/
def execWdraw (e : Enc) (s : State) : Host.Outcome State Fault Refusal :=
  issueKept e (fun r i =>
    match r.sync.withdrawNow r.w.ctx ((r.read i e.a 0 32 0 false).2 % 2 ^ 32) with
    | (s1, some n) => (r.load s1).writeEach e.d false n
    | (s1, none) => (r.load s1).stall .withdraw) s

end Sys2Proof.Machine
end

