-- ==== Sys2Proof/Machine/Rpart.lean ====
section
/-! DEFINITION. The repartition collective `rpart` (R431 to R440). The manual gives its packets no layout: here an RPART packet
carries a kind, the ROUND and a piece of one of three byte strings (histogram, counts, records), and a CONTROL packet announces
a member's issue. -/
namespace Sys2Proof.Machine

/-! The fields of the block (R432). -/

def rpMode (b : List Byte) : Nat := fieldAt b 8 1
def rpDims (b : List Byte) : Nat := fieldAt b 10 1
def rpBits (b : List Byte) : Nat := fieldAt b 11 1
def rpRsz (b : List Byte) : Nat := fieldAt b 16 4
def rpRound (b : List Byte) : Nat := fieldAt b 28 4
def rpSrc (b : List Byte) : Nat := fieldAt b 32 8
def rpNrec (b : List Byte) : Nat := fieldAt b 40 4
def rpRcap (b : List Byte) : Nat := fieldAt b 44 4

/-- KW, and NBIN (R433). -/
def rpKw (b : List Byte) : Nat := rpDims b * rpBits b
def rpNbin (b : List Byte) : Nat := 2 ^ min (rpKw b) (fieldAt b 12 1)

/-! Keys (R433). -/

def xorAt (x : List Nat) (d v : Nat) : List Nat := modNth (fun y => y ^^^ v) x d

/-- The inner loop of the Hilbert transposition over dimensions `d` to the last. -/
def hilbDims (q : Nat) : Nat → Nat → List Nat → List Nat
  | 0, _, x => x
  | k + 1, d, x =>
    if x.getD d 0 &&& q ≠ 0 then hilbDims q k (d + 1) (xorAt x 0 (q - 1))
    else
      let t := (x.getD 0 0 ^^^ x.getD d 0) &&& (q - 1)
      hilbDims q k (d + 1) (if d = 0 then x else xorAt (xorAt x 0 t) d t)

/-- The loop over q = 2^k, …, 2. -/
def hilbGo (n : Nat) : Nat → List Nat → List Nat
  | 0, x => x
  | k + 1, x => hilbGo n k (hilbDims (2 ^ (k + 1)) n 0 x)

/-- Each dimension XORed with the one before it, in ascending order. -/
def hilbGray : Nat → Nat → List Nat → List Nat
  | 0, _, x => x
  | k + 1, d, x => hilbGray k (d + 1) (xorAt x d (x.getD (d - 1) 0))

def hilbert (bits : Nat) (x : List Nat) : List Nat :=
  let n := x.length
  let y := hilbGray (n - 1) 1 (hilbGo n (bits - 1) x)
  let t := ((List.range (bits - 1)).map (fun k => if y.getD (n - 1) 0 &&& 2 ^ (k + 1) ≠ 0 then 2 ^ (k + 1) - 1 else 0)).foldl
    (· ^^^ ·) 0
  y.map (fun v => v ^^^ t)

/-- The bits of the coordinates interleaved, dimension 0 most significant at each level. -/
def interleave (x : List Nat) : Nat → Nat
  | 0 => 0
  | k + 1 =>
    -- bits k, k-1, …, 0: level k first
    let level := x.foldl (fun a v => 2 * a + v / 2 ^ k % 2) 0
    level * 2 ^ (x.length * k) + interleave x k

/-- The key of a record. -/
def rpKey (b rec : List Byte) : Nat :=
  let x := (List.range (rpDims b)).map (fun d => min (fieldAt rec (fieldAt b 20 4 + 4 * d) 4) (2 ^ rpBits b - 1))
  interleave (if fieldAt b 9 1 = 1 then hilbert (rpBits b) x else x) (rpBits b)

def rpBin (b rec : List Byte) : Nat := rpKey b rec / 2 ^ (rpKw b - fieldAt b 12 1)
def rpWeight (b rec : List Byte) : Nat := if fieldAt b 24 4 = 0xFFFFFFFF then 1 else fieldAt rec (fieldAt b 24 4) 4

/-! Boundaries and grants (R435). -/

/-- This member's histogram: the sum of weights and the record count of each bin, 16 bytes each. -/
def rpHist (b : List Byte) (recs : List (List Byte)) : List Byte :=
  (List.range (rpNbin b)).flatMap (fun n =>
    let mine := recs.filter (fun r => rpBin b r = n)
    natBytes 8 ((mine.map (rpWeight b)).foldl (· + ·) 0) ++ natBytes 8 mine.length)

/-- H: the sums over members, or the record counts where every weight is 0. -/
def rpSums (nbin : Nat) (hs : List (List Byte)) : List Nat :=
  let sum := fun (o : Nat) => (List.range nbin).map (fun n => (hs.map (fun h => fieldAt h (16 * n + o) 8)).foldl (· + ·) 0)
  if (sum 0).foldl (· + ·) 0 = 0 then sum 8 else sum 0

/-- The smallest b with P × (H[0] + … + H[b − 1]) ≥ p × W. -/
def rpBound (h : List Nat) (pw : Nat) (np : Nat) : Nat → Nat → Nat
  | b, acc =>
    match h with
    | [] => b
    | x :: r => if np * acc ≥ pw then b else rpBound r pw np (b + 1) (acc + x)

def rpBounds (nbin np : Nat) (h : List Nat) : List Nat :=
  let w := h.foldl (· + ·) 0
  (List.range (np + 1)).map (fun p => if p = 0 then 0 else if p = np then nbin else rpBound h (p * w) np 0 0)

/-- The rank that owns a bin. -/
def rpOwner (bounds : List Nat) (np bin : Nat) : Nat :=
  ((List.range np).filter (fun p => bounds.getD p 0 ≤ bin && bin < bounds.getD (p + 1) 0)).headD 0

/-- This member's counts: its RCAP, then cnt[s][q] for each rank q, 4 bytes each. -/
def rpCounts (b : List Byte) (bounds : List Nat) (np : Nat) (recs : List (List Byte)) : List Byte :=
  natBytes 4 (rpRcap b) ++ (List.range np).flatMap (fun q =>
    natBytes 4 (recs.filter (fun r => rpOwner bounds np (rpBin b r) = q)).length)

/-- cnt[s][q], RCAP(q) and off[s] at receiver q, from the members' counts in rank order. -/
def cntAt (cs : List (List Byte)) (s q : Nat) : Nat := fieldAt (cs.getD s []) (4 + 4 * q) 4
def rcapAt (cs : List (List Byte)) (q : Nat) : Nat := fieldAt (cs.getD q []) 0 4
def offAt (cs : List (List Byte)) (s q : Nat) : Nat := ((List.range s).map (fun i => cntAt cs i q)).foldl (· + ·) 0

/-- Records of rank s that receiver q takes. -/
def sentTo (cs : List (List Byte)) (s q : Nat) : Nat := min (cntAt cs s q) (rcapAt cs q - offAt cs s q)

/-- Some member keeps a record. -/
def anyKept (cs : List (List Byte)) (np : Nat) : Bool :=
  (List.range np).any (fun s => (List.range np).any (fun q => sentTo cs s q < cntAt cs s q))

/-- The records of rank `s` owned by `q`, in index order; those that `q` takes, and all that no receiver takes. -/
def ownedBy (b : List Byte) (bounds : List Nat) (np q : Nat) (recs : List (List Byte)) : List (List Byte) :=
  recs.filter (fun r => rpOwner bounds np (rpBin b r) = q)

/-- The kept records of a member in index order. -/
def keptOf (b : List Byte) (bounds : List Nat) (np s : Nat) (cs : List (List Byte)) : List (List Byte) → List Nat → List (List Byte)
  | [], _ => []
  | r :: rest, seen =>
    let q := rpOwner bounds np (rpBin b r)
    let j := seen.getD q 0
    let more := keptOf b bounds np s cs rest (modNth (· + 1) seen q)
    if j < sentTo cs s q then more else r :: more

/-- The result area (R436). -/
def rpRes (members : List Nat) (me : Nat) (bounds : List Nat) (cs : List (List Byte)) : List Byte :=
  let rank := fun (p : Nat) => (members.idxOf? p)
  (List.range 256).flatMap (fun i => natBytes 8 (bounds.getD i 0)) ++
  (List.range 256).flatMap (fun p => match rank p, rank me with
    | some q, some m => natBytes 4 (sentTo cs m q) ++ natBytes 4 (cntAt cs m q - sentTo cs m q) ++ natBytes 4 (sentTo cs q m) ++ natBytes 4 0
    | _, _ => natBytes 16 0)

/-! Issue (R431, R432, R439). -/

def rpRanges (b : List Byte) : List Rng :=
  [rng 4 (rpSrc b) [] (rpNrec b * rpRsz b) false, rng 4 (fieldAt b 48 8) [] (rpRcap b * rpRsz b) true,
   rng 4 (fieldAt b 56 8) [] (rpNrec b * rpRsz b) true, rng 4 (fieldAt b 64 8) [] 6144 true]

def RpartBody.fresh (b : List Byte) : RpartBody :=
  { block := b, stage := 0, bounds := [], hist := [], cnts := [], recs := [], recv := 0, kept := false, why := 0 }

def Run.rpart (r : Run) (i k a : Nat) : Run :=
  let r0 := r.copyWaits i k 4
  if r0.halt ≠ .go then r0
  else
    let x := r0.readBlock i a
    let r1 := x.1
    if r1.halt ≠ .go then r1
    else
      let why := headReason 6 x.2
      if why ≠ 0 then (r1.newOp k 0 .rejected [] (.rpart { RpartBody.fresh x.2 with why := why })).arriveNow k
      else match r1.badInterval i (rpRanges x.2) with
        | some f => r1.fatalAt i f
        | none => r1.newOp k (fieldAt x.2 4 1) .busy (r1.locksOf (rpRanges x.2)) (.rpart (RpartBody.fresh x.2))

/-- `rpart`: its issue is a release at the block's scope, `.gang` or `.sys` (R439). -/
def execRpart (e : Enc) (s : State) : Host.Outcome State Fault Refusal :=
  issue e.g e.gn (lenOf e) (fun r => match r.parts with
    | [] => r
    | i :: _ => copyIssue (max 6 (r.peekScope i (r.read i e.a 1 64 0 true).2))
        (fun r i => r.rpart i (tkNo e.d) (r.read i e.a 1 64 0 true).2) r) s

/-! Members and packets (R434). -/

/-- The members of a context's collective, in rank order. -/
def State.rpMembers (s : State) (c : Nat) : List Nat :=
  match s.getCtx c with
  | some x => if x.gang && !x.gangMembers.isEmpty then x.gangMembers else [s.pkg]
  | none => [s.pkg]

/-- The fields the members compare: MODE to HBITS, RSZ, COFF, WOFF, and in fetch mode the boundaries. -/
def rpFields (b : List Byte) (bounds : List Nat) : List Byte :=
  (b.drop 8).take 5 ++ (b.drop 16).take 12 ++ (if rpMode b = 1 then bounds.flatMap (fun x => natBytes 8 x) else [])

/-- An RPART packet: a piece of one byte string. -/
def rpPacket (dst ctx scope kind round rid : Nat) (conf : Bool) (bs : List Byte) : Packet :=
  { blankPacket dst ctx with conf := conf, scope := scope, rid := rid, payload := natBytes 4 kind ++ natBytes 4 round ++ bs }

/-- A byte string in pieces of at most 240 bytes. -/
def pieces : Nat → List Byte → List (List Byte)
  | 0, _ => []
  | k + 1, bs => if bs.isEmpty then [] else bs.take 240 :: pieces k (bs.drop 240)

def piecesOf (bs : List Byte) : List (List Byte) := pieces (bs.length / 240 + 1) bs

/-- Sends a byte string of one kind to a member, acknowledgements outstanding for the operation where it carries records. -/
def State.rpSend (s : State) (o : Op) (b : RpartBody) (conf : Bool) (dst kind : Nat) (bs : List Byte) : State :=
  (piecesOf bs).foldl (fun s p =>
    let q := s.nextId
    let s1 : State := { s with nextId := q + 1 }
    let s2 := s1.send .rpart (rpPacket dst o.ctx o.scope kind (rpRound b.block) (ridOf o.core 0 0 q) conf p)
    { s2 with ops := s2.ops.map (fun y => if y.id = o.id then { y with unacked := y.unacked ++ ackKeys q false o.ppc (rpSrc b.block) [dst] } else y) }) s

/-- CONF of the pages an `rpart` moves: that of its source. -/
def State.rpConf (s : State) (o : Op) (b : RpartBody) : Bool :=
  (((s.getCtx o.ctx).bind (fun x => x.walk (rpSrc b.block))).map Leaf.conf).getD false

/-- Packets to every other member can go now. -/
def State.rpBar (s : State) (o : Op) (b : RpartBody) : EngOut Unit :=
  let others := (s.rpMembers o.ctx).filter (fun p => p ≠ s.pkg)
  let l : Leaf := { va := 0, sz := 0, w := true, x := false, res := true, mig := false, mir := false, conf := s.rpConf o b, d := false,
                    zf := false, frame := 0, home := 0, peer := 0, slot := none, hostFrame := false, heldStores := [] }
  s.engineBar o l 256 (rpSrc b.block) others

/-- Replaces the body of an operation. -/
def State.setRpart (s : State) (id : Nat) (f : RpartBody → RpartBody) : State :=
  { s with ops := s.ops.map (fun o => if o.id = id then { o with body := match o.body with
      | .rpart b => .rpart (f b)
      | x => x } else o) }

def Op.rpart (o : Op) : Option RpartBody :=
  match o.body with
  | .rpart b => some b
  | _ => none

/-- The records at SRC. -/
def State.rpRecords (s : State) (o : Op) (b : RpartBody) : EngOut (List (List Byte)) :=
  match s.engineRead o 4 (rpSrc b.block) (rpNrec b.block * rpRsz b.block) with
  | .ok s1 bs => .ok s1 ((List.range (rpNrec b.block)).map (fun i => (bs.drop (i * rpRsz b.block)).take (rpRsz b.block)))
  | .wait s1 => .wait s1
  | .fault f => .fault f

/-- The announcements of a round that has ended here are forgotten. -/
def State.rpForget (s : State) (c round : Nat) : State :=
  match s.getCtx c with
  | some x => s.putCtx { x with rpartJoins := x.rpartJoins.filter (fun j => j.2.1 ≠ round) }
  | none => s

/-- The BUSY operations of a context's round on this package: more than one where the round has been issued twice. -/
def State.rpOfRound (s : State) (c round : Nat) : List Op :=
  s.ops.filter (fun o => o.ctx = c && o.st = .busy && (o.rpart.map (fun b => rpRound b.block)) = some round)

def State.rpReject (s : State) (o : Op) (b : RpartBody) (why : Nat) : State :=
  ((s.rpOfRound o.ctx (rpRound b.block)).foldl (fun s y => match y.rpart with
    | some c => s.opEnd { y with body := .rpart { c with why := why } } .rejected
    | none => s) s).rpForget o.ctx (rpRound b.block)

/-- Some member has announced the round twice: one ROUND was issued twice on its package while the first was BUSY (R434). -/
def State.rpTwice (s : State) (o : Op) (b : RpartBody) : Bool :=
  match s.getCtx o.ctx with
  | some x => (s.rpMembers o.ctx).any (fun p => x.rpartJoins.countP (fun j => j.1 = p && j.2.1 = rpRound b.block) > 1)
  | none => false

/-- Announcing the issue to the other members (stage 0): in fetch mode the boundaries are read first. -/
def State.rpAnnounce (s : State) (o : Op) (b : RpartBody) : State :=
  let np := (s.rpMembers o.ctx).length
  let go := fun (s : State) (bounds : List Nat) =>
    match s.rpBar o b with
    | .fault f => s.opFail o f
    | .wait s1 => s1
    | .ok s1 _ =>
      let fields := rpFields b.block bounds
      let others := (s1.rpMembers o.ctx).filter (fun p => p ≠ s1.pkg)
      let s2 := others.foldl (fun (s : State) p => s.send (.control (.rpartJoin o.ctx (rpRound b.block) fields)) (blankPacket p o.ctx)) s1
      let s3 := match s2.getCtx o.ctx with
        | some x => s2.putCtx { x with rpartJoins := x.rpartJoins ++ [(s2.pkg, rpRound b.block, fields)] }
        | none => s2
      s3.setRpart o.id (fun y => { y with stage := 1, bounds := bounds })
  if rpMode b.block = 1 then
    match s.engineRead o 4 (fieldAt b.block 64 8) (8 * (np + 1)) with
    | .fault f => s.opFail o f
    | .wait s1 => s1
    | .ok s1 bs => go s1 ((List.range (np + 1)).map (fun i => fieldAt bs (8 * i) 8))
  else go s []

/-- Boundaries from B[0] = 0 to B[P] = NBIN without decreasing (R438). -/
def boundsOk (nbin np : Nat) (bs : List Nat) : Bool :=
  bs.getD 0 1 = 0 && bs.getD np 0 = nbin && (List.range np).all (fun i => bs.getD i 0 ≤ bs.getD (i + 1) 0)

/-- Adds bytes to a member's string. -/
def addBytes (p : Nat) (bs : List Byte) (l : List (Nat × List Byte)) : List (Nat × List Byte) :=
  tabSet p ((tabGet p l).getD [] ++ bs) l

/-- Sends a string to every other member and takes it as received from this one. -/
def State.rpSpread (s : State) (o : Op) (b : RpartBody) (kind : Nat) (bs : List Byte) : State :=
  ((s.rpMembers o.ctx).filter (fun p => p ≠ s.pkg)).foldl (fun s p => s.rpSend o b (s.rpConf o b) p kind bs) s

/-- Stage 1: every member has issued the ROUND, and the fields are compared (R434). -/
def State.rpCompare (s : State) (o : Op) (b : RpartBody) : State :=
  match s.getCtx o.ctx with
  | none => s
  | some x =>
    let mine := x.rpartJoins.filter (fun j => j.2.1 = rpRound b.block)
    let ms := s.rpMembers o.ctx
    if !ms.all (fun p => mine.any (fun j => j.1 = p)) then s
    else if mine.any (fun j => j.2.2 ≠ rpFields b.block b.bounds) then s.rpReject o b 9
    else if rpMode b.block = 1 && !boundsOk (rpNbin b.block) ms.length b.bounds then s.rpReject o b 5
    else s.setRpart o.id (fun y => { y with stage := 2 })

/-- A stage's strings are here from every member, each of a length. -/
def haveAll (ms : List Nat) (l : List (Nat × List Byte)) (n : Nat) : Bool := ms.all (fun p => ((tabGet p l).getD []).length ≥ n)

/-- Stages 2 to 4: histogram, boundaries and counts, records. -/
def State.rpProduce (s : State) (o : Op) (b : RpartBody) : State :=
  let ms := s.rpMembers o.ctx
  let np := ms.length
  match s.rpBar o b with
  | .fault f => s.opFail o f
  | .wait s1 => s1
  | .ok s1 _ =>
    match s1.rpRecords o b with
    | .fault f => s1.opFail o f
    | .wait s2 => s2
    | .ok s2 recs =>
      if b.stage = 2 then
        if rpMode b.block = 1 then
          let c := rpCounts b.block b.bounds np recs
          (s2.rpSpread o b 2 c).setRpart o.id (fun y => { y with stage := 4, cnts := addBytes s2.pkg c y.cnts })
        else
          let h := rpHist b.block recs
          (s2.rpSpread o b 1 h).setRpart o.id (fun y => { y with stage := 3, hist := addBytes s2.pkg h y.hist })
      else if b.stage = 3 then
        if haveAll ms b.hist (16 * rpNbin b.block) then
          let bounds := rpBounds (rpNbin b.block) np (rpSums (rpNbin b.block) (ms.map (fun p => (tabGet p b.hist).getD [])))
          let c := rpCounts b.block bounds np recs
          (s2.rpSpread o b 2 c).setRpart o.id (fun y => { y with stage := 4, bounds := bounds, cnts := addBytes s2.pkg c y.cnts })
        else s
      else if b.stage = 4 then
        if haveAll ms b.cnts (4 + 4 * np) then
          let cs := ms.map (fun p => (tabGet p b.cnts).getD [])
          let me := (ms.idxOf? s2.pkg).getD 0
          let out := fun (q : Nat) => ((ownedBy b.block b.bounds np q recs).take (sentTo cs me q)).flatten
          let s3 := (List.range np).foldl (fun (s : State) q =>
            if q = me then s else s.rpSend o b (s.rpConf o b) (ms.getD q 0) 3 (out q)) s2
          s3.setRpart o.id (fun y => { y with stage := 5, recs := addBytes s2.pkg (out me) y.recs, kept := anyKept cs np })
        else s
      else s

/-- `rpartJoin`: one stage of the collective forward, if it can go. -/
def execRpartJoin (id : Nat) (s : State) : Host.Outcome State Fault Refusal :=
  .next (match s.getOp id with
    | none => s
    | some o =>
      match o.rpart with
      | none => s
      | some b =>
        if o.st ≠ .busy then s
        else if b.stage = 0 then s.rpAnnounce o b
        else if s.rpTwice o b then s.rpReject o b 9
        else if b.stage = 1 then s.rpCompare o b
        else s.rpProduce o b)

/-- Writes a list of (address, bytes) for an operation. -/
def State.writeRuns (s : State) (o : Op) : List (Nat × List Byte) → EngOut Unit
  | [] => .ok s ()
  | (a, bs) :: r =>
    match s.engineWrite o 4 (a : Int) bs with
    | .ok s1 _ => s1.writeRuns o r
    | x => x

/-- Every range of a list of writes is ready. -/
def State.runsReady (s : State) (o : Op) : List (Nat × List Byte) → EngOut Unit
  | [] => .ok s ()
  | (a, bs) :: r =>
    match s.engineCanWrite o 4 (a : Int) bs.length with
    | .ok s1 _ => s1.runsReady o r
    | x => x

/-- `rpartComplete` (R436, R437): the records received go to RCV, the kept ones to OVF, RES is written; once every record sent
has its ACK, the status changes. -/
def execRpartComplete (id : Nat) (s : State) : Host.Outcome State Fault Refusal :=
  .next (match s.getOp id with
    | none => s
    | some o =>
      match o.rpart with
      | none => s
      | some b =>
        let ms := s.rpMembers o.ctx
        let np := ms.length
        let me := (ms.idxOf? s.pkg).getD 0
        let cs := ms.map (fun p => (tabGet p b.cnts).getD [])
        if o.st ≠ .busy then s
        else if s.rpTwice o b then s.rpReject o b 9
        else if b.stage = 6 then
          (if o.unacked = [] then
            ((s.release o.core o.ctx o.scope).opEnd o (if b.kept then .overflow else .done)).rpForget o.ctx (rpRound b.block) else s)
        else if b.stage ≠ 5 || o.unacked ≠ [] then s
        else if !(List.range np).all (fun q => ((tabGet (ms.getD q 0) b.recs).getD []).length ≥ sentTo cs q me * rpRsz b.block) then s
        else
          match s.rpRecords o b with
          | .fault f => s.opFail o f
          | .wait s1 => s1
          | .ok s1 recs =>
            let rcv := (List.range np).map (fun q =>
              (fieldAt b.block 48 8 + offAt cs q me * rpRsz b.block, (tabGet (ms.getD q 0) b.recs).getD []))
            let kept := (keptOf b.block b.bounds np me cs recs (List.replicate np 0)).flatten
            let runs := rcv ++ [(fieldAt b.block 56 8, kept), (fieldAt b.block 64 8, rpRes ms s1.pkg b.bounds cs)]
            match s1.runsReady o runs with
            | .fault f => s1.opFail o f
            | .wait s2 => s2
            | .ok s2 _ =>
              match s2.writeRuns o runs with
              | .fault f => s2.opFail o f
              | .wait s3 => s3
              | .ok s3 _ =>
                s3.setRpart id (fun y => { y with
                  stage := 6
                  recv := ((List.range np).map (fun q => sentTo cs q me)).foldl (· + ·) 0 }))

end Sys2Proof.Machine
end

