-- ==== Sys2Proof/Machine/Native.lean ====
section
/-! DEFINITION. The native form as native-mode objects run it (R89, R99 to R118, R122, R275 to R278, R325 to R328): clauses, bundles,
units, completion flags, commit records, the format shadow, direct mode and the alias table. A translation shows only
portable state, so portable code runs by its portable meanings. A unit's operation acts through the portable meaning of
its opcode on latches that stand in registers of index 320 and above. -/
namespace Sys2Proof.Machine

open Legal (space)

/-- Meanings by major opcode, integer units. -/
def meansInt : List (Nat × (Enc → State → Host.Outcome State Fault Refusal)) := [
  (0x000, execMov), (0x001, execMov), (0x002, execAdd), (0x003, execSub), (0x004, execAddc), (0x005, execSubb), (0x006, execMul),
  (0x007, execMulhi), (0x008, execMad), (0x009, execMadhi), (0x00A, execDiv), (0x00B, execRem), (0x00C, execNeg),
  (0x00D, execAbs), (0x00E, execMin), (0x00F, execMax), (0x010, execClamp), (0x011, execSad), (0x012, execAnd),
  (0x013, execOr), (0x014, execXor), (0x015, execNot), (0x016, execAndn), (0x017, execShl), (0x018, execShr),
  (0x019, execSar), (0x01A, execRotl), (0x01B, execRotr), (0x01C, execClz), (0x01D, execCtz), (0x01E, execPopc),
  (0x01F, execBrev), (0x020, execBfe), (0x021, execBfi), (0x022, execSel), (0x023, execSetp), (0x024, execLea)]

/-- Float units. -/
def meansFloat : List (Nat × (Enc → State → Host.Outcome State Fault Refusal)) := [
  (0x040, execFadd), (0x041, execFsub), (0x042, execFmul), (0x043, execFma), (0x044, execFmin), (0x045, execFmax),
  (0x046, execFabs), (0x047, execFneg), (0x048, execFsgn), (0x049, execFsetp), (0x04A, execFclass),
  (0x04B, execFrnd), (0x04C, execFrcp), (0x04D, execFrsq), (0x04E, execFsqrt), (0x04F, execFdiv),
  (0x050, execFexp2), (0x051, execFlog2), (0x052, execFsin), (0x053, execFcos), (0x054, execFtanh),
  (0x055, execFscale), (0x056, execFexpo), (0x07D, execFrcpa), (0x080, execCvt), (0x081, execPack),
  (0x082, execPrm), (0x083, execDot2), (0x084, execDot4), (0x085, execDot8), (0x086, execLcdec)]

/-- CTL control and the exchange unit. -/
def meansCtl : List (Nat × (Enc → State → Host.Outcome State Fault Refusal)) := [
  (0x0A1, execBrx), (0x0A3, execCallx), (0x0A4, execRet), (0x0A5, execExit), (0x0A8, execYield),
  (0x0A9, execReconv), (0x0AA, execRjoin), (0x0AB, execMpush), (0x0AC, execMinv), (0x0AD, execMpop),
  (0x0AF, execDqpop), (0x0B0, execNop), (0x0B1, execBrk), (0x0B2, execTrap), (0x0C0, execXprev), (0x0C1, execXnext),
  (0x0C2, execXbcast), (0x0C3, execXscan), (0x0C4, execXred), (0x0C5, execBallot), (0x0C6, execVote),
  (0x0C7, execXmatch), (0x0C8, execTidx), (0x0C9, execActc)]

/-- The access unit. -/
def meansLs : List (Nat × (Enc → State → Host.Outcome State Fault Refusal)) := [
  (0x0D0, execLd), (0x0D1, execSt), (0x0D2, execLdg), (0x0D3, execStsc), (0x0D4, execCst), (0x0D5, execExl),
  (0x0D6, execAtom), (0x0D7, execRed), (0x0D8, execFence), (0x0D9, execPf), (0x0DA, execCinv), (0x0DB, execCwb),
  (0x0DC, execSbind), (0x0DD, execSclose)]

/-- CTL engines and system operations, and messages. -/
def meansEngine : List (Nat × (Enc → State → Host.Outcome State Fault Refusal)) := [
  (0x100, execCpy), (0x101, execCpyt), (0x102, execCpyg), (0x103, execRingpush), (0x104, execKvpatch),
  (0x105, execRerot), (0x106, execCwait), (0x107, execCstat), (0x120, execFmt), (0x121, execNestw),
  (0x122, execPgo), (0x123, execPwait), (0x124, execPstat), (0x125, execVclr), (0x126, execVld), (0x127, execVst),
  (0x128, execVacc), (0x129, execRinginit), (0x12A, execRingstat), (0x140, execBinit), (0x141, execBarr),
  (0x142, execBwait), (0x143, execBsync), (0x144, execBlink), (0x145, execBinv), (0x146, execBtest),
  (0x150, execSrd), (0x151, execSwr), (0x152, execClk), (0x153, execNsend), (0x154, execNrecv), (0x155, execRpart), (0x156, execWdraw),
  (0x157, execProf), (0x158, execHalt), (0x159, execSleep)]

/-- The meaning by which an operation of the native form acts (R89): `movi` (0x001) moves its operand like `mov`. -/
def meansOf (op : Nat) : Option (Enc → State → Host.Outcome State Fault Refusal) :=
  if op < 0x40 then Legal.look op meansInt
  else if op < 0xA0 then Legal.look op meansFloat
  else if op < 0xD0 then Legal.look op meansCtl
  else if op < 0x100 then Legal.look op meansLs
  else Legal.look op meansEngine

/-! Trigger codes (R89, R90). Ports 1 to 6 are `fa fb ia ls xc sf`; port 0 stands for CTL. -/

def opOfTrigger (port code : Nat) : Option Nat :=
  if port = 3 then
    (if code ≤ 0x24 then some code
     else if code = 0x41 ∨ code = 0x42 ∨ code = 0x46 then some (0x080 + (code - 0x40)) else none)
  else if port = 1 ∨ port = 2 then
    (if code ≤ 0x0B ∨ code = 0x15 ∨ code = 0x16 then some (0x040 + code)
     else if code = 0x40 ∨ (0x43 ≤ code ∧ code ≤ 0x45) then some (0x080 + (code - 0x40)) else none)
  else if port = 6 then (if (0x0C ≤ code ∧ code ≤ 0x14) ∨ code = 0x3D then some (0x040 + code) else none)
  else if port = 5 then (if code ≤ 0x09 then some (0x0C0 + code) else none)
  else if port = 4 then
    (if code ≤ 0x0D then some (0x0D0 + code) else if code = 0x43 ∨ code = 0x44 then some (0x150 + (code - 0x40)) else none)
  else none

def opOfCtl (code : Nat) : Option Nat :=
  if code ≤ 0x12 then some (0x0A0 + code)
  else if 0x40 ≤ code ∧ code ≤ 0x47 then some (0x100 + (code - 0x40))
  else if 0x60 ≤ code ∧ code ≤ 0x6B then some (0x120 + (code - 0x60))
  else if 0xA0 ≤ code ∧ code ≤ 0xA6 then some (0x140 + (code - 0xA0))
  else if 0x80 ≤ code ∧ code ≤ 0x89 ∧ code ≠ 0x83 ∧ code ≠ 0x84 then some (0x150 + (code - 0x80))
  else none

/-- The operation is long-latency (R107). -/
def isLong (port op : Nat) : Bool := port = 4 || [0x00A, 0x00B, 0x04E, 0x04F].contains op

/-- Latency in cc of a long operation of `ia` and `sf`; the access unit's is timing that the manual leaves open (R107, R201). -/
def longLatency (op ty : Nat) : Nat :=
  if op = 0x00A || op = 0x00B then (if Legal.ty64 ty then 36 else 20)
  else if op = 0x04E || op = 0x04F then (if Legal.ty64 ty then 48 else 24)
  else 0

/-- Fixed latency in cc (R107); a conversion with a 64-bit type on either side is one of a 64-bit type. -/
def latencyOf (port op ty : Nat) (b : Operand) : Nat :=
  if port = 3 then (if 0x006 ≤ op ∧ op ≤ 0x009 then 4 else 2)
  else if port = 5 then 3
  else if port = 6 then 8
  else if 0x083 ≤ op ∧ op ≤ 0x085 then 6
  else if op = 0x080 then (if Legal.fmt64 (Legal.fmtSrc b) || Legal.fmt64 (Legal.fmtDst b) then 6 else 4)
  else if Legal.ty64 ty then 6 else 4

/-! M (R106). -/

def mTy (m : Nat) : Nat := m % 16
def mVar (m : Nat) : Nat := m / 16 % 8
def mHoist (m : Nat) : Bool := m / 128 % 2 = 1
def mWreg (m : Nat) : Nat := m / 256 % 256
def mFsel (m : Nat) : Nat := m / 65536 % 2
/-- SCOPE, SPACE and AOP as the access specifier of a portable word (R68, R86). -/
def mSpec (m : Nat) : Nat := m / 2 ^ 20 % 8 + 8 * (m / 2 ^ 17 % 8) + 64 * (m / 2 ^ 23 % 16)

/-- C of the portable form is the access specifier. -/
def specC (op : Nat) : Bool := (0x0D0 ≤ op && op ≤ 0x0DB) || (0x126 ≤ op && op ≤ 0x128)

/-- R122: TY and VAR are ones the operation accepts. -/
def mOk (op m : Nat) : Bool :=
  match Legal.shapeOf op with
  | some sh =>
    let t := mTy m + if 0x080 ≤ op && op < 0x0A0 && mVar m ≥ 4 then 16 else 0
    sh.tys.contains t && sh.vars.contains (mVar m) && m / 2 ^ 27 = 0
  | none => op = 0x12B && mTy m = 0 && mVar m ≤ 2 && m / 2 ^ 7 = 0

/-! Latches. A 64-bit operand is carried whole by one move (the manual gives no width to a move): a register source carries
the pair from its index up. -/

def latchA (port : Nat) : Nat := 320 + 8 * port
def latchB (port : Nat) : Nat := 322 + 8 * port
def latchC (port : Nat) : Nat := 324 + 8 * port
def latchM (port : Nat) : Nat := 326 + 8 * port
def latchD (port : Nat) : Nat := 400 + 2 * port

/-- A latch as an operand of the classes that a field accepts. The store value and the compare value, which the
portable form takes in D, come in C. -/
def latchOpd (uni : Bool) (role : List Legal.Cls) (n v : Nat) : Operand :=
  if role = [] then .v 0
  else if role = Legal.pred then .p 15
  else if uni && role.contains .s then .s (BitVec.ofNat 17 n)
  else if role.contains .v then .v (BitVec.ofNat 17 n)
  else if role.contains .s then .s (BitVec.ofNat 17 n)
  else if role.contains .q then .q (BitVec.ofNat 4 v)
  else .imm (BitVec.ofNat 17 v)

/-- The fields of a unit's operation; `va`, `vb` and `vc` are the latches' values, which an immediate operand takes. -/
def unitEnc (port op m : Nat) (uni : Bool) (va vb vc : Nat) : Enc :=
  let e0 : Enc := { ty := BitVec.ofNat 4 (mTy m), var := BitVec.ofNat 3 (mVar m), g := 15, gn := false, ext := true, d := .v 0, a := .v 0,
                    b := .imm (BitVec.ofNat 17 vb), c := if specC op then .imm (BitVec.ofNat 17 (mSpec m)) else .imm (BitVec.ofNat 17 vc),
                    selA := 0, selB := 0, selC := 0, selD := 0, hint := 0 }
  match Legal.shapeOf op with
  | none => e0
  | some sh =>
    let store := op = 0x0D1 || op = 0x0D3 || op = 0x0D4
    { e0 with
      d := if store then latchOpd uni (Legal.roleD op e0 sh.d) (latchC port) 0
           else if op = 0x0DC || op = 0x0DD then e0.d else latchOpd uni (Legal.roleD op e0 sh.d) (latchD port) 0
      a := latchOpd uni (Legal.roleA op e0 sh.a) (latchA port) va
      b := latchOpd uni (Legal.roleB op e0 sh.b) (latchB port) vb
      c := if specC op then e0.c else latchOpd uni (Legal.roleC op e0 sh.c) (latchC port) vc }

/-! Code (R99). -/

/-- The clause header at an address of native code. -/
def State.headerAt (s : State) (c a : Nat) : Option ClauseHeader :=
  match s.objAt c a with
  | some o =>
    match s.fetchBytes o (a - o.text) 16 with
    | .bytes bs => if bs.length = 16 then some (headerOf (bytesNat bs)) else none
    | _ => none
  | none => none

/-- Address of the next clause in sequence. -/
def nextClause (h : ClauseHeader) (a : Nat) : Nat := a + 16 + 32 * (h.nb.toNat + 1)

/-! The format shadow (R118). -/

/-- Writes of `PFMT` whose shadow is over at an issue-clock time take effect in order. -/
def Team.fmtMature (t : Team) (now : Nat) : Team :=
  { t with
    pfmt := ((t.pfmtLater.filter (fun x => x.1 < now)).getLast?.map Prod.snd).getD t.pfmt
    pfmtLater := t.pfmtLater.filter (fun x => now ≤ x.1) }

/-! Flags (R110). -/

def Team.flagOf (t : Team) (f : Nat) : Nat := t.nat.flags.getD f 0

def Team.flagAdd (t : Team) (f : Option Nat) (n : Nat) : Team :=
  match f with
  | some k => { t with nat := { t.nat with flags := modNth (fun x => x + n) (t.nat.flags ++ List.replicate (12 - t.nat.flags.length) 0) k } }
  | none => t

def Team.flagSub (t : Team) (f : Option Nat) : Team :=
  match f with
  | some k => { t with nat := { t.nat with flags := modNth (fun x => x - 1) t.nat.flags k } }
  | none => t

/-- Lowers a flag by some completions. -/
def Team.flagSubN (t : Team) (f : Option Nat) : Nat → Team
  | 0 => t
  | k + 1 => (t.flagSub f).flagSubN f k

/-- The flags that a WAIT names and that are not clear. -/
def Team.waitFlags (t : Team) (w : BitVec 12) : Nat :=
  ((List.range 12).filter (fun f => w.getLsbD f && t.flagOf f ≠ 0)).foldl (fun m f => m + 2 ^ f) 0

/-! Registers (R104). -/

def Team.aGet (t : Team) (i n : Nat) : Word := if n = 0 then 0 else spGet 0 (t.thread i).a n
def Team.aSet (t : Team) (i n : Nat) (x : Word) : Team :=
  if n = 0 then t else t.modThread i (fun h => { h with a := spSet 0 h.a n x })
def Team.gGet (t : Team) (n : Nat) : Word := if n = 0 then 0 else spGet 0 t.nat.gf n
def Team.gSet (t : Team) (n : Nat) (x : Word) : Team := if n = 0 then t else { t with nat := { t.nat with gf := spSet 0 t.nat.gf n x } }

/-- The newest readable result of a unit; zero where there is none since the clause began (R109). -/
def resultOf (l : List UnitResult) (port sub clock : Nat) : Nat :=
  match findBy (fun (x : UnitResult) => x.port = port && x.ready ≤ clock) l with
  | some x => if sub = 1 then x.r1.toNat else x.r0.toNat
  | none => 0

/-! Moves (R102 to R105). -/

/-- The moves of a bundle with their slot numbers, without the literal slots. -/
def bundleSlots (b : Bundle) : List Slot := [b.s0, b.s1, b.s2, b.s3, b.s4, b.s5]

def movesOf : Nat → List Slot → List Move
  | _, [] => []
  | k, .move m :: r => m :: movesOf (k + 1) r
  | k, .lit _ :: r => movesOf (k + 1) r

/-- The literal of a slot. A name of no literal slot gives 0 (DESIGN CHOICE, log 114: the manual does not say what it gives). -/
def bundleLit (b : Bundle) (k : Nat) : Nat :=
  match (bundleSlots b)[k]? with
  | some (.lit x) => x.toNat
  | _ => 0

/-- The next value of the team's feed for a `dq` source; zero past its end (R181). -/
def Run.feedPop (r : Run) : Run × Nat :=
  if r.t.feedPos ≥ r.s.feedLen r.w then (r, 0)
  else
    match r.t.feedBuf with
    | [] => (r.stall .feed, 0)
    | v :: rest => ({ r with t := { r.t with feedBuf := rest, feedPos := r.t.feedPos + 1 } }, v.toNat)

/-- Select width of a move. -/
def moveW (m : Move) : Nat := if m.w = 1 then 16 else if m.w = 2 then 8 else if m.w = 3 then 4 else 32

/-- Reads the source of a move in thread `i`. -/
def Run.moveRead (r : Run) (b : Bundle) (uni : Bool) (i : Nat) (m : Move) : Run × Nat :=
  let n := m.sidx.toNat
  let t := r.t
  let p := m.sport.toNat
  if p = 0 then (r, if uni then pairVal (t.gGet n) (t.gGet (n + 1)) else pairVal (t.aGet i n) (t.aGet i (n + 1)))
  else if p ≤ 6 then
    let l := if uni then t.nat.uniResults else (t.thread i).results
    (r, resultOf l p m.ssub.toNat t.clock + (if m.ssub = 0 then 2 ^ 32 * resultOf l p 1 t.clock else 0))
  else if p = 7 then let x := r.streamRead i n
                     (x.1, x.2.1)
  else if p = 8 then r.feedPop
  else if p = 9 then (r, if t.pGet i n then 1 else 0)
  else if p = 10 then (r, pairVal (t.gGet n) (t.gGet (n + 1)))
  else if m.ssub = 0 then (r, (BitVec.ofInt 64 m.sidx.toInt).toNat)
  else (r, bundleLit b (n % 8))

/-- Puts a 64-bit value into a latch, in thread `i` and in the team's latch file. -/
def Team.latch (t : Team) (uni : Bool) (i n x : Nat) : Team :=
  let lo := BitVec.ofNat 32 x
  let hi := BitVec.ofNat 32 (x / 2 ^ 32)
  let t1 := (t.sSet n lo).sSet (n + 1) hi
  if uni then
    { t1 with threads := t1.threads.map (fun (h : Thread) => { h with v := spSet 0 (spSet 0 h.v n lo) (n + 1) hi }) }
  else (t1.vSet i n lo).vSet i (n + 1) hi

/-- Delivers a value to a destination. In a uniform bundle a predicate is read in the first active thread and written in every thread of
the team (DESIGN CHOICE, log 111: the manual does not say what a uniform predicate is). -/
def Run.moveTo (r : Run) (uni : Bool) (i : Nat) (m : Move) (x : Nat) : Run :=
  let n := m.didx.toNat
  let k := m.sel.toNat
  let p := m.dport.toNat
  let y := if m.dport.toNat ≥ 1 && p ≤ 6 && k ≠ 0 then selSrc (moveW m) k (x % 2 ^ 32) else x
  if p = 0 then
    (if uni then { r with t := r.t.gSet n (BitVec.ofNat 32 (selDst (moveW m) k (r.t.gGet n).toNat (x % 2 ^ 32))) }
     else { r with t := r.t.aSet i n (BitVec.ofNat 32 (selDst (moveW m) k (r.t.aGet i n).toNat (x % 2 ^ 32))) })
  else if p ≤ 6 then
    let n1 := if m.dsub = 0 then latchB p else if m.dsub = 1 then latchC p else if m.dsub = 2 then latchM p else latchA p
    { r with t := r.t.latch uni i n1 y }
  else if p = 7 then r.streamWrite i n x
  else if p = 9 then
    let put : Thread → Thread := fun h =>
      { h with p := if x % 2 = 1 then h.p ||| BitVec.ofNat 16 (2 ^ n) else h.p &&& ~~~(BitVec.ofNat 16 (2 ^ n)) }
    (if uni then { r with t := { r.t with threads := r.t.threads.map put } }
     else { r with t := r.t.pSet i n (x % 2 = 1) })
  else if p = 10 then { r with t := r.t.gSet n (BitVec.ofNat 32 (selDst (moveW m) k (r.t.gGet n).toNat (x % 2 ^ 32))) }
  else r

/-- The read stage: sources in ascending slot order, of the moves whose guard is true. -/
def readStage (b : Bundle) (uni : Bool) (i : Nat) : List Move → Run → Run × List (Move × Nat)
  | [], r => (r, [])
  | m :: rest, r =>
    if m.grd ≠ 15 && (r.t.pGet i m.grd.toNat == m.gn) then readStage b uni i rest r
    else
      let x := r.moveRead b uni i m
      if x.1.halt ≠ .go then (x.1, [])
      else
        let y := readStage b uni i rest x.1
        (y.1, (m, x.2) :: y.2)

def deliver (uni : Bool) (i : Nat) : List (Move × Nat) → Run → Run
  | [], r => r
  | (m, x) :: rest, r =>
    let r1 := r.moveTo uni i m x
    if r1.halt ≠ .go then r1 else deliver uni i rest r1

/-- Adds a triggered exchange: threads with the same code, modifier and fields act together. -/
def addSub (n : NatSub) : List NatSub → List NatSub
  | [] => [n]
  | x :: r => if x.port = n.port && x.op = n.op && x.m = n.m && x.e = n.e then { x with mask := x.mask ||| n.mask } :: r
              else x :: addSub n r

/-- A latch's value. -/
def Team.latchVal (t : Team) (uni : Bool) (i n : Nat) : Nat :=
  if uni then pairVal (t.sGet n) (t.sGet (n + 1)) else pairVal (t.vGet i n) (t.vGet i (n + 1))

/-- The flag that a long-latency operation marks (R99, R106). -/
def flagField (f : BitVec 4) : Option Nat := if f.toNat ≤ 11 then some f.toNat else none

/-- A unit's trigger in thread `i`, or for the team. -/
def Run.trigger (r : Run) (h : ClauseHeader) (uni : Bool) (i : Nat) (mask : BitVec 32) (mv : Move) : Run :=
  let p := mv.dport.toNat
  let m := r.t.latchVal uni i (latchM p) % 2 ^ 32
  let val : (Nat → Nat) → Nat := fun k => r.t.latchVal uni i (k p) % 2 ^ 17
  match opOfTrigger p mv.didx.toNat with
  | none => r.fatal i clsIllegal 0 0
  | some op =>
    let e := unitEnc p op m uni (val latchA) (val latchB) (val latchC)
    if !mOk op m || !Legal.extraOk op e then r.fatal i clsIllegal 0 0
    else
      let n : NatSub := { port := p, op := op, e := e, m := m, mask := mask,
                          uni := uni, flag := if isLong p op then flagField (if mFsel m = 1 then h.setB else h.setA) else none }
      { r with t := { r.t with nat :=
          if p = 5 then { r.t.nat with late := addSub n r.t.nat.late } else { r.t.nat with subs := r.t.nat.subs ++ [n] } } }

def isTrigger (m : Move) : Bool := 1 ≤ m.dport.toNat && m.dport.toNat ≤ 6 && m.dsub = 3

def triggerAll (h : ClauseHeader) (uni : Bool) (i : Nat) (mask : BitVec 32) : List (Move × Nat) → Run → Run
  | [], r => r
  | (m, _) :: rest, r =>
    if !isTrigger m then triggerAll h uni i mask rest r
    else
      let r1 := r.trigger h uni i mask m
      if r1.halt ≠ .go then r1 else triggerAll h uni i mask rest r1

/-- The operand latches of every unit are zero at the start of a thread's execution of a bundle (R105). -/
def Team.clearLatches (t : Team) (uni : Bool) (i : Nat) : Team :=
  [1, 2, 3, 4, 5, 6].foldl (fun t p => [latchA p, latchB p, latchC p, latchM p].foldl (fun t n => t.latch uni i n 0) t) t

/-- One thread's execution of a bundle, or the team's of a uniform one (R105). -/
def bundleUnit (h : ClauseHeader) (b : Bundle) (uni : Bool) (mask : BitVec 32) (r : Run) (i : Nat) : Run :=
  let x := readStage b uni i (movesOf 0 (bundleSlots b)) { r with t := r.t.clearLatches uni i }
  if x.1.halt ≠ .go then x.1
  else
    let r1 := deliver uni i x.2 x.1
    if r1.halt ≠ .go then r1 else triggerAll h uni i (if uni then mask else bit32 i) x.2 r1

/-! Occupancy (R108, R111, R112). -/

/-- Distinct registers of a bank among a list. -/
def bankCount (k : Nat) (l : List Nat) : Nat := (l.eraseDups.filter (fun n => n % 4 = k && n ≠ 0)).length

/-- A register of a bundle's file: in a uniform bundle `rf` and `gf` name the same registers (R104). -/
def bankReg (uni : Bool) (port : BitVec 4) (idx : BitVec 8) : Nat := idx.toNat + if port = 10 && !uni then 1024 else 0

/-- The bank excess of a bundle (R111). -/
def bankExcess (uni : Bool) (b : Bundle) : Nat :=
  let ms := movesOf 0 (bundleSlots b)
  let reads := (ms.filter (fun m => m.sport = 0 || m.sport = 10)).map (fun m => bankReg uni m.sport m.sidx)
  let writes := (ms.filter (fun m => m.dport = 0 || m.dport = 10)).map (fun m => bankReg uni m.dport m.didx)
  ([0, 1, 2, 3].map (fun k =>
    (bankCount k (reads.filter (fun n => n % 1024 ≠ 0)) - 2 + 1) / 2 +
    (bankCount k (writes.filter (fun n => n % 1024 ≠ 0)) - 1))).foldl (· + ·) 0

def occupancy (uni : Bool) (n e : Nat) : Nat := if uni then 1 + e else max (n * (1 + e)) 8

/-! The alias-detection table (R325 to R328). -/

/-- The table key of an access of `n` bytes of a thread: space, first and last byte. -/
def Run.aliasKey (r : Run) (i sp : Nat) (a : Int) (n : Nat) : Nat × Nat × Nat :=
  match r.sync.locate (r.agent i) sp a n 1 .load with
  | .at_ p => let k := r.s.lockKey (r.agent i) sp p a.toNat
              (k.1, k.2.2.1, k.2.2.1 + n - 1)
  | _ => (sp, a.toNat, a.toNat + n - 1)

/-- The address of a thread's access by an access operation, `rank` being its place among the participants. -/
def accessAddr (op : Nat) (e : Enc) (r : Run) (i rank : Nat) : Int :=
  if op = 0x0D4 || op = 0x0D5 then gatherAddr e r i (((r.read i e.b 8 32 0 false).2 + rank : Nat) : Int)
  else
    let off := sVal 32 (r.read i e.b 4 32 0 false).2
    if op = 0x0D2 || op = 0x0D3 then gatherAddr e r i off else formAddr e (r.base i e) off

/-- A store overlaps a live entry of its team. -/
def Run.aliasMet (r : Run) (key : Nat × Nat × Nat) : Bool :=
  match r.s.getCore r.w.core with
  | some k => k.alias_.any (fun x => x.wg = r.w.uid && x.tix = r.t.tix && x.space = key.1 && x.lo ≤ key.2.2 && key.2.1 ≤ x.hi)
  | none => false

/-- A native run over the issuing team, outside any issue. -/
def runOf (s : State) (w : Workgroup) (t : Team) (pc : Nat) : Run :=
  { s := s, w := w, t := t, pc := pc, nxt := pc, halt := .go, cands := 0, parts := [], active := true, pf := 0, why := .page 0, pend := 0,
    moved := 0, tmask := 0, replaying := false, resumed := false, div := false, reads := [], park := 0, post := none }

/-- Drops a team's entries that a test on the thread accepts. -/
def State.aliasDrop (s : State) (u i : Nat) (p : Nat → Bool) : State :=
  { s with cores := s.cores.map (fun k => { k with alias_ := k.alias_.filter (fun x => !(x.wg = u && x.tix = i && p x.thread)) }) }

/-! Reverting to a commit record (R116, R327, R374). -/

/-- A thread as a record left it; one without keeps its state and starts the clause anew. -/
def CommitRec.thread (c : CommitRec) (i : Nat) (h : Thread) : Thread :=
  match tabGet i c.threads with
  | some x => { x with results := [] }
  | none => { h with results := [] }

/-- No clause under way. -/
def NatTeam.idle (n : NatTeam) : NatTeam :=
  { n with started := false, mask := 0, bundle := 0, occ := 0, act := 0, todo := 0, subs := [], late := [], rank := 0, ctl := none,
           ctlLeft := false, once := none, jumped := 0, post := none, uniResults := [], stuck := 0 }

/-- A thread of a mask issued something, at its place among the identities, after it passed a record. -/
def CommitRec.undoes (c : CommitRec) (m : BitVec 32) (i seq : Nat) : Bool :=
  hasBit m i && (match tabGet i c.since with
    | some k => decide (k ≤ seq)
    | none => false)

/-- The flag that the completion of a remote load lowers, as `wregOpd` writes it; none where no native load waits. -/
def natWait (w : RemoteWait) : Option (Option Nat) :=
  match w.d with
  | .imm n => some (if n.toNat / 512 = 0 then none else some (n.toNat / 512 - 1))
  | _ => none

/-- Takes the remote loads that threads wait for out of a team. -/
def dropWaits (c : CommitRec) (m : BitVec 32) : List RemoteWait → Team → Team
  | [], t => t
  | w :: r, t =>
    match natWait w with
    | none => dropWaits c m r { t with remote := t.remote ++ [w] }
    | some f =>
      let gone := (maskList w.threads 32).filter (fun i => c.undoes m i w.req)
      let left := w.threads &&& ~~~(listMask gone)
      dropWaits c m r ((if left = 0 then t else { t with remote := t.remote ++ [{ w with threads := left }] }).flagSubN f gone.length)

/-- Takes completions that a test accepts out of a team, with their marks of the flags. -/
def Team.dropLong (t : Team) (p : LongLat → Bool) : Team :=
  (t.nat.outstanding.filter p).foldl (fun (t : Team) (x : LongLat) => t.flagSub x.flag)
    { t with nat := { t.nat with outstanding := t.nat.outstanding.filter (fun x => !p x) } }

/-- Takes what threads have issued since a record, and what waits for it, out of a team, because the clauses that issued it run again:
completions that stand out, remote loads, and their marks of the flags; and the faults recorded against the threads. -/
def Team.undo (t : Team) (c : CommitRec) (m : BitVec 32) : Team :=
  let t1 := t.dropLong (fun x => match x.thread with
    | some i => c.undoes m i x.seq
    | none => false)
  let t2 := { t1 with nat := { t1.nat with
    faults := (t1.nat.faults.map (fun (x : NatFault) => { x with mask := x.mask &&& ~~~m })).filter (fun x => x.mask ≠ 0) } }
  dropWaits c m t2.remote { t2 with remote := [] }

/-- The threads of a mask revert, each to the latest record it has passed. -/
def Team.revertTo (t : Team) (c : CommitRec) (m : BitVec 32) : Team :=
  let t1 := t.undo c m
  { t1 with threads := mapThreads (fun i h => if hasBit m i && h.st ≠ .exit then c.thread i h else h) 0 t1.threads }

/-- Every thread of the team that has passed a record reverts to it, with the uniform registers and `TEAM_FSTAT` (R43, R327). -/
def Team.revertAll (t : Team) (c : CommitRec) : Team :=
  let t1 := (t.undo c (listMask (c.threads.map Prod.fst))).dropLong (fun x => x.thread = none && decide (c.at_ ≤ x.seq))
  { t1 with
    threads := mapThreads (fun i h => if h.st = .exit then h else c.thread i h) 0 t1.threads
    fstat := c.fstat, fmask := 0, pend := none, st := .ready, nat := { t1.nat.idle with gf := c.gf } }

/-- An alias rollback (R327). -/
def State.rollback (s : State) (u i : Nat) : State :=
  let s1 := s.modTeam u i (fun t =>
    let t1 := t.revertAll t.commit
    { t1 with nat := { t1.nat with inOrder := true } })
  match s1.getWg u with
  | some w => (s1.aliasDrop u i (fun _ => true)).countRollback w (((w.getTeam i).bind Team.leadPc).getD 0)
  | none => s1

/-! Executing a triggered operation. -/

/-- The latch that feeds predicate 15, by thread: A where the operation reads a predicate in A, C where in C. -/
def NatSub.predLatch (n : NatSub) : Option Nat :=
  if n.e.a = .p 15 then some (latchA n.port) else if n.e.c = .p 15 then some (latchC n.port) else none

/-- The team as a unit's operation sees it: exactly its threads take part; the compare value of an atomic stands in D; predicate 15 carries
a predicate operand; a participant's rank is its place among those of the bundle (R206). Faults left pending wait for a STOP point
(R113), and a fault of a long-latency operation is recorded (R116). -/
def Team.beforeUnit (t : Team) (n : NatSub) : Team :=
  { t with
    st := .ready, pend := some n.mask, pendFaults := [], fmask := 0
    nat := { t.nat with deferring := isLong n.port n.op, deferred := none }
    s := (match n.op with
      | 0x0D6 => (t.sSet (latchD n.port) (t.sGet (latchC n.port))).sSet (latchD n.port + 1) (t.sGet (latchC n.port + 1))
      | _ => t).s
    threads := mapThreads (fun i h =>
      let v1 := spSet 0 (spSet 0 h.v (latchD n.port) (spGet 0 h.v (latchC n.port))) (latchD n.port + 1)
        (spGet 0 h.v (latchC n.port + 1))
      let h1 : Thread := if n.op = 0x0D6 then { h with v := v1 } else h
      let h2 : Thread := if n.port = 4 && hasBit n.mask i && t.pend.isNone then
          { h1 with held := if n.op = 0x0D4 || n.op = 0x0D5 then some { rank := t.nat.rank, addr := none } else none } else h1
      match n.predLatch with
      | some k => { h2 with p := if (spGet 0 h.v k).getLsbD 0 then h2.p ||| BitVec.ofNat 16 (2 ^ 15) else h2.p &&& BitVec.ofNat 16 (2 ^ 15 - 1) }
      | none => h2) 0 t.threads }

/-- The results of an operation in a thread: two words, the second a predicate result where the operation writes one. -/
def Team.resultsIn (t : Team) (n : NatSub) (i : Nat) : Word × Word :=
  let uniS := match n.e.d with
    | .s _ => true
    | _ => false
  let d0 := if uniS then t.sGet (latchD n.port) else t.vGet i (latchD n.port)
  let d1 := if uniS then t.sGet (latchD n.port + 1) else t.vGet i (latchD n.port + 1)
  let p15 : Word := if t.pGet i 15 then 1 else 0
  if n.e.d = .p 15 then (p15, 0) else if n.e.c = .p 15 && n.e.a ≠ .p 15 then (d0, p15) else (d0, d1)

/-- WREG delivered by a remote reply, as a destination: register, file, flag. -/
def wregOpd (wreg : Nat) (uni : Bool) (flag : Option Nat) : Operand :=
  .imm (BitVec.ofNat 17 (wreg + (if uni then 256 else 0) + 512 * (match flag with
    | some f => f + 1
    | none => 0)))

/-- The threads that an operation has executed in: all but those left by a stall or a fault. -/
def doneIn (n : NatSub) (left : BitVec 32) : List Nat := maskList (n.mask &&& ~~~left) 32

/-- Writes what an operation gives: unit results readable after their latency, or long-latency completions. In a uniform bundle the latency
runs from the bundle's issue; what a per-thread bundle triggers is readable in the next (R109). A load whose value another package sends
completes at its reply. `rel` is a release that awaits its acknowledgements, `cc` and `seq` the time and the place of the issue. -/
def Team.deliverSub (t : Team) (n : NatSub) (left : BitVec 32) (before : List RemoteWait) (rel : Option Nat) (cc seq : Nat) : Team :=
  let ids := doneIn n left
  if isLong n.port n.op then
    let mine := fun (w : RemoteWait) => !before.any (fun x => x.req = w.req) && w.d ≠ .vt 0
    let away := (t.remote.filter mine).foldl (fun (m : BitVec 32) w => m ||| w.threads) 0
    let one := fun (i : Nat) =>
      let x := t.resultsIn n i
      ({ flag := n.flag, wreg := if n.op = 0x0D1 ∨ n.op = 0x0D3 ∨ n.op = 0x0D4 ∨ n.op = 0x0D7 then 0 else mWreg n.m, val := x.1, hi := x.2,
         wide := Legal.ty64 (mTy n.m), thread := if n.uni then none else some i, rel := rel, due := cc + longLatency n.op (mTy n.m), seq := seq } : LongLat)
    let here := ids.filter (fun i => !hasBit away i)
    let add := if n.uni then (here.take 1).map one else here.map one
    let t1 := { t with
      remote := t.remote.map (fun w => if mine w then { w with d := wregOpd (mWreg n.m) n.uni n.flag } else w)
      nat := { t.nat with outstanding := t.nat.outstanding ++ add } }
    t1.flagAdd n.flag (if n.uni then min 1 ids.length else ids.length)
  else
    let lat := latencyOf n.port n.op (mTy n.m) n.e.b
    let res := fun (i : Nat) => let x := t.resultsIn n i
      ({ port := n.port, r0 := x.1, r1 := x.2, ready := if n.uni then t.clock + lat else t.clock + t.nat.occ } : UnitResult)
    if n.uni then
      match ids with
      | i :: _ => { t with nat := { t.nat with uniResults := res i :: t.nat.uniResults } }
      | [] => t
    else ids.foldl (fun t i => t.modThread i (fun h => { h with results := res i :: h.results })) t

/-- Takes a sub-issue's marks off a team: what the issue machinery has changed is as before, but for effects. -/
def Team.afterUnit (t0 t : Team) : Team :=
  { t with
    yieldAt := t0.yieldAt, pend := t0.pend, clock := t0.clock, wdog := t0.wdog, wdogExp := t0.wdogExp, awaits := t0.awaits
    pendFaults := t0.pendFaults ++ t.pendFaults, fmask := t0.fmask
    nat := { t.nat with deferring := false, deferred := none }
    threads := mapThreads (fun i h =>
      let o := t0.thread i
      { h with pc := o.pc, st := o.st, p := (h.p &&& BitVec.ofNat 16 (2 ^ 15 - 1)) ||| (o.p &&& BitVec.ofNat 16 (2 ^ 15)) }) 0 t.threads }

/-- Whether the next participants of a HOIST load find room: entries of the lane are at most 32 (R326). -/
def State.aliasRoom (s : State) (core lane n : Nat) : Bool :=
  match s.getCore core with
  | some k => k.alias_.countP (fun x => x.lane = lane) + n ≤ 32
  | none => true

/-- Creates the entries of a HOIST load: one for each participant, with the fault that its access meets. -/
def hoistEntries (r : Run) (n : NatSub) : List AliasEntry :=
  let ids := maskList n.mask r.t.threads.length
  (List.range ids.length).filterMap (fun k =>
    match ids[k]? with
    | none => none
    | some i =>
      let a := accessAddr n.op n.e r i k
      let sz := accessBytes n.e.ty.toNat
      let key := r.aliasKey i (space n.e) a sz
      let flt := match r.check i (space n.e) a sz sz .load with
        | .ok _ => none
        | .halt x => match x.halt with
          | .fatal f => some f
          | _ => some (mkFault clsPageNr 0 a.toNat)
      some { lane := r.t.lane, wg := r.w.uid, tix := r.t.tix, thread := i, space := if key.1 = 0 then 1 else key.1, lo := key.2.1,
             hi := key.2.2, flt := flt })

/-- The first participant of a store that overlaps an entry, and those before it. -/
def firstAlias (r : Run) (n : NatSub) : Nat → List Nat → Option (BitVec 32)
  | _, [] => none
  | k, i :: rest =>
    if r.aliasMet (r.aliasKey i (space n.e) (accessAddr n.op n.e r i k) (accessBytes n.e.ty.toNat)) then some 0
    else (firstAlias r n (k + 1) rest).map (fun m => m ||| bit32 i)

/-- What the alias table makes of an operation: the entries of a load, the participants left, and a rollback to follow. -/
def aliasStep (s : State) (r : Run) (n : NatSub) : State × NatSub × Bool :=
  let ld := n.op = 0x0D0 || n.op = 0x0D2 || n.op = 0x0D5
  if ld && mHoist n.m && !r.t.nat.inOrder then
    let es := hoistEntries r n
    if !s.aliasRoom r.w.core r.t.lane es.length then (s, { n with mask := 0 }, true)
    else
      (s.modCore r.w.core (fun k => { k with alias_ := k.alias_ ++ es }),
       { n with mask := n.mask &&& ~~~(listMask ((es.filter (fun x => x.flt.isSome)).map AliasEntry.thread)) }, false)
  else if n.op = 0x0D1 || n.op = 0x0D3 || n.op = 0x0D4 then
    match firstAlias r n 0 (maskList n.mask r.t.threads.length) with
    | some m => (s, { n with mask := m }, true)
    | none => (s, n, false)
  else (s, n, false)

/-- What a team has sent, or keeps to send, to other packages has changed: a fabric store. -/
def fabricStore (t t2 : Team) : Bool := t2.unacked ≠ t.unacked || t2.comb ≠ t.comb

/-- An operation that ends an idempotent region (R117): an atomic, a release (a barrier arrival is one), `nsend`, `wdraw`, the issue of a
copy or press operation, or a store that went to the fabric. -/
def endsRegion (op : Nat) (e : Enc) (t t2 : Team) : Bool :=
  op = 0x0D6 || op = 0x0D7 || op = 0x153 || op = 0x155 || op = 0x156 || op = 0x122 || (0x100 ≤ op && op ≤ 0x105) ||
  op = 0x141 || op = 0x143 || (op = 0x12B && e.var = 1) || ((0x0D0 ≤ op && op ≤ 0x0D8) && isRel e) || fabricStore t t2

/-- The region after an operation. -/
def NatTeam.regionAfter (n : NatTeam) (ends : Bool) : Option CommitRec := if ends then none else n.region

/-- How an operation has left the threads that it concerned: those that have still to execute, and the faults recorded. -/
structure UnitEnd where
  left : BitVec 32
  stall : Option Stall
  faults : List NatFault
  rel : Option Nat

/-- Reads the end of an operation's issue off the team. -/
def Team.unitEnd (t2 : Team) (n : NatSub) : UnitEnd :=
  match t2.nat.deferred with
  | some f => { left := n.mask, stall := none, faults := [{ mask := n.mask, flag := n.flag, why := .fatal f }], rel := none }
  | none =>
    match t2.st, t2.pend with
    | .replay y, _ => { left := t2.fmask, stall := none, faults := [{ mask := t2.fmask, flag := n.flag, why := .replay y }], rel := none }
    | .stall y, some m => { left := m, stall := some y, faults := [], rel := none }
    | _, _ => { left := 0, stall := none, faults := [], rel := t2.awaits }

/-- Executes the team's next triggered operation at a clause. -/
def State.runUnit (s : State) (w : Workgroup) (t : Team) (pc : Nat) (n0 : NatSub) (rest : List NatSub) : State :=
  let x := if t.pend.isNone && n0.port = 4 then aliasStep s (runOf s w t pc) n0 else (s, n0, false)
  let n := x.2.1
  let s1 := x.1.modTeam w.uid t.tix (fun t => t.beforeUnit n)
  let out := match meansOf n.op with
    | some f => f n.e s1
    | none => .next s1
  match out with
  | .next s2 =>
    match s2.teamOf w.uid t.tix with
    | none => s2
    | some (_, t2) =>
      let y := t2.unitEnd n
      let t3 := (t.afterUnit t2).deliverSub n y.left t.remote y.rel s2.cc s2.nextId
      let sub := if y.stall.isSome then [{ n with mask := y.left }] else []
      let t4 : Team := { t3 with
        st := (match y.stall with
          | some z => .stall z
          | none => .ready)
        pend := if y.stall.isSome then some y.left else none
        nat := { t3.nat with subs := sub ++ rest, faults := t3.nat.faults ++ y.faults, region := t3.nat.regionAfter (endsRegion n.op n.e t t2)
                             rank := t3.nat.rank + if n.port = 4 && y.stall.isNone then (maskList n0.mask 32).length else 0 } }
      let s3 := s2.modTeam w.uid t.tix (fun _ => t4)
      if x.2.2 && y.stall.isNone then s3.rollback w.uid t.tix else s3
  | _ => s1

/-! The CTL operation (R100, R101). -/

/-- The window through which a CTL operation sees native registers: `v` for `rf`, `s` for `gf`, literals at index 256 and up. -/
def Team.openWindow (t : Team) (b : Bundle) : Team :=
  { t with
    threads := t.threads.map (fun (h : Thread) => { h with v := h.a })
    s := (List.range 6).foldl (fun f k => spSet 0 f (256 + k) (BitVec.ofNat 32 (bundleLit b k))) t.nat.gf }

/-- Closes the window: the native registers take what the operation has written, and the files that carried it are as before. -/
def Team.closeWindow (t0 t : Team) : Team :=
  let keep := fun (f : SparseW) => f.filter (fun x => 0 < x.1 && x.1 < 255)
  { t with
    threads := mapThreads (fun i (h : Thread) => { h with a := keep h.v, v := (t0.thread i).v }) 0 t.threads
    s := t0.s, nat := { t.nat with gf := keep t.s } }

/-- An operand from a 12-bit specifier (R100). -/
def specOpd (uni : Bool) (x : Nat) : Operand :=
  let c := x / 1024 % 4
  let n := x % 1024
  if c = 0 then (if uni then .s (BitVec.ofNat 17 n) else .v (BitVec.ofNat 17 n))
  else if c = 1 then (Legal.operandOf (0x2000 + n) 0 true).getD .zero
  else if c = 2 then .imm ((BitVec.ofNat 10 n).signExtend 17)
  else .s (BitVec.ofNat 17 (256 + n % 8))

/-- An operand of a CTL field: none the operation uses, a literal where the field accepts immediates and no register, or
what the specifier says. A literal that a 64-bit field takes is the pair of its slot and the next, low half first (DESIGN CHOICE, log 113:
the manual gives a literal 32 bits and no pairing). -/
def ctlOpd (b : Bundle) (uni : Bool) (role : List Legal.Cls) (x : Nat) : Operand :=
  if role = [] then .v 0
  else if x / 1024 % 4 = 3 && !role.contains .s && !role.contains .v then .imm (BitVec.ofNat 17 (bundleLit b (x % 8)))
  else specOpd uni x

/-- The fields of a CTL operation. A field the operation does not use is as the portable form writes it. -/
def ctlEnc (h : ClauseHeader) (b : Bundle) (op m : Nat) (uni : Bool) : Enc :=
  let x := h.ctlImm.toNat
  let e0 : Enc := { ty := BitVec.ofNat 4 (mTy m), var := BitVec.ofNat 3 (mVar m), g := h.ctlG, gn := h.ctlGN, ext := false,
                    d := specOpd uni (x % 4096), a := specOpd uni (x / 2 ^ 12 % 4096), b := specOpd uni (x / 2 ^ 24 % 4096),
                    c := if specC op then .imm (BitVec.ofNat 17 (mSpec m)) else specOpd uni (x / 2 ^ 36 % 4096),
                    selA := 0, selB := 0, selC := 0, selD := 0, hint := 0 }
  match Legal.shapeOf op with
  | none => e0
  | some sh =>
    { e0 with
      d := ctlOpd b uni (Legal.roleD op e0 sh.d) (x % 4096)
      a := ctlOpd b uni (Legal.roleA op e0 sh.a) (x / 2 ^ 12 % 4096)
      b := ctlOpd b uni (Legal.roleB op e0 sh.b) (x / 2 ^ 24 % 4096)
      c := if specC op then e0.c else ctlOpd b uni (Legal.roleC op e0 sh.c) (x / 2 ^ 36 % 4096) }

/-- The signed 36-bit offset of the target layout, in units of 16 bytes from the header. -/
def ctlTarget (h : ClauseHeader) (pc : Nat) : Nat := (((pc : Int) + 16 * (BitVec.ofNat 36 h.ctlImm.toNat).toInt) % 2 ^ 57).toNat

/-- Control operations of the target layout, and the loop unit (R115); the rest act by their portable meanings. -/
def ctlTransfer (h : ClauseHeader) (op : Nat) (e : Enc) (uni : Bool) : Option (State → Host.Outcome State Fault Refusal) :=
  if op = 0x0A0 then
    some (issue e.g e.gn 8 (fun r => runUnits (fun r i => r.goto i (ctlTarget h r.pc)) (r.movers uni) r))
  else if op = 0x0A2 then
    some (issue e.g e.gn 8 (fun r => runUnits (fun r i =>
      let r1 := r.pushRet i (nextClause h r.pc)
      if r1.halt = .go then r1.goto i (ctlTarget h r.pc) else r1) (r.movers uni) r))
  else if op = 0x0AE then
    some (issue e.g e.gn 8 (fun r => teamInstr r (fun r =>
      if r.t.top &&& r.t.liveMask = 0 then r.gotoAll (ctlTarget h r.pc) else r)))
  else if op = 0x0A6 then
    some (issue e.g e.gn 8 (fun r => teamInstr r (fun r =>
      if r.t.nat.loops.length ≥ 4 then r.stackFault 5
      else
        let last := ctlTarget h r.pc
        let n := r.tripCount (specOpd uni (h.ctlImm.toNat / 2 ^ 36))
        if n = 0 then r.gotoAll (((r.s.headerAt r.w.ctx last).map (fun y => nextClause y last)).getD (nextClause h r.pc))
        else { r with t := { r.t with nat := { r.t.nat with
          loops := ({ count := n, head := nextClause h r.pc, last := last } : HwLoop) :: r.t.nat.loops } } })))
  else if op = 0x0A7 then
    some (issue e.g e.gn 8 (fun r => teamInstr r (fun r =>
      match r.t.nat.loops with
      | [] => r.stackFault 6
      | l :: rest =>
        if l.count - 1 ≠ 0 then
          { r with t := { r.t with nat := { r.t.nat with loops := { l with count := l.count - 1 } :: rest } } }.gotoAll l.head
        else { r with t := { r.t with nat := { r.t.nat with loops := rest } } })))
  else none

/-! Direct mode (R275 to R278). -/

/-- `pdir.on`. -/
def execPdirOn (s : State) : Host.Outcome State Fault Refusal :=
  issue 15 false 8 (onceFirst (fun r _ =>
    match (r.s.getCore r.w.core).bind Core.direct with
    | some d => if d = (r.w.uid, r.t.tix) then r else r.stall .direct
    | none =>
      if (r.s.pressHeld r.w.core).isEmpty then
        { r with s := r.s.modCore r.w.core (fun k => { k with direct := some (r.w.uid, r.t.tix) }), t := { r.t with nat := { r.t.nat with direct := false } } }
      else r.stall .direct)) s

/-- The team holds direct mode. -/
def Run.holdsDirect (r : Run) : Bool := (r.s.getCore r.w.core).bind Core.direct = some (r.w.uid, r.t.tix)

/-- The offset a g or immediate specifier gives. -/
def Run.directOff (r : Run) (x : BitVec 12) : Int :=
  if x.toNat / 1024 = 2 then (BitVec.ofNat 10 x.toNat).toInt else if x.toNat / 1024 = 0 then ((r.t.gGet (x.toNat % 256)).toNat : Int) else 0

/-- A slot of some bytes at an offset that `pdir.mt` accepts (R276). -/
def slotOk (o : Int) (n sw : Nat) : Bool := 0 ≤ o && o % 256 = 0 && o + n ≤ sw

/-- `pdir.mt`: the hold, the offsets and the spacing are checked precisely; the format is the one of R118. The micro-tile starts 2 cc after
the issue, and that start is what the monitor compares (R276, R277). -/
def execPdirMt (tile : BitVec 7) (a b : BitVec 12) (s : State) : Host.Outcome State Fault Refusal :=
  issue 15 false 8 (fun r0 => r0.released 2 (onceFirst (fun r i =>
    let p := r.t.pfmt
    let oa := r.directOff a
    let ob := r.directOff b
    if !r.holdsDirect then r.fatal i clsFormat 5 0
    else if !pfmtOk p then r.fatal i clsFormat 0 0
    else if !tilesOk r.w (pfCF p = 1) tile.toNat 1 then r.fatal i clsFormat 2 0
    else if !slotOk oa (slotA p).slotBytes r.w.sw || !slotOk ob (slotB p).slotBytes r.w.sw then r.fatal i clsFormat 3 0
    else if !({ r.s with cc := r.s.cc + 2 } : State).startPlace r.w.core then r.fatal i clsFormat 4 0
    else
      let d : DirectStart := { wg := r.w.uid, tix := r.t.tix, tile := tile.toNat, offA := oa.toNat, offB := ob.toNat, pfmt := p,
                               nbv := r.s.nbvOn r.w.core r.w.ctx, at_ := r.s.cc + 2 }
      { r with s := r.s.modCore r.w.core (fun k => { (k.startAt (r.s.cc + 2)) with directStarted := k.directStarted ++ [d] }) }))) s

/-- `pdir.off`. -/
def execPdirOff (s : State) : Host.Outcome State Fault Refusal :=
  issue 15 false 8 (onceFirst (fun r _ =>
    if !r.holdsDirect then r
    else if ((r.s.getCore r.w.core).map (fun k => decide (k.directStarted ≠ []))).getD false then r.stall .directRetire
    else { r with s := r.s.modCore r.w.core (fun k => { k with direct := none }) })) s

/-- The retirement of the oldest direct-mode micro-tile of a core (R248). -/
def State.directRetire (s : State) (core : Nat) : State :=
  match (s.getCore core).bind (fun k => k.directStarted.head?) with
  | none => s
  | some d =>
    if s.cc < d.at_ + retireAfter then s
    else
      let s1 := s.modCore core (fun k => { k with directStarted := k.directStarted.drop 1 })
      match s1.getWg d.wg with
      | none => s1
      | some w =>
        let slot := fun (o n : Nat) => spTake 0 w.scratch o n
        let ag : Agent := { ctx := w.ctx, core := core, wg := w.uid, tix := d.tix, thread := 0 }
        let bad := fun (o n : Nat) => s.badRead ag (.scratch w.uid o) n
        let na := (slotA d.pfmt).slotBytes
        let nb := (slotB d.pfmt).slotBytes
        if bad d.offA na || bad d.offB nb || vatBad s w d.tile (tileWidth d.pfmt) then
          s1.modTeam d.wg d.tix (fun t => { t with pendFaults := t.pendFaults ++ [{ mkFault clsMemUe 0 d.offA with engine := true }] })
        else
          let y := microtile d.pfmt d.nbv (slot d.offA na) (slot d.offB nb) d.tile w
          (s1.putWg y.1).modTeam d.wg d.tix (fun t => { t with prsFstat := t.prsFstat ||| y.2 })

/-- `microtileRetire`: a step of an operation; operation 0 names the direct-mode micro-tiles of core `st`. -/
def execMicrotileRetire (id st : Nat) (s : State) : Host.Outcome State Fault Refusal :=
  .next (if id = 0 then s.directRetire st else s.opRetire id st)

/-- The meaning of a clause's CTL operation with its fields. -/
def ctlMeans (h : ClauseHeader) (op m : Nat) (uni : Bool) (e : Enc) : Option (State → Host.Outcome State Fault Refusal) :=
  if op = 0x12B then
    (if mVar m = 0 then some execPdirOn
     else if mVar m = 1 then
       match specOpd uni (h.ctlImm.toNat % 4096) with
       | .vt n => some (execPdirMt n (BitVec.ofNat 12 (h.ctlImm.toNat / 2 ^ 12)) (BitVec.ofNat 12 (h.ctlImm.toNat / 2 ^ 24)))
       | _ => none
     else some execPdirOff)
  else
    match ctlTransfer h op e uni with
    | some f => some f
    | none => (meansOf op).map (fun f => f e)

/-- The address that the issue machinery takes for the next instruction stands for the next clause. A thread that has gone there, or
nowhere, is still at the clause. -/
def Team.relink (t : Team) (pc old new : Nat) : Team :=
  { t with
    yieldAt := t.yieldAt.map (fun y => if y = old then new else y)
    brkNext := t.brkNext.map (fun y => if y = old then new else y)
    threads := t.threads.map (fun (h : Thread) =>
      { h with pc := if h.pc = old then pc else h.pc, ret := h.ret.map (fun a => if a = old then new else a) }) }

/-- Threads that a CTL transfer has sent elsewhere: a thread that has not left stands past the operation. -/
def Team.jumpedFrom (t : Team) (m : BitVec 32) (old : Nat) : BitVec 32 :=
  listMask ((maskList m t.threads.length).filter (fun i => (t.thread i).st = .run && (t.thread i).pc ≠ old))

/-- A vat store of CTL (`vst`) that overlaps an alias entry of its team. -/
def vstAlias (r : Run) (op : Nat) (e : Enc) (i : Nat) : Bool :=
  op = 0x127 && (match r.s.getCore r.w.core with
    | some k =>
      let base := r.base i e
      let pitch := sVal 32 (r.read i e.b 4 32 0 false).2
      let esz := accessBytes e.ty.toNat
      k.alias_.any (fun x => x.wg = r.w.uid && x.tix = r.t.tix &&
        (List.range 4096).any (fun j =>
          let key := r.aliasKey i (space e) (formAddr e base (pitch * (j / 64 : Nat) + esz * (j % 64 : Nat))) esz
          x.space = (if key.1 = 0 then 1 else key.1) && x.lo ≤ key.2.2 && key.2.1 ≤ x.hi))
    | none => false)

/-- Operations that act on the team as it stands, whatever thread comes to them: the team instructions of R163 and the joins. In a
per-thread bundle they act once, when every thread has executed (DEDUCED, log 115). -/
def ctlGroup (op : Nat) : Bool := [0x0A6, 0x0A7, 0x0A9, 0x0AA, 0x0AB, 0x0AC, 0x0AD, 0x0AE].contains op

/-- Operations that each active thread executes in its own iteration (R101). Every other acts once per issue with a participant, as in
portable code: in the first active thread whose guard is true, and the later ones take its result. -/
def ctlEach (op : Nat) : Bool := op ≤ 0x0A5 || op = 0x0B0

/-- Operations of CTL whose time runs on the team's flag: `vclr` and `wdraw` (R271, R359). -/
def ctlMarks (op : Nat) : Bool := op = 0x125 || op = 0x156

/-- The modifier word of a clause's CTL operation. -/
def ctlM (b : Bundle) : Nat := if b.lmw = 7 then 0 else bundleLit b b.lmw.toNat

/-- The issue-clock time at which a thread of a bundle issues: its place among the active ones (R105, R108). -/
def Team.issueTime (t : Team) (uni : Bool) (b : Bundle) (i : Nat) : Nat :=
  if uni then t.clock + bankExcess uni b
  else t.clock + (1 + bankExcess uni b) * ((maskList t.nat.act 32).filter (fun j => j < i)).length

/-- The result of an operation that has acted once, for the threads that come later. -/
def Team.onceOf (t : Team) (e : Enc) (i : Nat) : Word × Word :=
  match e.d with
  | .v n => (t.aGet i n.toNat, t.aGet i (n.toNat + 1))
  | .p n => (if t.pGet i n.toNat then 1 else 0, 0)
  | _ => (0, 0)

/-- A later thread takes that result. -/
def Team.onceTo (t : Team) (op : Nat) (e : Enc) (x : Word × Word) (i : Nat) : Team :=
  match e.d with
  | .v n =>
    let t1 := t.aSet i n.toNat x.1
    if (Legal.pairs op e).1 then t1.aSet i (n.toNat + 1) x.2 else t1
  | .p n => t.pSet i n.toNat (x.1 = 1)
  | _ => t

/-- The CTL operation has acted, or has nothing to do, for the threads it was due for. -/
def Team.ctlDone (t : Team) : Team := { t with pend := none, st := .ready, nat := { t.nat with ctl := none } }

/-- The team as a CTL operation sees it. A group operation finds every thread of the clause; a thread at the same address that is not of the
clause is out of the way. Any other finds exactly the threads it is due for, and has had its guard. -/
def Team.beforeCtl (t : Team) (b : Bundle) (op pc now : Nat) (m : BitVec 32) : Team :=
  let t1 := (t.fmtMature now).openWindow b
  let outside := t.runMask &&& t.candidates pc &&& ~~~t.nat.mask
  let last := op = 0x0A5 && t.liveMask &&& ~~~m = 0
  { t1 with
    st := .ready, fmask := 0, pend := if ctlGroup op && t.pend.isNone then none else some (t.pend.getD m)
    pendFaults := if last then t.pendFaults else []
    threads := mapThreads (fun i h => if hasBit outside i then { h with st := .fault } else h) 0 t1.threads }

/-- The team after a CTL operation, but for where its state stands. -/
def Team.afterCtl (t0 t2 : Team) (h : ClauseHeader) (op pc wide now : Nat) (e : Enc) (m : BitVec 32) (seq : Nat) : Team :=
  let outside := t0.runMask &&& t0.candidates pc &&& ~~~t0.nat.mask
  let stalled := match t2.st, t2.pend with
    | .stall _, some _ => true
    | _, _ => false
  let t3 := (t0.closeWindow t2).relink pc (pc + wide) (nextClause h pc)
  let fmt := op = 0x120 || (op = 0x151 && Legal.raw12 e.a = 0x030)
  let yld := op = 0x0A8
  let rep : List NatFault := match t2.st with
    | .replay y => [{ mask := t2.fmask, flag := none, why := .replay y }]
    | _ => []
  let mark := ctlMarks op && !stalled && rep = []
  let first := (maskList m 32).headD 0
  let t4 : Team := { t3 with
    clock := t0.clock, wdog := if yld then t2.wdog else t0.wdog, wdogExp := if yld then t2.wdogExp else t0.wdogExp
    yieldAt := if yld then t3.yieldAt else t0.yieldAt, awaits := t0.awaits
    pendFaults := t0.pendFaults ++ t2.pendFaults, fmask := t0.fmask
    pfmt := if fmt then (t0.fmtMature now).pfmt else t2.pfmt
    pfmtLater := if fmt then (t0.fmtMature now).pfmtLater ++ [(now + 4, t2.pfmt)] else t2.pfmtLater
    threads := mapThreads (fun i h => if hasBit outside i then { h with st := .run } else h) 0 t3.threads
    nat := { t3.nat with
      faults := t3.nat.faults ++ rep, region := t3.nat.regionAfter (endsRegion op e t0 t2)
      jumped := if stalled then t3.nat.jumped else t3.nat.jumped ||| t2.jumpedFrom (if ctlGroup op then t0.nat.mask else m) (pc + wide)
      post := (match t2.st, t2.pend with
        | .stall y, none => some y
        | _, _ => t3.nat.post)
      once := if stalled then none else some (t3.onceOf e first)
      outstanding := t3.nat.outstanding ++ (if mark then [{ flag := flagField h.setA, wreg := 0, val := 0, hi := 0, wide := false,
                                                            thread := none, rel := none, due := 0, seq := seq }] else []) } }
  if mark then t4.flagAdd (flagField h.setA) 1 else t4

/-- The recorded faults of threads that a mask names. -/
def Team.natFaultOf (t : Team) (m : BitVec 32) : Option NatFault := findBy (fun x => x.mask &&& m ≠ 0) t.nat.faults

/-- A thread about to exit with a fault recorded against it does not exit: the fault is delivered (R116). -/
def State.exitFaulted (s : State) (w : Workgroup) (t : Team) (m : BitVec 32) (x : NatFault) : State :=
  match x.why with
  | .fatal f => s.teamFatal w t (x.mask &&& m) f
  | .replay y => s.modTeam w.uid t.tix (fun t => { t with nat := { t.nat with ctl := none, stuck := t.nat.stuck ||| (x.mask &&& m), why := y } })

/-- Executes the CTL operation of a clause for the threads that a mask names (R101). Its guard is read in the executing thread, and in a
uniform bundle in the first. -/
def State.runCtl (s : State) (w : Workgroup) (t : Team) (pc : Nat) (h : ClauseHeader) (b : Bundle) (m : BitVec 32) : State :=
  let uni := h.uni.getLsbD h.nb.toNat
  let first := (maskList m 32).headD 0
  let bad := s.teamFatal w t m { mkFault clsIllegal 0 0 with ppc := pc }
  match opOfCtl h.ctlOp.toNat with
  | none => bad
  | some op =>
    let e0 := ctlEnc h b op (ctlM b) uni
    let e := if ctlGroup op then e0 else { e0 with g := 15, gn := false }
    let now := t.issueTime uni b first
    match if mOk op (ctlM b) && (op = 0x12B || Legal.extraOk op e0) then ctlMeans h op (ctlM b) uni e else none with
    | none => bad
    | some f =>
      let done := s.modTeam w.uid t.tix Team.ctlDone
      if !ctlGroup op && t.pend.isNone && (m = 0 || !t.guardTrue h.ctlG h.ctlGN first) then done
      else if !ctlGroup op && !ctlEach op && t.nat.once.isSome then
        done.modTeam w.uid t.tix (fun t => t.onceTo op e (t.nat.once.getD (0, 0)) first)
      else if t.pend.isNone && vstAlias (runOf s w (t.openWindow b) pc) op e first then s.rollback w.uid t.tix
      else
        match if op = 0x0A5 then t.natFaultOf m else none with
        | some x => s.exitFaulted w t m x
        | none =>
          match f (s.modTeam w.uid t.tix (fun t => t.beforeCtl b op pc now m)) with
          | .next s2 =>
            (match s2.teamOf w.uid t.tix with
             | none => s2
             | some (_, t2) =>
               let t4 := t.afterCtl t2 h op pc (lenOf e) now e m s2.nextId
               s2.modTeam w.uid t.tix (fun _ => match t2.st, t2.pend with
                 | .stall y, some k => { t4 with st := .stall y, pend := some k }
                 | .done, _ => { t4 with st := .done, pend := none, nat := t4.nat.idle }
                 | _, _ => t4.ctlDone))
          | _ => s

/-! A thread's execution of a bundle (R105). -/

/-- The active threads of the bundle that comes. -/
def Team.activeNow (t : Team) : BitVec 32 := t.nat.mask &&& t.top &&& t.runMask &&& ~~~t.nat.stuck

/-- The bundle is the clause's last. -/
def NatTeam.last (n : NatTeam) (h : ClauseHeader) : Bool := n.bundle = h.nb.toNat

/-- The clause carries an operation of the group. -/
def groupCtl (h : ClauseHeader) : Bool := ((opOfCtl h.ctlOp.toNat).map ctlGroup).getD false

/-- A bundle begins: its active threads and its occupancy are fixed, and the watchdog counts it (R108, R175). -/
def Team.beginBundle (t0 : Team) (h : ClauseHeader) (b : Bundle) : Team :=
  let t := t0.watch t0.diverged
  let uni := h.uni.getLsbD t.nat.bundle
  { t with st := .ready, pend := none, nat := { t.nat with
      occ := occupancy uni (maskList t.activeNow 32).length (bankExcess uni b), act := t.activeNow, todo := t.activeNow, subs := [], late := [],
      rank := 0, ctl := none, once := none, ctlLeft := t.nat.last h && h.ctlV && groupCtl h } }

/-- The marks of a flag that a thread's execution makes: of its operations, and of a CTL operation that is due with it. -/
def Team.marks (t : Team) (h : ClauseHeader) (f : Nat) : Nat :=
  t.nat.subs.countP (fun n => n.flag = some f) +
  if t.nat.ctl.isSome && t.nat.once.isNone && ((opOfCtl h.ctlOp.toNat).map ctlMarks).getD false && flagField h.setA = some f then 1 else 0

/-- The flag that a thread's execution would raise above 255 (R110). -/
def Team.overFlag (t : Team) (h : ClauseHeader) : Option Nat :=
  findBy (fun f => decide (t.marks h f ≠ 0 ∧ t.flagOf f + t.marks h f > 255)) (List.range 12)

/-- An append of the thread's moves overlaps a live entry of the team (R326). -/
def appendAlias (b : Bundle) (i : Nat) (r : Run) : Bool :=
  (movesOf 0 (bundleSlots b)).any (fun m => m.dport = 7 && !(m.grd ≠ 15 && (r.t.pGet i m.grd.toNat == m.gn)) &&
    (match r.s.streamRecord r.w m.didx.toNat with
     | none => false
     | some rec =>
       let st := r.t.stream m.didx.toNat
       r.aliasMet (r.aliasKey i (fieldAt rec 4 1) (elemAddr rec st.base st.pos) (2 ^ st.esz))))

/-- The next thread of a bundle executes its moves, or the first does so for the team of a uniform one: all of them, or nothing where it has
to wait. What it triggers comes next. A team-replayable fault takes the thread out of the clause. -/
def State.threadMoves (s : State) (w : Workgroup) (t : Team) (pc : Nat) (h : ClauseHeader) (b : Bundle) (i : Nat) : State :=
  let uni := h.uni.getLsbD t.nat.bundle
  let m := if uni then t.nat.act else bit32 i
  let due := t.nat.last h && h.ctlV && !groupCtl h
  let whole := uni && ((opOfCtl h.ctlOp.toNat).map (fun op => decide (op ≤ 0x0A4))).getD false
  let t1 : Team := { t with pend := none, nat := { t.nat with subs := [], todo := t.nat.todo &&& ~~~m,
                                                              ctl := if due then some (if whole then t.nat.mask else m) else none } }
  let r : Run := { runOf s w t1 pc with parts := maskList m t.threads.length, cands := m }
  if appendAlias b i r then s.rollback w.uid t.tix
  else
    let r1 := bundleUnit h b uni m r i
    let wait := fun (s : State) (y : Stall) => s.modTeam w.uid t.tix (fun t => { t with st := .stall y, pend := some m })
    match r1.halt with
    | .fatal f => r1.sync.teamFatal r1.w r1.t m f
    | .stall y => wait (match y with
        | .key d => s.exhaust d
        | _ => s) y
    | .replay y => s.modTeam w.uid t.tix (fun t => { t with pend := none, nat := { t.nat with
        subs := [], todo := t.nat.todo &&& ~~~m, stuck := t.nat.stuck ||| m, why := y } })
    | .go =>
      match r1.t.overFlag h with
      | some f => wait s (.flagFull f)
      | none => { r1 with t := { r1.t with nat := { r1.t.nat with region := r1.t.nat.regionAfter (fabricStore t r1.t) } } }.sync

/-! The end of a clause (R101, R115, R116, R177). -/

/-- The threads of a mask revert to their records and are named in `TEAM_FMASK`; the team goes to REPLAY. -/
def Team.toReplay (t : Team) (m : BitVec 32) (y : ReplayWhy) : Team :=
  let t1 := t.revertTo t.commit m
  { t1 with
    threads := mapThreads (fun i h => if hasBit m i then { h with st := .fault } else h) 0 t1.threads
    fmask := t1.fmask ||| m, st := .replay y }

/-- The threads of a clause that fall through go to the next clause, or back to the head of the loop that it ends. A thread whose moves met a
fault reverts to its record at once: it can go on nowhere (DEDUCED, log 115). -/
def Team.endClause (t : Team) (h : ClauseHeader) (pc : Nat) : Team :=
  let y : Nat × List HwLoop × Option Nat := match t.nat.loops with
    | l :: rest =>
      if l.last = pc && t.nat.jumped = 0 then
        (if l.count - 1 ≠ 0 then (l.head, { l with count := l.count - 1 } :: rest, some l.head) else (nextClause h pc, rest, none))
      else (nextClause h pc, t.nat.loops, none)
    | [] => (nextClause h pc, [], none)
  let stay := t.nat.mask &&& ~~~t.nat.jumped &&& ~~~t.nat.stuck
  let t1 := { t with
    threads := mapThreads (fun i x => { x with pc := if hasBit stay i && x.st ≠ ThreadSt.exit then y.1 else x.pc, results := [] }) 0 t.threads
    nat := { t.nat with loops := y.2.1, back := y.2.2 } }
  let t2 := t1.settle.afterIssue
  let t3 := match t.nat.post with
    | some z => if t2.st = TeamSt.done then t2 else { t2 with st := .stall z }
    | none => t2
  let t4 := if t.nat.stuck = 0 then t3 else t3.toReplay t.nat.stuck t.nat.why
  { t4 with nat := t4.nat.idle }

/-- Every thread has executed a bundle, with all that it has triggered. -/
def Team.endBundle (t : Team) (h : ClauseHeader) (pc : Nat) : Team :=
  let t1 := { t with clock := t.clock + t.nat.occ, nat := { t.nat with bundle := t.nat.bundle + 1, occ := 0 } }
  if t.nat.last h then t1.endClause h pc else t1

/-- What the team does next inside a bundle: the operations that the last thread has triggered and its CTL operation, the next thread, the
exchanges, the CTL operation of the whole clause, the end. It goes on until the team waits or the bundle is done. -/
def bundleGo (u i pc : Nat) (h : ClauseHeader) (b : Bundle) : Nat → State → State
  | 0, s => s
  | k + 1, s =>
    match s.teamOf u i with
    | none => s
    | some (w, t) =>
      if t.st ≠ .ready || !t.nat.started then s
      else
        match t.nat.subs, t.nat.ctl, maskList t.nat.todo t.threads.length with
        | n :: rest, _, _ => bundleGo u i pc h b k (s.runUnit w t pc n rest)
        | [], some m, _ => bundleGo u i pc h b k (s.runCtl w t pc h b m)
        | [], none, j :: _ => bundleGo u i pc h b k (s.threadMoves w t pc h b j)
        | [], none, [] =>
          match t.nat.late with
          | n :: rest => bundleGo u i pc h b k (s.modTeam u i (fun t => { t with nat := { t.nat with subs := [n], late := rest } }))
          | [] =>
            if t.nat.ctlLeft then
              bundleGo u i pc h b k (s.modTeam u i (fun t => { t with nat := { t.nat with ctlLeft := false, ctl := some t.nat.mask } }))
            else s.modTeam u i (fun t => t.endBundle h pc)

/-! The two actions of a team in native code. -/

/-- The record that threads pass at a COMMIT clause: each stands there as it is, and what they issue from now comes after it. -/
def Team.recordAt (t : Team) (old : Option CommitRec) (h : ClauseHeader) (pc id : Nat) (m : BitVec 32) : CommitRec :=
  let ids := maskList m t.threads.length
  { pc := pc, sidx := h.sidx.toNat, at_ := id, gf := t.nat.gf, fstat := t.fstat
    since := ids.foldl (fun l i => tabSet i id l) ((old.map CommitRec.since).getD [])
    threads := ids.foldl (fun l i => tabSet i (t.thread i) l) ((old.map CommitRec.threads).getD []) }

/-- A clause starts (R99, R113): threads that replay start alone. A COMMIT record is passed; an IDEM clause opens a region. -/
def Team.startClause (t0 : Team) (h : ClauseHeader) (pc id : Nat) : Team :=
  let m := if t0.fmask ≠ 0 then t0.faulted pc else t0.candidates pc
  let t := { t0 with threads := mapThreads (fun i x => if hasBit m i then { x with st := .run, results := [] } else x) 0 t0.threads }
  let same := t0.nat.region.any (fun c => c.pc = pc)
  { t with
    yieldAt := none, pend := none, fmask := t.fmask &&& ~~~m, st := .ready
    commit := if h.commit then t.recordAt (some t.commit) h pc id m else t.commit
    nat := { t.nat.idle with
      started := true, pc := pc, mask := m, back := if t.nat.back = some pc then none else t.nat.back
      region := if h.idem then some (t.recordAt (if same then t.nat.region else none) h pc id m) else t.nat.region
      inOrder := t.nat.inOrder && !(h.commit && t.commit.pc ≠ pc) } }

/-- The faults that are delivered before a clause starts: those of a flag that its WAIT names, and all of them at a STOP point (R116). -/
def Team.dueFaults (t : Team) (h : ClauseHeader) (stop : Bool) : List NatFault :=
  t.nat.faults.filter (fun x => stop || (match x.flag with
    | some f => h.wait.getLsbD f
    | none => false))

/-- The point before a clause is a STOP point (R113). -/
def Team.stopAt (t : Team) (h : ClauseHeader) (pc : Nat) : Bool := h.stop || t.nat.back = some pc

/-- The portable address of the operation that a flag's fault stands for: the origin entry of the commit record (R116, R121), else the
clause's address. -/
def originOf (side : List Byte) (sidx : Nat) (f : Option Nat) (pc : Nat) : Nat :=
  let o := fieldAt side (fieldAt side 16 8 + 4 * sidx) 4
  let at_ := fun (k : Nat) => o + 16 + 8 * fieldAt side (o + 8) 2 + 8 * k
  match f.bind (fun f => findBy (fun k => decide (fieldAt side (at_ k) 1 % 16 = f)) (List.range (fieldAt side (o + 11) 1))) with
  | some k => fieldAt side (at_ k + 4) 4
  | none => pc

/-- The side table of the object at an address. -/
def State.sideAt (s : State) (c pc : Nat) : List Byte := ((s.objAt c pc).map CodeObj.side).getD []

/-- Delivers faults before a clause: the first context-fatal one ends the context; else the threads revert and replay, and all of the
team's alias entries are freed (R116, R326). -/
def State.deliverDue (s : State) (w : Workgroup) (t : Team) (pc : Nat) (l : List NatFault) : State :=
  let fatal := l.filterMap (fun x => match x.why with
    | .fatal f => some (x, f)
    | .replay _ => none)
  match fatal with
  | (x, f) :: _ => s.teamFatal w t x.mask { f with ppc := originOf (s.sideAt w.ctx pc) t.commit.sidx x.flag f.ppc }
  | [] =>
    let m := l.foldl (fun (k : BitVec 32) x => k ||| x.mask) 0
    let y := l.foldl (fun (z : ReplayWhy) x => match x.why with
      | .replay v => v
      | .fatal _ => z) t.nat.why
    (s.modTeam w.uid t.tix (fun t => t.toReplay m y)).aliasDrop w.uid t.tix (fun _ => true)

/-- The team acquires direct mode again after a cut, as by `.on`: the monitor counts as after an idle interval (R278). -/
def State.regainDirect (s : State) (u i core : Nat) : State :=
  (s.modCore core (fun k => { k with direct := some (u, i), lastStart := none })).modTeam u i (fun t => { t with nat := { t.nat with direct := false } })

/-- Direct mode can be acquired: no team of the core holds it, and no nest operation is QUEUED or ACTIVE (R276). -/
def State.directFree (s : State) (core : Nat) : Bool := ((s.getCore core).bind Core.direct).isNone && (s.pressHeld core).isEmpty

/-- Starts a clause at a team's lead PC: the team's identities advance past the record, direct mode is acquired again, and the alias entries
of the region before the record are freed (R326). -/
def State.enterClause (s : State) (w : Workgroup) (t : Team) (h : ClauseHeader) (pc : Nat) : State :=
  let s0 : State := { s with nextId := s.nextId + 1 }
  let s1 := s0.modTeam w.uid t.tix (fun t => t.startClause h pc s0.nextId)
  let s2 := if t.nat.direct then s1.regainDirect w.uid t.tix w.core else s1
  if h.commit then s2.aliasDrop w.uid t.tix (fun j => hasBit (t.startClause h pc 0).nat.mask j) else s2

/-- `clauseStart`: the WAIT is satisfied, then recorded and pending faults are delivered, a `halt` ends the team, and the clause starts. -/
def execClauseStart (h : ClauseHeader) (s : State) : Host.Outcome State Fault Refusal :=
  match s.issuer with
  | none => .fault .noIssuingTeam
  | some (w, t) =>
    match t.leadPc with
    | none => .fault .noIssuingTeam
    | some pc =>
      let wait := t.waitFlags h.wait
      let stop := t.stopAt h pc
      if wait ≠ 0 then .next (s.modTeam w.uid t.tix (fun t => { t with st := .stall (.flags wait) }))
      else if t.nat.direct && !s.directFree w.core then .next (s.modTeam w.uid t.tix (fun t => { t with st := .stall .direct }))
      else
        match t.dueFaults h stop with
        | x :: rest => .next (s.deliverDue w t pc (x :: rest))
        | [] =>
          if stop && t.halting then .next (s.haltTeam w.uid t.tix)
          else
            match t.pendFaults with
            | f :: _ => .next (if stop then s.teamFatal w t t.runMask f else s.enterClause w t h pc)
            | [] => .next (s.enterClause w t h pc)

/-- The first issue of a bundle (R112). -/
def State.beginBundle (s : State) (w : Workgroup) (t : Team) (h : ClauseHeader) (b : Bundle) : State :=
  let s1 := s.modTeam w.uid t.tix (fun t => t.beginBundle h b)
  if bankExcess (h.uni.getLsbD t.nat.bundle) b > 0 then s1.modCore w.core (fun k => { k with bankser := k.bankser + 1 }) else s1

/-- The threads of a bundle that a cut has named in `TEAM_FMASK` go on (R179): what they have triggered is executed where they left it, and the
others execute. -/
def Team.unmask (t : Team) : Team :=
  let m := t.fmask &&& t.nat.mask
  let k := m &&& ~~~t.nat.todo
  if m = 0 then t
  else { t with threads := mapThreads (fun i h => if hasBit m i then { h with st := .run } else h) 0 t.threads
                fmask := t.fmask &&& ~~~m, pend := if (t.nat.subs ≠ [] || t.nat.ctl.isSome) && k ≠ 0 then some k else t.pend }

/-- `bundleIssue`: a bundle issues, or a team that had to wait inside it goes on where it stood. -/
def execBundleIssue (b : Bundle) (s : State) : Host.Outcome State Fault Refusal :=
  match s.issuer with
  | none => .fault .noIssuingTeam
  | some (w, t) =>
    match t.leadPc with
    | none => .fault .noIssuingTeam
    | some pc =>
      match s.headerAt w.ctx pc with
      | none => .next (s.teamFatal w t t.runMask { mkFault clsIllegal 0 0 with ppc := pc })
      | some h =>
        let s1 := if t.nat.started then s else s.enterClause w t h pc
        match s1.teamOf w.uid t.tix with
        | none => .next s1
        | some (w1, t1) =>
          let s2 := if t1.nat.occ ≠ 0 then s1.modTeam w.uid t.tix (fun t => { t.unmask with st := .ready }) else s1.beginBundle w1 t1 h b
          .next (bundleGo w.uid t.tix pc h b 400 s2)

/-! Completion of long-latency operations (R110). -/

/-- A long-latency operation can complete now: its latency is over, and what the team sent is acknowledged where it is a release. -/
def State.longDone (s : State) (t : Team) (x : LongLat) : Bool := s.cc ≥ x.due && (x.rel.isNone || t.unacked.isEmpty)

/-- Writes WREG, whole. -/
def Team.writeBack (t : Team) (x : LongLat) : Team :=
  if x.wreg = 0 then t
  else
    match x.thread with
    | some i => if x.wide then (t.aSet i x.wreg x.val).aSet i (x.wreg + 1) x.hi else t.aSet i x.wreg x.val
    | none => if x.wide then (t.gSet x.wreg x.val).gSet (x.wreg + 1) x.hi else t.gSet x.wreg x.val

/-- Operation `k` of a team completes: WREG is written and its flag lowered; a `.sc` release acquires (R228). -/
def execLongLatencyComplete (u i k : Nat) (s : State) : Host.Outcome State Fault Refusal :=
  .next (match s.teamOf u i with
    | none => s
    | some (w, t) =>
      match t.nat.outstanding[k]? with
      | none => s
      | some x =>
        if !s.longDone t x then s
        else
          let s1 := s.modTeam u i (fun t =>
            let t1 := (t.writeBack x).flagSub x.flag
            { t1 with nat := { t1.nat with outstanding := t1.nat.outstanding.take k ++ t1.nat.outstanding.drop (k + 1) } })
          match x.rel with
          | some sc => s1.acquire w.core u i sc
          | none => s1)

end Sys2Proof.Machine
end

