-- ==== Sys2Proof/Machine/Verify.lean ====
section
/-! DEFINITION. The loader's checks of a native-mode object (R99 to R106, R113 to R115, R121, R122): every clause and bundle, the side table,
and the control-flow graph. -/
namespace Sys2Proof.Machine

/-- A clause of `.text`: its offset, header and bundles. -/
structure Clause where
  off : Nat
  h : ClauseHeader
  bundles : List Nat
  deriving DecidableEq, Repr

/-- The clauses of `.text` in order; none where the bytes end inside a clause or stand misaligned. -/
def clausesOf : Nat → Nat → List Byte → Option (List Clause)
  | 0, _, _ => none
  | k + 1, off, bs =>
    if bs.isEmpty then some []
    else if bs.length < 48 then none
    else
      let h := headerOf (bytesNat (bs.take 16))
      let n := 16 + 32 * (h.nb.toNat + 1)
      if bs.length < n ∨ off % 16 ≠ 0 then none
      else (clausesOf k (off + n) (bs.drop n)).map (fun r =>
        { off := off, h := h, bundles := (List.range (h.nb.toNat + 1)).map (fun j => bytesNat ((bs.drop (16 + 32 * j)).take 32)) } :: r)

def Clause.last (c : Clause) : Bundle := bundleOf (c.bundles.getLastD 0)
def Clause.uni (c : Clause) : Bool := c.h.uni.getLsbD c.h.nb.toNat
def Clause.op (c : Clause) : Option Nat := if c.h.ctlV then opOfCtl c.h.ctlOp.toNat else none
def Clause.next (c : Clause) : Nat := nextClause c.h c.off
/-- The offset that the target layout names (R100). -/
def Clause.target (c : Clause) : Int := (c.off : Int) + 16 * (BitVec.ofNat 36 c.h.ctlImm.toNat).toInt

def distinct (l : List Nat) : Bool := l.eraseDups.length = l.length

/-! Moves and bundles (items 1 to 4 and 9). -/

/-- A slot's literal bits 39:32, and the bits above LMW, are zero (R103). -/
def bundleRsvOk (x : Nat) (last : Bool) : Bool :=
  Legal.bits 255 249 x = 0 && (last || Legal.bits 248 246 x = 0) &&
  (List.range 6).all (fun i => Legal.bits (240 + i) (240 + i) x = 0 || Legal.bits (40 * i + 39) (40 * i + 32) x = 0)

/-- The destination of a move, for item 4; none for the null port and for register 0. In a uniform bundle `rf` and `gf` name the same
registers. -/
def moveDst (uni : Bool) (m : Move) : Option Nat :=
  if m.dport = 15 || ((m.dport = 0 || m.dport = 10) && m.didx = 0) then none
  else if 1 ≤ m.dport.toNat && m.dport.toNat ≤ 6 then some (m.dport.toNat * 4096 + m.dsub.toNat * 256)
  else if uni && m.dport = 10 then some m.didx.toNat
  else some (m.dport.toNat * 4096 + m.didx.toNat)

/-- SEL is legal for the width that it is read against (R69 to R72); a move into `pr` takes none. -/
def moveSelOk (m : Move) : Bool :=
  m.sel = 0 || (m.dport ≠ 9 && (if m.w = 1 then m.sel.toNat ≤ 3 else m.w = 2 || m.w = 3))

/-- The modifier word that a trigger's bundle gives it, where it is known before the run. -/
def knownM (b : Bundle) (ms : List Move) (port : BitVec 4) : Option Nat :=
  match findBy (fun (y : Move) => y.dport = port && y.dsub = 2) ms with
  | some y =>
    if y.sport = 15 && y.ssub = 2 then some (bundleLit b (y.sidx.toNat % 8))
    else if y.sport = 15 then some (BitVec.ofInt 32 y.sidx.toInt).toNat else none
  | none => some 0

/-- A bundle of code whose threads have some registers. -/
def nativeBundleOk (regs : Nat) (uni last : Bool) (x : Nat) : Bool :=
  let b := bundleOf x
  let ms := movesOf 0 (bundleSlots b)
  wfBundle b && bundleRsvOk x last &&
  ms.all (fun m => (m.sport ≠ 0 || uni || m.sidx.toNat < regs) && (m.dport ≠ 0 || uni || m.didx.toNat < regs) &&
    (m.dport ≠ 10 || uni) && m.dport ≠ 8 && moveSelOk m &&
    (!isTrigger m || (opOfTrigger m.dport.toNat m.didx.toNat).isSome)) &&
  distinct (ms.filterMap (moveDst uni)) &&
  ms.all (fun m => !isTrigger m || (match knownM b ms m.dport, opOfTrigger m.dport.toNat m.didx.toNat with
    | some k, some op => mOk op k
    | none, some _ => true
    | _, none => false))

/-! Headers (items 1, 2, 5 to 7 and 9). -/

/-- A 12-bit specifier keeps its zero fields and names what exists (R62, R100). -/
def specifierOk (x : Nat) : Bool :=
  let n := x % 1024
  if x / 1024 = 0 then n < 255
  else if x / 1024 = 1 then (Legal.operandOf (0x2000 + n) 0 true).isSome
  else if x / 1024 = 2 then true
  else n < 8

/-- A specifier of a field: zero where the operation does not use it; a special operand or an immediate only where the field accepts one. -/
def fieldSpecOk (role : List Legal.Cls) (x : Nat) : Bool :=
  if role = [] then x = 0
  else specifierOk x &&
    (if x / 1024 = 1 then ((Legal.operandOf (0x2000 + x % 1024) 0 true).map (fun o => role.contains (Legal.clsOf o))).getD false
     else x / 1024 ≠ 2 || role.contains .imm)

/-- The specifiers of `pdir` (R275). -/
def pdirSpecOk (v x : Nat) : Bool :=
  let off := fun (y : Nat) => (y / 1024 = 0 && y < 255) || y / 1024 = 2
  if v = 1 then (match Legal.operandOf (0x2000 + x % 1024) 0 true with
      | some o => x / 1024 % 4 = 1 && Legal.clsOf o = .vt
      | none => false) && off (x / 2 ^ 12 % 4096) && off (x / 2 ^ 24 % 4096) && x / 2 ^ 36 = 0
  else x = 0

/-- CTLIMM under the layout that the operation fixes (R100). -/
def ctlImmOk (c : Clause) (op : Nat) : Bool :=
  let x := c.h.ctlImm.toNat
  if op = 0x0A0 || op = 0x0A2 then x / 2 ^ 36 = 0
  else if op = 0x0AE || op = 0x0A6 then specifierOk (x / 2 ^ 36)
  else if op = 0x12B then pdirSpecOk (mVar (ctlM c.last)) x
  else
    match Legal.shapeOf op with
    | none => false
    | some sh =>
      let e := ctlEnc c.h c.last op (ctlM c.last) c.uni
      fieldSpecOk (Legal.roleD op e sh.d) (x % 4096) && fieldSpecOk (Legal.roleA op e sh.a) (x / 2 ^ 12 % 4096) &&
      fieldSpecOk (Legal.roleB op e sh.b) (x / 2 ^ 24 % 4096) &&
      (if specC op then x / 2 ^ 36 = 0 else fieldSpecOk (Legal.roleC op e sh.c) (x / 2 ^ 36))

/-- The operation names its target by CTLIMM (R100). -/
def directOp (op : Nat) : Bool := [0x0A0, 0x0A2, 0x0A6, 0x0AE].contains op

/-- A clause's header, with the modifier word and the target of its CTL operation. -/
def nativeHeaderOk (starts : List Nat) (nrec : Nat) (c : Clause) : Bool :=
  wfHeader c.h && (!c.h.commit || c.h.sidx.toNat < nrec) &&
  (!c.h.ctlV || (match c.op with
    | some op => mOk op (ctlM c.last) && ctlImmOk c op && (!directOp op || starts.any (fun st => (st : Int) = c.target))
    | none => false))

/-! The side table (R121). -/

/-- A commit record at an offset: within the table, every reserved field zero, every code one that the tables list. -/
def recordOk (side : List Byte) (o : Nat) : Bool :=
  let nmap := fieldAt side (o + 8) 2
  let norig := fieldAt side (o + 11) 1
  o + 16 + 8 * nmap + 8 * norig ≤ side.length && fieldAt side (o + 10) 1 < 4 && norig ≤ 12 && zeroAt side (o + 12) 4 &&
  fieldAt side o 4 = 0xFFFFFFFF &&
  (List.range nmap).all (fun k =>
    let x := fieldAt side (o + 16 + 8 * k) 8
    Legal.bits 18 17 x ≤ 2 && Legal.bits 19 19 x = 0 && Legal.bits 31 30 x = 0 && (Legal.bits 29 28 x = 3 || Legal.bits 63 32 x = 0)) &&
  (List.range norig).all (fun k =>
    let x := fieldAt side (o + 16 + 8 * nmap + 8 * k) 8
    Legal.bits 3 0 x ≤ 11 && Legal.bits 31 4 x = 0)

/-- The offset of a record. -/
def recordOff (side : List Byte) (k : Nat) : Nat := fieldAt side (fieldAt side 16 8 + 4 * k) 4

def sideOk (side : List Byte) : Bool :=
  32 ≤ side.length && fieldAt side 0 4 = 1 && fieldAt side 8 4 ≤ 64 && zeroAt side 12 4 &&
  fieldAt side 16 8 + 4 * fieldAt side 4 4 ≤ side.length && fieldAt side 24 8 + 8 * fieldAt side 8 4 ≤ side.length &&
  (List.range (fieldAt side 4 4)).all (fun k => recordOk side (recordOff side k)) &&
  (List.range (fieldAt side 8 4)).all (fun k =>
    fieldAt side (fieldAt side 24 8 + 8 * k) 2 < 64 && zeroAt side (fieldAt side 24 8 + 8 * k + 6) 2)

/-! The control-flow graph (item 8: R114, R115). -/

/-- The loops of the code: head and last clause. -/
def loopsOf (cs : List Clause) : List (Nat × Nat) :=
  cs.filterMap (fun c => if c.op = some 0x0A6 then some (c.next, c.target.toNat) else none)

/-- A clause's CTL transfer always takes place: it is unguarded. -/
def Clause.always (c : Clause) : Bool := c.h.ctlG = 15

/-- Where control goes after a clause, back edges of R115 apart. A transfer through a register goes to STOP clauses only. -/
def Clause.succs (loops : List (Nat × Nat)) (ends : List (Nat × Nat)) (c : Clause) : List Nat :=
  match c.op with
  | none => [c.next]
  | some op =>
    if op = 0x0A0 || op = 0x0A2 then c.target.toNat :: (if c.always then [] else [c.next])
    else if op = 0x0AE then [c.target.toNat, c.next]
    else if op = 0x0A6 then c.next :: (ends.filter (fun e => (e.1 : Int) = c.target)).map Prod.snd
    else if op = 0x0A7 then c.next :: (loops.filter (fun l => l.1 ≤ c.off && c.off ≤ l.2)).map Prod.fst
    else if op = 0x0A1 || op = 0x0A3 || op = 0x0A4 || op = 0x0A5 || op = 0x158 then (if c.always then [] else [c.next])
    else [c.next]

/-- The back edges of R115 from a clause. -/
def Clause.backs (loops : List (Nat × Nat)) (c : Clause) : List Nat := (loops.filter (fun l => l.2 = c.off)).map Prod.fst

/-- The value of a table at an offset. -/
def at_ (t : List (Nat × Nat)) (o : Nat) : Nat := (tabGet o t).getD 0

/-- Longest runs of bundles from each clause up to a STOP point; a run past 1024, which a cycle without one gives, fails. -/
def spacingGo (stop : Nat → Bool) (es : List (Nat × Nat × List Nat)) : Nat → List (Nat × Nat) → Bool
  | 0, _ => false
  | k + 1, t =>
    let t1 := es.map (fun e => (e.1, e.2.1 + (e.2.2.map (fun o => if stop o then 0 else at_ t o)).foldl max 0))
    if t1.any (fun x => x.2 > 1024) then false else if t1 = t then true else spacingGo stop es k t1

/-- The flags that a clause's operations with a known, non-zero WREG mark. -/
def Clause.wregFlags (c : Clause) : BitVec 12 :=
  c.bundles.foldl (fun (f : BitVec 12) x =>
    let b := bundleOf x
    let ms := movesOf 0 (bundleSlots b)
    ms.foldl (fun f m =>
      match isTrigger m, opOfTrigger m.dport.toNat m.didx.toNat, knownM b ms m.dport with
      | true, some op, some k =>
        if isLong m.dport.toNat op && mWreg k ≠ 0 then
          (match flagField (if mFsel k = 1 then c.h.setB else c.h.setA) with
           | some n => f ||| BitVec.ofNat 12 (2 ^ n)
           | none => f)
        else f
      | _, _, _ => f) f) 0

/-- Flags marked and not waited on, on entry to each clause. -/
def pendingGo (cs : List Clause) (succ : Clause → List Nat) : Nat → List (Nat × Nat) → List (Nat × Nat)
  | 0, t => t
  | k + 1, t =>
    let out := fun (c : Clause) => (BitVec.ofNat 12 (at_ t c.off) &&& ~~~c.h.wait) ||| c.wregFlags
    let t1 := cs.map (fun d => (d.off, (cs.foldl (fun (f : BitVec 12) c => if (succ c).contains d.off then f ||| out c else f)
      (BitVec.ofNat 12 (at_ t d.off))).toNat))
    if t1 = t then t else pendingGo cs succ k t1

/-- R114: the spacing of STOP points; a STOP clause at every return point and every known target of an indirect transfer, `entries` being
those (DEDUCED, log 117); and the flags of register results waited on. A STOP point comes when its clause's WAIT is satisfied. -/
def stopsOk (cs : List Clause) (entries : List Nat) : Bool :=
  let loops := loopsOf cs
  let ends := cs.map (fun c => (c.off, c.next))
  let stop := fun (o : Nat) => cs.any (fun c => c.off = o && c.h.stop)
  let succ := fun (c : Clause) => c.succs loops ends ++ c.backs loops
  let pend := pendingGo cs succ (12 * cs.length + 1) []
  spacingGo stop (cs.map (fun c => (c.off, c.h.nb.toNat + 1, c.succs loops ends))) 1026 [] &&
  entries.all stop &&
  cs.all (fun c => (c.op ≠ some 0x0A2 && c.op ≠ some 0x0A3) || stop c.next) &&
  cs.all (fun c => !(c.h.stop || loops.any (fun l => l.1 = c.off && cs.any (fun d => d.off = l.2))) ||
    BitVec.ofNat 12 (at_ pend c.off) &&& ~~~c.h.wait = 0)

/-- R115: the last clause of every loop has a record, with the back-edge flag. -/
def loopsOk (side : List Byte) (cs : List Clause) : Bool :=
  (loopsOf cs).all (fun l => cs.any (fun c => c.off = l.2 && c.h.commit && fieldAt side (recordOff side c.h.sidx.toNat + 10) 1 / 2 % 2 = 1))

/-! The whole object. -/

/-- The register places of the code at an offset: those of the kernel that holds it, or of the largest kernel. -/
def regsAt (kernels : List Byte) (off : Nat) : Nat :=
  let ds := (List.range (kernels.length / 64)).map (fun i => (kernels.drop (64 * i)).take 64)
  match ds.filter (fun d => fieldAt d 4 4 ≤ off && off < fieldAt d 4 4 + fieldAt d 8 4) with
  | [] => (ds.map (fun d => fieldAt d 16 2)).foldl max 8
  | x :: r => (r.map (fun d => fieldAt d 16 2)).foldl min (fieldAt x 16 2)

/-- R122. -/
def nativeOk (text side kernels : List Byte) (entries : List Nat) : Bool :=
  match clausesOf (text.length / 48 + 1) 0 text with
  | none => false
  | some cs =>
    sideOk side &&
    cs.all (fun c => nativeHeaderOk (cs.map Clause.off) (fieldAt side 4 4) c &&
      (List.range c.bundles.length).all (fun j =>
        nativeBundleOk (regsAt kernels c.off) (c.h.uni.getLsbD j) (j + 1 = c.bundles.length) (c.bundles.getD j 0))) &&
    stopsOk cs entries && loopsOk side cs

end Sys2Proof.Machine
end

