-- ==== Sys2Proof/Machine/Elf.lean ====
section
/-! DEFINITION. A code object as a file (R53 to R58, R76 to R79, R122): its sections, notes, declarations, symbols and relocations,
and the loader's checks of R311 in their order. ELF's own layout is that of the ELF-64 standard, which R53 names. -/
namespace Sys2Proof.Machine

/-! Sections. -/

structure Section where
  name : List Byte
  type : Nat
  flags : Nat
  addr : Nat
  off : Nat
  size : Nat
  link : Nat
  info : Nat
  ent : Nat
  deriving DecidableEq, Repr

/-- Bytes of an ASCII text. -/
def ascii (t : String) : List Byte := t.toList.map (fun ch => BitVec.ofNat 8 ch.toNat)

/-- The zero-terminated text at an offset. -/
def cstr (bs : List Byte) : List Byte := bs.takeWhile (· ≠ 0)

/-- Section header `k` of a file, its name as an offset in the name table. -/
def sectionAt (f names : List Byte) (k : Nat) : Section :=
  let h := (f.drop (fieldAt f 40 8 + 64 * k)).take 64
  { name := cstr (names.drop (fieldAt h 0 4)), type := fieldAt h 4 4, flags := fieldAt h 8 8, addr := fieldAt h 16 8, off := fieldAt h 24 8,
    size := fieldAt h 32 8, link := fieldAt h 40 4, info := fieldAt h 44 4, ent := fieldAt h 56 8 }

/-- The sections of a file. -/
def sectionsOf (f : List Byte) : List Section :=
  let n := fieldAt f 60 2
  let t := sectionAt f [] (fieldAt f 62 2)
  (List.range n).map (sectionAt f ((f.drop t.off).take t.size))

/-- The bytes of a section; NOBITS (8) holds none. -/
def Section.bytes (x : Section) (f : List Byte) : List Byte := if x.type = 8 then [] else (f.drop x.off).take x.size

def Section.alloc (x : Section) : Bool := x.flags / 2 % 2 = 1
def Section.exec (x : Section) : Bool := x.flags / 4 % 2 = 1

/-- The first section of a name; a second of the same name is passed over (DESIGN CHOICE, log 118: the manual is silent on it). -/
def named (ss : List Section) (n : String) : Option Section := findBy (fun x => x.name = ascii n) ss

def bytesOf (f : List Byte) (ss : List Section) (n : String) : List Byte :=
  match named ss n with
  | some x => x.bytes f
  | none => []

/-! R53, R54. -/

/-- The parts of the ELF-64 header that the standard fixes: its version, the sizes of its tables' entries, and tables within the file. -/
def elfHeaderOk (f : List Byte) : Bool :=
  f.length ≥ 64 && fieldAt f 0 4 = 0x464C457F && fieldAt f 6 1 = 1 && fieldAt f 20 4 = 1 && fieldAt f 52 2 = 64 && fieldAt f 58 2 = 64 &&
  fieldAt f 40 8 + 64 * fieldAt f 60 2 ≤ f.length && fieldAt f 62 2 < fieldAt f 60 2 &&
  (fieldAt f 56 2 = 0 || (fieldAt f 54 2 = 56 && fieldAt f 32 8 + 56 * fieldAt f 56 2 ≤ f.length))

/-- The sections lie within the file; their names stand in a string table; symbol and relocation tables have the standard's entries and name
the tables they belong to. -/
def elfTablesOk (f : List Byte) : Bool :=
  let ss := sectionsOf f
  let t := sectionAt f [] (fieldAt f 62 2)
  t.type = 3 && (List.range ss.length).all (fun k => fieldAt f (fieldAt f 40 8 + 64 * k) 4 < t.size) &&
  ss.all (fun x => (x.type = 8 || x.type = 0 || x.off + x.size ≤ f.length) &&
    (x.type ≠ 2 || (x.ent = 24 && x.size % 24 = 0 && ss[x.link]?.any (fun (y : Section) => y.type = 3))) &&
    (x.type ≠ 4 || (x.ent = 24 && x.size % 24 = 0 && x.info < ss.length && ss[x.link]?.any (fun (y : Section) => y.type = 2))))

/-- The header of R53, in a well-formed file. -/
def elfOk (f : List Byte) : Bool :=
  elfHeaderOk f && fieldAt f 4 1 = 2 && fieldAt f 5 1 = 1 && fieldAt f 7 1 = 0 && fieldAt f 16 2 = 3 && fieldAt f 18 2 = 0xA2B8 && elfTablesOk f

def flagsOk (f : List Byte) : Bool := fieldAt f 48 4 < 4 && fieldAt f 48 4 ≠ 1

/-- NAT (R54). -/
def isNative (f : List Byte) : Bool := fieldAt f 48 4 % 2 = 1
def isPriv (f : List Byte) : Bool := fieldAt f 48 4 / 2 % 2 = 1

/-! R55, R58. -/

/-- Linear decoding ends inside an instruction. -/
def endsInside : Nat → List Byte → Bool
  | 0, _ => false
  | k + 1, bs => if bs.isEmpty then false else if bs.length < startLen false bs then true else endsInside k (bs.drop (startLen false bs))

/-- A section's name begins with a text. -/
def Section.begins (x : Section) (n : String) : Bool := (ascii n).isPrefixOf x.name

/-- The types that R55 gives the recognised sections: PROGBITS 1, SYMTAB 2, STRTAB 3, RELA 4, NOTE 7, NOBITS 8. -/
def sectionTypes : List (String × List Nat) :=
  [(".text", [1]), (".rodata", [1, 8]), (".data", [1, 8]), (".bss", [1, 8]), (".staus.kernels", [1]), (".staus.streams", [1]), (".staus.rings", [1]),
   (".staus.nests", [1]), (".staus.linkage", [1]), (".staus.side", [1]), (".note.staus", [7]), (".symtab", [2]), (".strtab", [3])]

/-- R55 and the end of `.text` (R58). -/
def sectionsOk (f : List Byte) (ss : List Section) : Bool :=
  ss.all (fun x => (!x.exec || x.name = ascii ".text") && (!x.begins ".rela." || x.type = 4)) &&
  sectionTypes.all (fun n => (named ss n.1).all (fun x => n.2.contains x.type)) &&
  (named ss ".text").all (fun x => x.alloc && x.exec && x.size % 8 = 0 && x.addr % 8 = 0 &&
    (isNative f || !endsInside (x.size / 8 + 1) (x.bytes f))) &&
  (named ss ".staus.linkage").all (fun x => x.alloc && x.flags % 2 = 1) &&
  (bytesOf f ss ".staus.kernels").length % 64 = 0 && (bytesOf f ss ".staus.streams").length % 64 = 0 &&
  (bytesOf f ss ".staus.rings").length % 16 = 0 && (bytesOf f ss ".staus.linkage").length % 8 = 0

/-! R56, R57. -/

def up4 (n : Nat) : Nat := (n + 3) / 4 * 4

/-- The notes of a section: (name, type, descriptor); none where a note is cut off. A record is three 32-bit words, namesz, descsz and type, then
the name and the descriptor, each padded to 4 bytes (PRESUMED, log 70: the ELF standard's layout, which the manual does not repeat). -/
def notesOf : Nat → List Byte → Option (List (List Byte × Nat × List Byte))
  | 0, _ => some []
  | k + 1, bs =>
    if bs.isEmpty then some []
    else if bs.length < 12 then none
    else
      let nl := fieldAt bs 0 4
      let dl := fieldAt bs 4 4
      if 12 + up4 nl + dl > bs.length then none
      else (notesOf k (bs.drop (12 + up4 nl + up4 dl))).map (fun r =>
        ((bs.drop 12).take nl, fieldAt bs 8 4, (bs.drop (12 + up4 nl)).take dl) :: r)

def notesOk (f : List Byte) (ss : List Section) : Bool :=
  match notesOf f.length (bytesOf f ss ".note.staus") with
  | none => false
  | some l =>
    l.all (fun x => x.1 = ascii "Staus" ++ [0]) &&
    (match l.filter (fun x => x.2.1 = 1) with
     | [x] => x.2.2.length = 8 && fieldAt x.2.2 0 2 = 2 && fieldAt x.2.2 4 4 < 2 && (fieldAt x.2.2 2 2 ≤ 2 || fieldAt x.2.2 4 4 = 1)
     | _ => false)

/-! R76 to R78. -/

/-- A neighbourhood size pair of a descriptor. -/
def nbhPairOk (w h : Nat) : Bool := w ≤ 16 && h ≤ 8 && ((w = 0) == (h = 0)) && w * h ≤ 24

/-- A stream record (R77). -/
def streamRecOk (r : List Byte) : Bool :=
  let nd := fieldAt r 3 1
  fieldAt r 0 1 ≤ 15 && fieldAt r 1 1 ≤ 1 && fieldAt r 2 1 ≤ 4 && 1 ≤ nd && nd ≤ 4 && 1 ≤ fieldAt r 4 1 && fieldAt r 4 1 ≤ 4 && zeroAt r 5 3 &&
  fieldAt r 8 4 ≤ 131071 && zeroAt r 12 4 &&
  [0, 1, 2, 3].all (fun d => 1 ≤ fieldAt r (16 + 4 * d) 4 && (d < nd || (fieldAt r (16 + 4 * d) 4 = 1 && fieldAt r (32 + 8 * d) 8 = 0)) &&
    fieldAt r (32 + 8 * d) 8 % 2 ^ fieldAt r 2 1 = 0) &&
  recTotal r ≤ 2 ^ 40

/-- A ring record (R78). -/
def ringRecOk (r : List Byte) : Bool :=
  fieldAt r 0 1 ≤ 15 && zeroAt r 1 3 && fieldAt r 4 4 % 256 = 0 && fieldAt r 8 4 % 256 = 0 && fieldAt r 8 4 ≠ 0 && zeroAt r 12 4

/-- A ring lies in its kernel's scratchpad. -/
def ringFits (scratch : Nat) (r : List Byte) : Bool := fieldAt r 4 4 + fieldAt r 8 4 ≤ scratch

/-- `n` records of `w` bytes from record `first`; none where they run past the section. -/
def recordsAt (bs : List Byte) (w first n : Nat) : Option (List (List Byte)) :=
  if (first + n) * w > bs.length ∧ n ≠ 0 then none else some ((List.range n).map (fun i => (bs.drop (w * (first + i))).take w))

/-- The nest records: every one has 1 to 6 rows and a zero rest of its header. -/
def nestsOk : Nat → List Byte → Bool
  | 0, bs => bs.isEmpty
  | k + 1, bs =>
    if bs.isEmpty then true
    else 1 ≤ fieldAt bs 0 1 && fieldAt bs 0 1 ≤ 6 && zeroAt bs 1 7 && bs.length ≥ 8 + 32 * fieldAt bs 0 1 &&
      nestsOk k (bs.drop (8 + 32 * fieldAt bs 0 1))

def nestCount : Nat → List Byte → Nat
  | 0, _ => 0
  | k + 1, bs => if bs.isEmpty then 0 else 1 + nestCount k (bs.drop (8 + 32 * fieldAt bs 0 1))

/-- One kernel descriptor (R76), its entry a word 0 of the kernel. -/
def kernelOk (native : Bool) (text streams rings nests : List Byte) (nsyms : Nat) (d : List Byte) : Bool :=
  let b := fieldAt d 4 4
  let l := fieldAt d 8 4
  let e := fieldAt d 12 4
  let regs := fieldAt d 16 2
  fieldAt d 0 4 < nsyms && b + l ≤ text.length && b ≤ e && e < b + l && startsAt native (text.length / 8 + 1) text 0 e &&
  startsAt native (text.length / 8 + 1) text 0 b && 8 ≤ regs && regs ≤ 256 && regs % 8 = 0 &&
  1 ≤ fieldAt d 18 1 && fieldAt d 18 1 ≤ 32 && 1 ≤ fieldAt d 19 1 && fieldAt d 19 1 ≤ 64 && fieldAt d 20 4 ≤ 3 * 2 ^ 20 && fieldAt d 20 4 % 4096 = 0 &&
  nbhPairOk (fieldAt d 24 1) (fieldAt d 25 1) && nbhPairOk (fieldAt d 26 1) (fieldAt d 27 1) && fieldAt d 30 1 ≤ 16 && fieldAt d 31 1 ≤ 16 &&
  fieldAt d 37 1 ≤ 64 && zeroAt d 38 26 &&
  (match recordsAt streams 64 (fieldAt d 28 2) (fieldAt d 30 1) with
   | some rs => distinct (rs.map (fun r => fieldAt r 0 1))
   | none => false) &&
  (match recordsAt rings 16 (fieldAt d 32 2) (fieldAt d 31 1) with
   | some rs => rs.all (ringFits (fieldAt d 20 4)) && distinct (rs.map (fun r => fieldAt r 0 1))
   | none => false) &&
  (fieldAt d 36 1 = 0 || fieldAt d 34 2 + fieldAt d 36 1 ≤ nestCount nests.length nests)

/-- Every record of the declaration sections, and every kernel descriptor. -/
def declsOk (f : List Byte) (ss : List Section) : Bool :=
  let ks := bytesOf f ss ".staus.kernels"
  let text := bytesOf f ss ".text"
  let nests := bytesOf f ss ".staus.nests"
  let streams := bytesOf f ss ".staus.streams"
  let rings := bytesOf f ss ".staus.rings"
  nestsOk nests.length nests &&
  (List.range (streams.length / 64)).all (fun i => streamRecOk ((streams.drop (64 * i)).take 64)) &&
  (List.range (rings.length / 16)).all (fun i => ringRecOk ((rings.drop (16 * i)).take 16)) &&
  (List.range (ks.length / 64)).all (fun i =>
    kernelOk (isNative f) text streams rings nests
      ((bytesOf f ss ".symtab").length / 24) ((ks.drop (64 * i)).take 64))

/-! Symbols and placement. -/

/-- Where each section that the loader places stands: (section index, virtual address). -/
abbrev Placement := List (Nat × Nat)

/-- Sections the loader places, with whether they may be written and executed (R55, R313). -/
def placed : List (String × Bool × Bool) :=
  [(".text", false, true), (".rodata", false, false), (".data", true, false), (".bss", true, false), (".staus.linkage", true, false)]

def up256k (n : Nat) : Nat := (n + 2 ^ 18 - 1) / 2 ^ 18 * 2 ^ 18

/-- Places the sections one after another on pages of their own. -/
def placeGo (ss : List Section) : Nat → List (String × Bool × Bool) → List (Nat × Nat × Section × Bool × Bool)
  | _, [] => []
  | va, (n, w, x) :: r =>
    match findBy (fun (i : Nat × Section) => i.2.name = ascii n && i.2.size ≠ 0) ((List.range ss.length).zip ss) with
    | some (k, y) => (k, va, y, w, x) :: placeGo ss (va + up256k y.size) r
    | none => placeGo ss va r

/-- A symbol of the file with its address: in a placed section, or absolute. -/
def symAt (f : List Byte) (ss : List Section) (pl : List (Nat × Nat × Section × Bool × Bool)) (k : Nat) : Sym :=
  let b := (bytesOf f ss ".symtab").drop (24 * k)
  let strs := match named ss ".symtab" with
    | some x => (ss[x.link]?.map (fun (y : Section) => y.bytes f)).getD []
    | none => []
  let shn := fieldAt b 6 2
  let v := fieldAt b 8 8
  let here := findBy (fun (x : Nat × Nat × Section × Bool × Bool) => x.1 = shn) pl
  { name := cstr (strs.drop (fieldAt b 0 4)), global := fieldAt b 4 1 / 16 = 1, func := fieldAt b 4 1 % 16 = 2,
    defined := here.isSome || shn = 0xFFF1,
    addr := match here with
      | some x => x.2.1 + (v - x.2.2.1.addr)
      | none => v }

def symsOf (f : List Byte) (ss : List Section) (pl : List (Nat × Nat × Section × Bool × Bool)) : List Sym :=
  (List.range ((bytesOf f ss ".symtab").length / 24)).map (symAt f ss pl)

/-! Relocations (R79). -/

structure Rela where
  sec : Nat
  off : Nat
  type : Nat
  sym : Nat
  addend : Int
  deriving DecidableEq, Repr

/-- The relocations of a file: those of each `.rela.` section, against the section it names. An offset below the section's address lies in no
field. -/
def relasOf (f : List Byte) (ss : List Section) : List Rela :=
  (ss.filter (fun x => x.begins ".rela.")).flatMap (fun x =>
    let base := (ss[x.info]?.map Section.addr).getD 0
    (List.range (x.size / 24)).map (fun i =>
      let b := (x.bytes f).drop (24 * i)
      { sec := x.info, off := if fieldAt b 0 8 < base then 2 ^ 64 else fieldAt b 0 8 - base, type := fieldAt b 8 4, sym := fieldAt b 12 4, addend := signedAt b 16 8 }))

/-- The images of the placed sections, by section index. -/
abbrev Images := List (Nat × List Byte)

def patch (bs : List Byte) (off : Nat) (x : List Byte) : List Byte := bs.take off ++ x ++ bs.drop (off + x.length)

/-- A 17-bit immediate into operand A (or B) of the instruction at word 0: the field with class 11, and its high bits. -/
def patchImm (bs : List Byte) (off : Nat) (isB : Bool) (x : Nat) : List Byte :=
  let w0 := fieldAt bs off 8
  let w1 := fieldAt bs (off + 8) 8
  let lo := if isB then 0 else 14
  let hi := if isB then 54 else 49
  let put := fun (w p n v : Nat) => w / 2 ^ (p + n) * 2 ^ (p + n) + v % 2 ^ n * 2 ^ p + w % 2 ^ p
  patch (patch bs off (natBytes 8 (put w0 lo 14 (0x3000 + x % 4096)))) (off + 8) (natBytes 8 (put w1 hi 5 (x / 4096)))

/-- Word 0 of an instruction stands at an offset of portable code, and it is a `movi` where that is asked. -/
def wordZeroAt (nat : Bool) (x : Section) (bs : List Byte) (off : Nat) (movi : Bool) : Bool :=
  x.exec && !nat && startsAt false (bs.length / 8 + 1) bs 0 off && (!movi || Legal.opField (fieldAt bs off 8) = 0x001)

/-- Applies one relocation with its symbol's address; none where it does not fit or does not lie in what it names. -/
def relocate (nat : Bool) (pl : List (Nat × Nat × Section × Bool × Bool)) (imgs : Images) (r : Rela) (sv : Nat) : Option Images :=
  match tabGet r.sec imgs, findBy (fun (x : Nat × Nat × Section × Bool × Bool) => x.1 = r.sec) pl with
  | some bs, some p =>
    let v : Int := (sv : Int) + r.addend
    if r.type = 1 then
      (if r.off + 8 ≤ bs.length ∧ (!p.2.2.1.exec || (8 ≤ r.off && wordZeroAt nat p.2.2.1 bs (r.off - 8) true)) then some (tabSet r.sec (patch bs r.off (natBytes 8 (v % 2 ^ 64).toNat)) imgs) else none)
    else if r.type = 2 then
      let y := (BitVec.ofInt 64 v).toInt
      (if r.off + 4 ≤ bs.length ∧ -(2 ^ 31) ≤ y ∧ y < 2 ^ 32 then
        some (tabSet r.sec (patch bs r.off (natBytes 4 (v % 2 ^ 32).toNat)) imgs) else none)
    else if r.type = 3 ∨ r.type = 4 then
      let q := v - ((p.2.1 + r.off : Nat) : Int)
      if r.off + 16 ≤ bs.length ∧ wordZeroAt nat p.2.2.1 bs r.off false ∧ Legal.xField (fieldAt bs r.off 8) ∧ q % 8 = 0 ∧ -(2 ^ 16) ≤ q / 8 ∧ q / 8 < 2 ^ 16 then
        some (tabSet r.sec (patchImm bs r.off (r.type = 4) ((q / 8) % 2 ^ 17).toNat) imgs)
      else none
    else none
  | _, _ => none

/-- The address of the symbol a relocation names: defined by the object itself, else with global binding by another object
of the context that is LOADED or QUARANTINED, first in load order. -/
def State.symValue (s : State) (c : Nat) (syms : List Sym) (k : Nat) : Option Nat :=
  match syms[k]? with
  | none => none
  | some y =>
    if y.defined then some y.addr
    else
      let os := s.objects.filter (fun o => o.ctx = c && (o.st = .loaded || o.st = .quarantined) &&
        o.syms.any (fun z => z.name = y.name && z.global && z.defined))
      let first := listMin (os.map CodeObj.order)
      (findBy (fun o => some o.order = first) os).bind (fun o =>
        (findBy (fun z => z.name = y.name && z.global && z.defined) o.syms).map Sym.addr)

/-- A relocation of type 5 marks an entry of `.staus.linkage`. -/
def linkentOk (pl : List (Nat × Nat × Section × Bool × Bool)) (syms : List Sym) (r : Rela) : Bool :=
  r.off % 8 = 0 && r.sym < syms.length &&
  pl.any (fun x => x.1 = r.sec && x.2.2.1.name = ascii ".staus.linkage" && r.off + 8 ≤ x.2.2.1.size)

def relocateAll (nat : Bool) (s : State) (c : Nat) (syms : List Sym) (pl : List (Nat × Nat × Section × Bool × Bool)) : List Rela → Images → Option Images
  | [], imgs => some imgs
  | r :: rest, imgs =>
    if r.type = 5 then (if linkentOk pl syms r then relocateAll nat s c syms pl rest imgs else none)
    else
      match s.symValue c syms r.sym with
      | none => none
      | some v =>
        match relocate nat pl imgs r v with
        | some im => relocateAll nat s c syms pl rest im
        | none => none

/-! Native-mode objects (R122). -/

/-- Offsets in `.text` of the functions that an indirect transfer may reach: symbols that other objects can name, and those whose address a
relocation stores. -/
def indirectStarts (f : List Byte) (ss : List Section) : List Nat :=
  match findBy (fun (i : Nat × Section) => i.2.name = ascii ".text") ((List.range ss.length).zip ss) with
  | none => []
  | some (t, x) =>
    let syms := bytesOf f ss ".symtab"
    let rs := (relasOf f ss).filter (fun r => r.type = 1 || r.type = 5)
    (List.range (syms.length / 24)).filterMap (fun k =>
      let b := syms.drop (24 * k)
      if fieldAt b 6 2 = t && fieldAt b 4 1 % 16 = 2 && (fieldAt b 4 1 / 16 = 1 || rs.any (fun r => r.sym = k)) then
        some (fieldAt b 8 8 - x.addr) else none)

/-- R122 for a file's `.text`. -/
def nativeFileOk (f : List Byte) (ss : List Section) (text : List Byte) : Bool :=
  nativeOk text (bytesOf f ss ".staus.side") (bytesOf f ss ".staus.kernels") (indirectStarts f ss)

end Sys2Proof.Machine
end

