-- ==== Sys2Proof/Machine/Pool.lean ====
section
/-! DEFINITION. The frame pool of a context (R399, R403, R406): frames of a page size, and the bytes of a frame taken into
use. -/
namespace Sys2Proof.Machine

/-- The 256 KiB units of a frame. -/
def frameUnits (f sz : Nat) : List Nat := (List.range (pageBytes sz / 2 ^ 18)).map (fun i => f + 2 ^ 18 * i)

/-- A frame meets no unit in use. -/
def Context.frameFree (x : Context) (f sz : Nat) : Bool := x.usedFrames.all (fun u => u + 2 ^ 18 ≤ f || f + pageBytes sz ≤ u)

/-- The free frames of a size in a context's pool, in ascending order. -/
def Context.freeFrames (x : Context) (sz : Nat) : List Nat :=
  let n := pageBytes sz
  let lo := (x.fpBase + n - 1) / n
  ((List.range ((x.fpBase + x.fpSize) / n - lo)).map (fun i => n * (lo + i))).filter (fun f => x.frameFree f sz)

/-- Takes a frame from the pool; which free one is open. -/
def State.takeFrame (s : State) (c sz : Nat) : Option (Nat × State) :=
  match s.getCtx c with
  | none => none
  | some x =>
    match x.freeFrames sz with
    | [] => none
    | f :: r =>
      let y := s.freeValue
      let g := (f :: r).getD (y.1.toNat % (r.length + 1)) f
      some (g, y.2.putCtx { x with usedFrames := frameUnits g sz ++ x.usedFrames })

/-- Returns a frame to the pool. -/
def State.giveFrame (s : State) (c f sz : Nat) : State :=
  match s.getCtx c with
  | none => s
  | some x => s.putCtx { x with usedFrames := x.usedFrames.filter (fun u => !(frameUnits f sz).contains u) }

/-! Tables (R396, R397, R399). -/

/-- A free place of 8 KiB in the frames that hold tables (DESIGN CHOICE, log 119: where firmware puts a table is open). -/
def Context.tablePlace (x : Context) : Option Nat :=
  findBy (fun b => !x.tables.any (fun t => t.base = b))
    (((x.tables.map (fun t => t.base / 2 ^ 18 * 2 ^ 18)).eraseDups).flatMap (fun u => (List.range 32).map (fun i => u + 2 ^ 13 * i)))

/-- A new table of a level, and its address; none where the pool has no room for it. -/
def State.addTable (s : State) (c lv : Nat) : Option (Nat × State) :=
  match s.getCtx c with
  | none => none
  | some x =>
    let add := fun (s : State) (x : Context) (b : Nat) => (b, s.putCtx { x with tables := x.tables ++ [{ level := lv, base := b, nexts := [] }] })
    match x.tablePlace with
    | some b => some (add s x b)
    | none => (s.takeFrame c 0).bind (fun y => (y.2.getCtx c).map (fun z => add y.2 z y.1))

/-- The entry for an address in a table names a table. -/
def State.setNext (s : State) (c base lv va to_ : Nat) : State :=
  match s.getCtx c with
  | none => s
  | some x => s.putCtx { x with tables := x.tables.map (fun t =>
      if t.base = base then { t with nexts := tabSet (vaIndex lv va) (nextWord to_) t.nexts } else t) }

/-- The tables on the path of an address, from the one of level `lv` at `base` down to that of level `stop`. -/
def growGo (c va stop : Nat) : Nat → Nat → State → Option State
  | 0, _, s => some s
  | lv + 1, base, s =>
    if lv + 1 ≤ stop then some s
    else
      match (s.getCtx c).bind (fun x => (x.tableAt base).bind (fun t => t.next (lv + 1) va)) with
      | some b => growGo c va stop lv b s
      | none => (s.addTable c lv).bind (fun y => growGo c va stop lv y.1 (y.2.setNext c base (lv + 1) va y.1))

/-- The path of a page's leaf stands in the tree; none where the pool lacks a table (R406 reason 4). -/
def State.growTree (s : State) (c : Nat) (l : Leaf) : Option State :=
  match (s.getCtx c).bind Context.root with
  | some t => growGo c l.va l.level 3 t.base s
  | none => (s.addTable c 3).bind (fun y => growGo c l.va l.level 3 y.1 y.2)

/-- A page is mapped: its leaf, with the tables above it. -/
def State.mapPage (s : State) (c : Nat) (l : Leaf) : Option State :=
  (s.growTree c l).bind (fun s1 => (s1.getCtx c).map (fun y => s1.putCtx { y with pages := y.pages ++ [l] }))

/-! Frames. -/

/-- The bytes of a frame become zero; no core holds an old copy of them, and its ECC units are whole. -/
def State.frameZero (s : State) (f sz : Nat) : State :=
  let hi := f + pageBytes sz
  { s with dram := s.dram.filter (fun b => b.1 < f || hi ≤ b.1),
           bad := s.bad.filter (fun u => match u with
             | .dram k => 32 * k < f || hi ≤ 32 * k
             | _ => true),
           cores := s.cores.map (fun k => { k with l1 := k.l1.filter (fun b => b.addr < f || hi ≤ b.addr) }) }

/-- Writes dirty L1 bytes of a frame back to the point of coherence. -/
def State.frameFlush (s : State) (f sz : Nat) : State :=
  s.cores.foldl (fun s k => s.l1Clean k.id (fun a => f ≤ a && a < f + pageBytes sz)) s

/-- The frame of a leaf goes back where it came from: to the pool, or to the host with RES at MAP. -/
def State.dropFrame (s : State) (c : Nat) (l : Leaf) : State :=
  if l.res && !l.hostFrame && l.home = s.pkg then s.giveFrame c l.frame l.sz else s

/-- Unmaps a page: its leaf and its translations go, its frame returns (R406, R407). -/
def State.unmapLeaf (s : State) (c : Nat) (l : Leaf) : State :=
  match s.getCtx c with
  | none => s
  | some x =>
    ((s.putCtx { x with pages := x.pages.filter (fun (y : Leaf) => y.va ≠ l.va) }).tlbDrop c l.va).dropFrame c l

end Sys2Proof.Machine
end

