-- ==== Sys2Proof/Machine/Kernel.lean ====
section
/-! DEFINITION. Code objects and translation (R311 to R332): loading, identity, the translation directory, demand loads and
quarantine, re-optimisation, and unloading. -/
namespace Sys2Proof.Machine

/-! Loading (R311 to R313). -/

/-- No byte of a virtual range is mapped, and it keeps off the doorbell page and the trampolines. -/
def trampBase : Nat := 2 ^ 57 - 2 ^ 40

def Context.rangeFree (x : Context) (lo n : Nat) : Bool :=
  lo + n ≤ trampBase && (lo + n ≤ x.doorbell || x.doorbell + 2 ^ 18 ≤ lo) &&
  x.pages.all (fun l => lo + n ≤ l.va || l.va + pageBytes l.sz ≤ lo)

/-- Where the loader places an object of some bytes: at an open address, or at the end of something mapped. -/
def Context.placeFor (x : Context) (start n : Nat) : Option Nat :=
  findBy (fun lo => x.rangeFree lo n)
    ((start % trampBase) / 2 ^ 18 * 2 ^ 18 :: 0 :: (x.doorbell + 2 ^ 18) :: x.pages.map (fun l => l.va + pageBytes l.sz))

/-- Bytes that the placed sections take, each on pages of its own. -/
def placeSize (ss : List Section) : Nat :=
  ((placeGo ss 0 placed).map (fun x => up256k x.2.2.1.size)).foldl (· + ·) 0

/-- The code pages of `.text` (R312). -/
def codePagesOf : Nat → List Byte → List (List Byte)
  | 0, _ => []
  | k + 1, bs => if bs.isEmpty then [] else bs.take codePageBytes :: codePagesOf k (bs.drop codePageBytes)

/-- The digests of the code pages, and the identity (R312). -/
def digestsOf (text : List Byte) : List (BitVec 384) := (codePagesOf (text.length / codePageBytes + 1) text).map Config.sha384
def identityBytes (digests : List (BitVec 384)) (rest : List Byte) : List Byte :=
  digests.flatMap (fun d => natBytes 48 d.toNat) ++ rest

/-- The linkage entries of a file: one for each type 5 relocation, with a trampoline of its own. -/
def linkageOf (first : Nat) (pl : List (Nat × Nat × Section × Bool × Bool)) (syms : List Sym) : List Rela → List LinkEntry
  | [] => []
  | r :: rest =>
    match findBy (fun (x : Nat × Nat × Section × Bool × Bool) => x.1 = r.sec) pl with
    | some p => { addr := p.2.1 + r.off, sym := ((syms[r.sym]?).map Sym.name).getD [], tramp := trampBase + 16 * first, bound := none,
                  resolving := none } :: linkageOf (first + 1) pl syms rest
    | none => linkageOf first pl syms rest

/-- Sets each linkage entry in its image to its trampoline (R329). -/
def setTramps (sec base : Nat) : List LinkEntry → Images → Images
  | [], im => im
  | e :: r, im =>
    setTramps sec base r (match tabGet sec im with
      | some bs => if base ≤ e.addr ∧ e.addr + 8 ≤ base + bs.length then tabSet sec (patch bs (e.addr - base) (natBytes 8 e.tramp)) im else im
      | none => im)

/-- Maps the pages of one placed section on frames of the pool and fills them; none where the pool is empty. -/
def mapSection (c : Nat) (w x : Bool) : Nat → Nat → List Byte → State → Option State
  | 0, _, _, s => some s
  | k + 1, va, bs, s =>
    match s.takeFrame c 0 with
    | none => none
    | some (f, s1) =>
      let s2 := s1.frameZero f 0
      let l : Leaf := { va := va, sz := 0, w := w, x := x, res := true, mig := false, mir := false, conf := false, d := false, zf := false,
                        frame := f, home := s.pkg, peer := 0, slot := none, hostFrame := false, heldStores := [] }
      match ({ s2 with dram := spPut 0 s2.dram f (bs.take (2 ^ 18)) } : State).mapPage c l with
      | none => none
      | some s3 => mapSection c w x k (va + 2 ^ 18) (bs.drop (2 ^ 18)) s3

def mapSections (c : Nat) (im : Images) : List (Nat × Nat × Section × Bool × Bool) → State → Option State
  | [], s => some s
  | (k, va, x, w, e) :: r, s =>
    (mapSection c w e (up256k x.size / 2 ^ 18) va ((tabGet k im).getD []) s).bind (fun s1 => mapSections c im r s1)

/-- Loads a file into a context: the status of R311 and the handle. -/
def State.loadFile (s0 : State) (c : Nat) (f : List Byte) : State × Nat × Nat :=
  let no := fun (k : Nat) => (s0, k, 0)
  let ss := sectionsOf f
  if !elfOk f then no 1
  else if !flagsOk f then no 2
  else if !sectionsOk f ss then no 3
  else if !notesOk f ss then no 4
  else if !declsOk f ss then no 5
  else
    let y := s0.freeValue
    let s := y.2
    let n := placeSize ss
    let where_ := (s.getCtx c).bind (fun x => x.placeFor y.1.toNat n)
    let pl := placeGo ss (where_.getD 0) placed
    let syms := symsOf f ss pl
    let relas := relasOf f ss
    match relocateAll (isNative f) s c syms pl relas (pl.map (fun x => (x.1, x.2.2.1.bytes f))) with
    | none => no 6
    | some im0 =>
      let links := linkageOf s.nextId pl syms (relas.filter (fun r => r.type = 5))
      let lk := findBy (fun (x : Nat × Nat × Section × Bool × Bool) => x.2.2.1.name = ascii ".staus.linkage") pl
      let im := match lk with
        | some x => setTramps x.1 x.2.1 links im0
        | none => im0
      let tp := findBy (fun (x : Nat × Nat × Section × Bool × Bool) => x.2.2.1.name = ascii ".text") pl
      let text := match tp with
        | some x => (tabGet x.1 im).getD []
        | none => []
      let ds := digestsOf text
      let id := Config.sha384 (identityBytes ds (bytesOf f ss ".staus.kernels" ++ bytesOf f ss ".staus.streams" ++
        bytesOf f ss ".staus.rings" ++ bytesOf f ss ".staus.nests"))
      if isNative f && !nativeFileOk f ss text then no 7
      else if s.quarantined.contains id then no 8
      else if where_.isNone || !Config.directoryHolds s.objects.length then no 9
      else
        match mapSections c im pl { s with nextId := s.nextId + links.length + 1 } with
        | none => no 9
        | some s1 =>
          let h := s.nextId + links.length
          let o : CodeObj :=
            { handle := h, ctx := c, st := .loaded, order := s1.nextStamp, identity := id, native := isNative f, priv := isPriv f,
              text := (tp.map (fun x => x.2.1)).getD 0, textSize := text.length, digests := ds, image := text,
              kernels := bytesOf f ss ".staus.kernels", streams := bytesOf f ss ".staus.streams", rings := bytesOf f ss ".staus.rings",
              nests := bytesOf f ss ".staus.nests", side := bytesOf f ss ".staus.side", syms := syms, linkage := links,
              ranges := pl.map (fun x => (x.2.1, up256k x.2.2.1.size)), unloadNode := none, gangKey := none }
          ({ s1 with objects := s1.objects ++ [o], nextStamp := s1.nextStamp + 1 }, 0, h)

/-! Demand loads and quarantine (R321, R322). -/

/-- What follows when a code page fails: the identity is quarantined here, and the gang is told. -/
def State.quarantine (s : State) (id : BitVec 384) (tell : List Nat) : State :=
  if s.quarantined.contains id then s
  else
    let s1 : State := { s with quarantined := id :: s.quarantined,
                               objects := s.objects.map (fun (o : CodeObj) =>
                                 if o.identity = id ∧ o.st = .loaded then { o with st := .quarantined } else o) }
    tell.foldl (fun (s : State) p => if s.sendBar p false 0 = .open_ then s.send (.control (.quarantine id)) (blankPacket p 0) else s) s1

/-- Gang peers of the contexts that hold an identity. -/
def State.holders (s : State) (id : BitVec 384) : List Nat :=
  let cs := (s.objects.filter (fun (o : CodeObj) => o.identity = id)).map CodeObj.ctx
  (((s.contexts.filter (fun x => cs.contains x.id)).flatMap Context.gangMembers).filter (fun p => p ≠ s.pkg)).eraseDups

/-- How a demand load goes. -/
inductive Demand where
  | done (s : State)
  | wait (s : State)
  | fatal (s : State)

/-- The X bit of the page that maps an address, where one does. -/
def State.execAt (s : State) (c va : Nat) : Option Bool := ((s.getCtx c).bind (fun x => x.walk va)).map Leaf.x

/-- Some unit of a range of a page has bad check bits (R217). -/
def State.badRange (s : State) (c va n : Nat) : Bool :=
  match (s.getCtx c).bind (fun x => x.walk va) with
  | some l => l.home = s.pkg && s.bad.any (fun u => match u with
      | .dram k => pa42 (l.frame + (va - l.va)) < 32 * k + 32 && 32 * k < pa42 (l.frame + (va - l.va)) + n
      | _ => false)
  | none => false

/-- Demand-loads code page `k` from an object's `.text` mapping: it is read, hashed and compared. -/
def State.demandPage (s : State) (o : CodeObj) (k : Nat) : Demand :=
  match s.codePage o.identity k with
  | some _ => .done s
  | none =>
    let va := o.text + codePageBytes * k
    match s.execAt o.ctx va with
    | none => .fatal (s.fatal o.ctx (ctxRecord s (mkFault clsPage 0 va)))
    | some false => .fatal (s.fatal o.ctx (ctxRecord s (mkFault clsPage 2 va)))
    | some true =>
      match s.fwRead o.ctx va (min codePageBytes (o.textSize - codePageBytes * k)) with
      | .bad s1 => .fatal (s1.fatal o.ctx (ctxRecord s1 (mkFault clsPage 0 va)))
      | .wait s1 => .wait s1
      | .ok s1 bs =>
        if s.badRange o.ctx va bs.length then .fatal (s1.fatal o.ctx (ctxRecord s1 (mkFault clsMemUe 0 va)))
        else
        let good := Config.sha384 bs = o.digests.getD k 0
        let s2 : State := { s1.fwClear o.ctx with
          codePages := s1.codePages ++ [{ identity := o.identity, page := k, bytes := if good then some bs else none }] }
        .done (if good then s2 else s2.quarantine o.identity (s2.holders o.identity))

def State.demandPages (o : CodeObj) : List Nat → State → Demand
  | [], s => .done s
  | k :: r, s =>
    match s.demandPage o k with
    | .done s1 => State.demandPages o r s1
    | x => x

/-! What a translation needs (R315). -/

/-- The offsets that follow an instruction on a direct path. -/
def directNext (off len : Nat) (i : Instr) : List Nat :=
  let goal := fun (o : Operand) => ((off : Int) + 8 * immOf o).toNat
  let fall := fun (e : Enc) => if e.g = 15 then [] else [off + len]
  match i with
  | .bra e => goal e.a :: fall e
  | .call e => [goal e.a, off + len]
  | .bzm e => [goal e.a, off + len]
  | .loop e => [goal e.b, off + len]
  | .brx e => fall e
  | .ret e => fall e
  | .exit e => fall e
  | _ => [off + len]

/-- The offsets reached through direct paths, from a work list. -/
def reachGo (img : List Byte) : Nat → List Nat → List Nat → List Nat
  | 0, _, seen => seen
  | _, [], seen => seen
  | k + 1, o :: r, seen =>
    if seen.contains o || o ≥ img.length then reachGo img k r seen
    else
      match decode ((img.drop o).take 16) with
      | none => reachGo img k r (o :: seen)
      | some (i, _) => reachGo img k (directNext o (startLen false (img.drop o)) i ++ r) (o :: seen)

/-- The code pages that a translation of the function at an offset reads: all of them for a native object. -/
def CodeObj.needs (o : CodeObj) (off : Nat) : List Nat :=
  if o.native then List.range ((o.textSize + codePageBytes - 1) / codePageBytes)
  else
    let os := reachGo o.image (4 * o.textSize + 4) [off] []
    ((os ++ os.map (fun x => x + startLen false (o.image.drop x) - 1)).map (fun x => x / codePageBytes)).eraseDups.filter
      (fun k => codePageBytes * k < o.textSize)

/-! The directory (R315, R316). -/

/-- The teams parked on a function of an identity: workgroup, team and address. -/
def State.parkedOn (s : State) (id : BitVec 384) (off : Nat) : List (Workgroup × Team) :=
  s.wgs.flatMap (fun w => (w.teams.filter (fun t => match t.st with
    | .stall (.translate a) => (match s.objAt w.ctx a with
        | some o => o.identity = id && a - o.text = off
        | none => false)
    | _ => false)).map (fun t => (w, t)))

/-- Every requester parked on an entry that went to FAILED faults its context. -/
def State.failRequesters (s : State) (d : DirEntry) (sub : Nat) : State :=
  let s1 := (s.nodes.filter (fun (n : Node) => n.dir = some d.id && n.stage = 4)).foldl (fun s n => s.nodeFatal n clsIntegrity sub) s
  (s1.parkedOn d.identity d.off).foldl (fun s x => s.teamFatal x.1 x.2 x.2.runMask
    { mkFault clsIntegrity sub 0 with ppc := (x.2.leadPc).getD 0 }) s1

/-- Linkage entries whose resolution waits for a function end it: bound, or left at the trampoline. -/
def State.endResolve (s : State) (d : DirEntry) (ok : Bool) : State :=
  (s.objects.flatMap (fun (o : CodeObj) => (o.linkage.filter (fun e => match e.resolving with
    | some t => (match s.objAt o.ctx t with
        | some p => p.identity = d.identity && t - p.text = d.off
        | none => false)
    | none => false)).map (fun e => (o.handle, e)))).foldl (fun s x =>
      match s.getObj x.1 with
      | some o => if ok then s.bindLink o.ctx o x.2 (x.2.resolving.getD 0) else s.putLink o { x.2 with resolving := none }
      | none => s) s

/-- A load of an identity whose `.text` mapping can be read, of a context that is not discarded. -/
def State.loadOf (s : State) (id : BitVec 384) : Option CodeObj :=
  findBy (fun o => o.identity = id && o.st.reachable && (match s.getCtx o.ctx with
    | some x => x.st ≠ .faulted && x.st ≠ .free
    | none => false)) s.objects

/-- A workgroup stands in the function of an entry, or returns to it (R318). -/
def State.standsIn (s : State) (d : DirEntry) (w : Workgroup) : Bool :=
  w.teams.any (fun t => t.threads.any (fun h => (h.pc :: h.ret).any (fun a => match s.objAt w.ctx a with
    | some o => o.identity = d.identity && o.fnStart a - o.text = d.off
    | none => false)))

/-- An entry that the stokers may evict (R315, R319): no node, workgroup or saved context refers to it. -/
def State.evictable (s : State) (d : DirEntry) : Bool :=
  (d.st = .translated || d.st = .reoptimised) && !s.nodes.any (fun n => n.dir = some d.id) && !s.wgs.any (s.standsIn d) &&
  !s.contexts.any (fun x => x.save.wgs.any (s.standsIn d))

/-- The pages of an identity that its other entries need. -/
def State.neededPages (s : State) (d : DirEntry) : List Nat :=
  (s.dir.filter (fun y => y.identity = d.identity && y.id ≠ d.id)).flatMap (fun y => match s.loadOf d.identity with
    | some o => o.needs y.off
    | none => [])

/-- Evicts an entry: it is removed, and the verified pages that no other entry needs (R319). -/
def State.evictEntry (s : State) (d : DirEntry) : State :=
  { s with dir := s.dir.filter (fun y => y.id ≠ d.id)
           codePages := s.codePages.filter (fun p => p.identity ≠ d.identity || p.bytes.isNone || (s.neededPages d).contains p.page) }

/-- Of two entries the one dispatched less recently. -/
def olderEntry (x : Option DirEntry) (d : DirEntry) : Option DirEntry :=
  match x with
  | some y => if y.lastUse ≤ d.lastUse then some y else some d
  | none => some d

/-- A translation has come into the cellar: where it is full, which is open since no size is given, the least recently dispatched
entry that may be evicted goes. -/
def State.cellarRoom (s : State) (id : Nat) : State :=
  let y := s.freeValue
  if y.1.getLsbD 0 then
    match (s.dir.filter (fun d => d.id ≠ id && s.evictable d)).foldl olderEntry none with
    | some d => y.2.evictEntry d
    | none => y.2
  else y.2

/-- An entry leaves TRANSLATING for TRANSLATED: its nodes are eligible, its teams released. How much the translation spills
is open. -/
def State.entryDone (s : State) (d : DirEntry) (native : Bool) : State :=
  let y := s.freeValue
  let s1 := (y.2.putDir { d with st := .translated, spill := if native then 0 else y.1.toNat }).endResolve d true
  ({ s1 with nodes := s1.nodes.map (fun (n : Node) => if n.dir = some d.id ∧ n.stage = 4 then { n with stage := 5 } else n), passDue := true } : State).cellarRoom d.id

/-- An entry whose translation another package has sent: re-optimised where its generation is not the first. -/
def State.sharedEntry (s : State) (id gen spill : Nat) : State :=
  match s.getDir id with
  | some d => s.putDir { d with st := if gen = 0 then .translated else .reoptimised, spill := spill }
  | none => s

/-- An entry leaves TRANSLATING for FAILED. -/
def State.entryFailed (s : State) (d : DirEntry) (sub : Nat) : State :=
  ((s.putDir { d with st := .failed }).endResolve d false).failRequesters d sub

/-! Translations shared by a gang (R320). -/

/-- A package asks for a translation: it is sent where the directory holds it, unless its identity is held quarantined. -/
def State.transAsked (s : State) (src : Nat) (id : BitVec 384) (off version : Nat) : State :=
  let no := s.tellAll (.transNone id off version) [src]
  match findBy (fun d => d.identity = id && d.off = off && d.version = version) s.dir with
  | some d =>
    if (d.st = .translated || d.st = .reoptimised) && !s.quarantined.contains id then
      let g := Config.translationDigest id off version d.gen
      s.tellAll (.transFound id off version d.gen g g (!d.reserved) d.spill) [src]
    else no
  | none => no

/-- The entry that still waits for a package's answer. -/
def State.askedOf (s : State) (src : Nat) (id : BitVec 384) (off version : Nat) : Option DirEntry :=
  findBy (fun d => d.identity = id && d.off = off && d.version = version && d.st = .translating && d.asked.contains src) s.dir

/-- An answer without a translation: once no package is left to answer, the function is translated here. -/
def State.transNone (s : State) (src : Nat) (id : BitVec 384) (off version : Nat) : State :=
  match s.askedOf src id off version with
  | some d => s.putDir { d with asked := d.asked.filter (fun p => p ≠ src) }
  | none => s

/-- A translation arrives: it is accepted where its version is this package's and the digest computed equals the digest carried. -/
def State.transFound (s : State) (src : Nat) (id : BitVec 384) (off version gen : Nat) (carried computed : BitVec 384) (clean : Bool)
    (spill : Nat) : State :=
  match s.askedOf src id off version with
  | none => s
  | some d =>
    if version = s.version && carried = computed && !s.quarantined.contains id then
      let s1 := s.putDir { d with asked := [], gen := gen, reserved := !clean }
      match s1.getDir d.id with
      | none => s1
      | some e => (s1.entryDone e false).sharedEntry d.id gen spill
    else s.transNone src id off version

/-- `translationComplete` (R316, R321). -/
def execTranslationComplete (id : Nat) (s : State) : Host.Outcome State Fault Refusal :=
  .next (match s.getDir id with
    | none => s
    | some d =>
      if d.st ≠ .translating || d.asked ≠ [] then s
      else if s.stokers = [] then s.entryFailed d 3
      else
        match s.loadOf d.identity with
        | none => { s with dir := s.dir.filter (fun (y : DirEntry) => y.id ≠ id) }
        | some o =>
          match State.demandPages o (o.needs d.off) s with
          | .wait s1 => s1
          | .fatal s1 => s1
          | .done s1 =>
            if d.kernel && (o.needs d.off).any (fun k => ((s1.codePage o.identity k).map CodePage.bytes) = some none) then
              s1.entryFailed d 0
            else s1.entryDone d o.native)

/-- `reoptimisationComplete` (R324). -/
def execReoptimisationComplete (id : Nat) (s : State) : Host.Outcome State Fault Refusal :=
  .next (match s.getDir id with
    | none => s
    | some d =>
      let y := s.freeValue
      if d.st = .hot ∧ s.stokers ≠ [] then
        y.2.putDir { d with st := .reoptimised, gen := min 8 (d.gen + 1), spill := if (s.loadOf d.identity).any CodeObj.native then 0 else y.1.toNat }
      else s)

/-- `stokerFailure` (R17). -/
def execStokerFailure (k : Nat) (s : State) : Host.Outcome State Fault Refusal :=
  .next { s with stokers := s.stokers.filter (fun (y : Nat) => y ≠ k) }

/-- A node is dispatched on an entry: its context's profile counts it, and a limit makes the entry HOT (R318, R323, R324). The
limits on sampled bundles and rollbacks concern native code that the manual does not give: whether one is reached is open. -/
def State.dispatchOn (s : State) (id c : Nat) : State :=
  match s.getDir id with
  | none => s
  | some d =>
    let p := d.counts c d.gen
    let prof := { p with nodes := p.nodes + 1 } :: d.prof.filter (fun q => !(q.ctx = c && q.gen = d.gen))
    let y := s.freeValue
    let all := ((prof.filter (fun q => q.gen = d.gen)).map ProfCount.nodes).foldl (· + ·) 0
    let hot : Bool := (d.st = .translated || d.st = .reoptimised) && d.gen < 8 && (all ≥ 256 || y.1.getLsbD 0)
    y.2.putDir { d with prof := prof, lastUse := s.nextStamp, st := if hot then .hot else d.st }

/-! Unloading (R331). -/

/-- A node keeps an object loaded: it launches it or has entered a function of it, and has not completed. -/
def Node.uses (n : Node) (o : CodeObj) : Bool :=
  n.ctx = o.ctx && 3 ≤ n.stage && n.stage ≤ 7 && ((n.kind = .launch && n.obj = o.handle) || n.entered.contains o.handle)

/-- The linkage entries of other objects that are bound into an object. -/
def State.linksInto (s : State) (o : CodeObj) : List (Nat × LinkEntry) :=
  s.objects.flatMap (fun (p : CodeObj) => if p.ctx = o.ctx && p.handle ≠ o.handle then
      (p.linkage.filter (fun e => match e.bound with
        | some t => o.text ≤ t && t < o.text + o.textSize
        | none => false)).map (fun e => (p.handle, e)) else [])

/-- Writes the linkage entries of other objects bound into an object back to their trampolines. -/
def State.resetLinks (s : State) (o : CodeObj) : State :=
  (s.linksInto o).foldl (fun s x =>
    match s.getObj x.1 with
    | none => s
    | some p =>
      let s1 := s.putLink p { x.2 with bound := none }
      match s1.putBar p.ctx x.2.addr with
      | .open_ l => s1.pagePut p.ctx l x.2.addr (natBytes 8 x.2.tramp)
      | _ => s1) s

/-- Unmaps the pages of an object's ranges. -/
def State.unmapRanges (s : State) (o : CodeObj) : State :=
  match s.getCtx o.ctx with
  | none => s
  | some x =>
    (x.pages.filter (fun (l : Leaf) => o.ranges.any (fun r => r.1 ≤ l.va && l.va < r.1 + r.2))).foldl (fun s l => s.unmapLeaf o.ctx l) s

/-- Removes an object; the FAILED entries of an identity go with its last load (R315). -/
def State.dropObj (s : State) (o : CodeObj) : State :=
  let left := s.objects.filter (fun (p : CodeObj) => p.handle ≠ o.handle)
  { s with objects := left,
           dir := if left.any (fun p => p.identity = o.identity) then s.dir
                  else s.dir.filter (fun (d : DirEntry) => !(d.identity = o.identity && d.st = .failed)) }

/-- Takes an object out of its context, as the loader does at the end of R331. -/
def State.removeObj (s : State) (o : CodeObj) : State := ((s.resetLinks o).unmapRanges o).dropObj o

/-- `unloadComplete`: it waits while the page of a linkage entry that it must write is not there. -/
def execUnloadComplete (h : Nat) (s : State) : Host.Outcome State Fault Refusal :=
  .next (match s.getObj h with
    | none => s
    | some o =>
      if o.st ≠ .unloading || s.nodes.any (fun n => n.uses o) || ((s.getCtx o.ctx).map Context.st) ≠ some .running then s
      else
       match findBy (fun x => s.putBar o.ctx x.2.addr = .wait) (s.linksInto o) with
       | some x => s.missAdd 0 o.ctx x.2.addr
       | none =>
        let s1 := s.removeObj o
        match o.unloadNode.bind s1.getNode with
        | some n => s1.nodeEnd n 1 0 n.value
        | none => s1)

/-! The load requests (R311). -/

/-- A load request that every package of the gang has carried out: on failure the packages that succeeded unload the object. -/
def State.loadEnd (s : State) (n : Node) (status handle : Nat) (peers : List Nat) : State :=
  let n1 := { n with loading := none }
  let s1 := s.putNode n1
  if status = 0 then s1.nodeEnd n1 1 0 handle
  else
    let s2 := match s1.getObj handle with
      | some o => if o.ctx = n.ctx then s1.removeObj o else s1
      | none => s1
    match s2.getCtx n.ctx with
    | some x => (s2.tellAll (.gangUnload x.gangId n.id) peers).nodeEnd n1 1 status 0
    | none => s2.nodeEnd n1 1 status 0

/-- A LOAD node: reads the file and loads it here, and every other package of the context's gang does so too; it completes when all have,
with the highest status. -/
def State.loadNode (s : State) (n : Node) : State :=
  if n.loading.isSome then s
  else
    match s.fwRead n.ctx (fieldAt n.packet 24 8) (fieldAt n.packet 32 8) with
    | .wait s1 => s1
    | .bad s1 => (s1.fwClear n.ctx).nodeEnd n 1 1 0
    | .ok s1 f =>
      let x := (s1.fwClear n.ctx).loadFile n.ctx f
      match x.1.getCtx n.ctx with
      | none => x.1
      | some y =>
        let ps := if y.gang then (x.1.gangPeers y).filter (fun p => x.1.sendBar p false 0 = .open_) else []
        if ps = [] then x.1.nodeEnd n 1 x.2.1 x.2.2
        else (x.1.putNode { n with stage := 6, loading := some (ps, x.2.1, x.2.2) }).tellAll (.gangLoad y.gangId n.id f) ps

/-- The context that a gang has here. -/
def State.gangCtx (s : State) (gangid : Nat) : Option Context := findBy (fun x => x.gang && x.gangId = gangid && x.st ≠ .free && x.st ≠ .faulted) s.contexts

/-- Another package's load request: carried out here, and answered. -/
def State.gangLoad (s : State) (src gangid id : Nat) (f : List Byte) : State :=
  match s.gangCtx gangid with
  | none => s.tellAll (.gangLoaded gangid id 9) [src]
  | some x =>
    let y := s.loadFile x.id f
    let s1 := match y.1.getObj y.2.2 with
      | some o => if y.2.1 = 0 then y.1.putObj { o with gangKey := some (src, id) } else y.1
      | none => y.1
    s1.tellAll (.gangLoaded gangid id y.2.1) [src]

/-- A package has carried out a load request of this one. -/
def State.gangLoaded (s : State) (src id status : Nat) : State :=
  match s.getNode id with
  | none => s
  | some n =>
    match n.loading with
    | none => s
    | some (ps, k, h) =>
      let left := ps.filter (fun p => p ≠ src)
      let peers := ((s.getCtx n.ctx).map (fun x => s.gangPeers x)).getD []
      if !ps.contains src then s
      else if left = [] then s.loadEnd n (max k status) h peers
      else s.putNode { n with loading := some (left, max k status, h) }

/-- A load request is undone. -/
def State.gangUnload (s : State) (src id : Nat) : State :=
  (s.objects.filter (fun (o : CodeObj) => o.gangKey = some (src, id))).foldl (fun s o => s.removeObj o) s

/-- A package that is lost answers no more: neither for a translation nor for a load request (R311, R320, R423). -/
def State.lostAsks (s : State) (p : Nat) : State :=
  let s1 : State := { s with dir := s.dir.map (fun (d : DirEntry) => { d with asked := d.asked.filter (fun q => q ≠ p) }) }
  (s1.nodes.filter (fun (n : Node) => n.loading.any (fun l => l.1.contains p))).foldl (fun s n => s.gangLoaded p n.id 9) s1

/-- An UNLOAD node in its turn: its object goes to UNLOADING and the node waits; one whose object is on its way out or gone
completes. -/
def State.unloadStart (s : State) (n : Node) : State :=
  match s.getObj n.obj with
  | none => s.nodeEnd n 1 0 n.value
  | some o =>
    if o.st = .loaded ∨ o.st = .quarantined then
      (s.putObj { o with st := .unloading, unloadNode := some n.id }).putNode { n with stage := 6 }
    else if o.unloadNode = some n.id then s
    else s.nodeEnd n 1 0 n.value

end Sys2Proof.Machine
end

