-- ==== Sys2Proof/Machine/Route.lean ====
section
/-! DEFINITION. Core-to-core routes (R13, R119, R120): turn strings on a die's physical 12 × 12 mesh, and the route that fills a slot. Physical
cores are numbered by rows of the mesh (PRESUMED, log 116). -/
namespace Sys2Proof.Machine

/-- The neighbour of a physical core in a direction: 0 +column, 1 +row, 2 −column, 3 −row. -/
def meshStep (p dir : Nat) : Option Nat :=
  if dir = 0 then (if p % 12 < 11 then some (p + 1) else none)
  else if dir = 1 then (if p / 12 < 11 then some (p + 12) else none)
  else if dir = 2 then (if p % 12 > 0 then some (p - 1) else none)
  else (if p / 12 > 0 then some (p - 12) else none)

/-- The cores that a turn string goes through from turn `h` on, `k` turns being left; none where it leaves the die, or where a turn stands
after the stop. -/
def routeGo (str : Nat) : Nat → Nat → Nat → Nat → Option (List Nat)
  | 0, _, _, _ => some []
  | k + 1, h, dir, pos =>
    let c := str / 2 ^ (2 * h) % 4
    if c = 3 then (if str / 2 ^ (2 * h + 2) = 0 then some [] else none)
    else
      let d := if c = 1 then (dir + 3) % 4 else if c = 2 then (dir + 1) % 4 else dir
      match meshStep pos d with
      | none => none
      | some q => (routeGo str k (h + 1) d q).map (fun l => q :: l)

/-- The cores of a turn string of 32 bits after its source. -/
def routePath (src str : Nat) : Option (List Nat) := routeGo str 15 1 (str % 4) src

/-- Where a turn string that goes only through live cores ends. -/
def legEnd (live : Nat → Bool) (src str : Nat) : Option Nat :=
  match routePath src str with
  | some l => if l.all live then some (l.getLastD src) else none
  | none => none

/-- The directions of a shortest live path: the frontier holds cores with the directions that lead there, newest first. -/
def shortestGo (live : Nat → Bool) (dst : Nat) : Nat → List (Nat × List Nat) → List Nat → Option (List Nat)
  | 0, _, _ => none
  | k + 1, front, seen =>
    match findBy (fun x => x.1 = dst) front with
    | some x => some x.2.reverse
    | none =>
      let next := (front.flatMap (fun x => [0, 1, 2, 3].filterMap (fun d => (meshStep x.1 d).map (fun q => (q, d :: x.2))))).filter
        (fun y => live y.1 && !seen.contains y.1)
      let one := next.foldl (fun (l : List (Nat × List Nat)) y => if l.any (fun z => z.1 = y.1) then l else l ++ [y]) []
      if one = [] then none else shortestGo live dst k one (seen ++ one.map Prod.fst)

def shortest (live : Nat → Bool) (src dst : Nat) : Option (List Nat) := shortestGo live dst 145 [(src, [])] [src]

/-- The turn string of a list of at most 15 directions, from turn `h` on. -/
def turnsOf : Nat → Nat → List Nat → Nat
  | h, _, [] => if h ≤ 15 then 3 * 2 ^ (2 * h) else 0
  | h, dir, d :: r => (if d = dir then 0 else if d = (dir + 3) % 4 then 1 else 2) * 2 ^ (2 * h) + turnsOf (h + 1) d r

def stringOf (ds : List Nat) : Nat := ds.headD 0 + turnsOf 1 (ds.headD 0) ds

/-- The slot's word of a list of directions: one leg, or two joined at a relay core past 15 hops. -/
def routeWord (ds : List Nat) : Option (BitVec 64) :=
  if ds.length ≤ 15 then some (BitVec.ofNat 64 (stringOf ds))
  else if ds.length ≤ 30 then some (BitVec.ofNat 64 (stringOf (ds.take 15) + 2 ^ 32 * stringOf (ds.drop 15)))
  else none

/-- A word is a route from a core to another: its legs go through live cores, and there are two only where the shortest live path is longer
than 15 hops. -/
def routeOk (live : Nat → Bool) (src dst : Nat) (x : BitVec 64) : Bool :=
  let a := x.toNat % 2 ^ 32
  let b := x.toNat / 2 ^ 32
  if b = 0 then legEnd live src a = some dst
  else ((shortest live src dst).map (fun ds => decide (15 < ds.length))).getD false &&
    (match legEnd live src a with
     | some m => legEnd live m b = some dst
     | none => false)

/-- The live cores of a die's mesh: grid cores, which are neither absent nor spare nor a firmware core (R119). -/
def State.liveMesh (s : State) (die p : Nat) : Bool := s.cores.any (fun k => dieOf k.id = die && k.phys = p)

/-- The route of a displacement from a core: the manual leaves open which, among those that are routes. None where the target is on another
die, absent, or out of reach of two legs. -/
def State.routeFor (s : State) (core : Nat) (dc dr : Int) : Option (BitVec 64) :=
  let x := ((core % 32 : Nat) : Int) + dc
  let y := ((core / 32 : Nat) : Int) + dr
  if x < 0 || 32 ≤ x || y < 0 || 32 ≤ y then none
  else
    match s.getCore core, s.getCore (y.toNat * 32 + x.toNat) with
    | some k, some j =>
      if dieOf k.id ≠ dieOf j.id then none
      else
        let live := s.liveMesh (dieOf k.id)
        let w := Config.routeString core (BitVec.ofInt 16 dc).toNat (BitVec.ofInt 16 dr).toNat s.featGen.toNat
        if routeOk live k.phys j.phys w then some w else (shortest live k.phys j.phys).bind routeWord
    | _, _ => none

/-- Fills a core's route slots from an object's list (R120). -/
def State.fillRoutes (s : State) (core : Nat) (o : CodeObj) : State :=
  s.modCore core (fun k =>
    { k with routes := (routeList o).foldl (fun l (x : Nat × Int × Int) =>
        match s.routeFor core x.2.1 x.2.2 with
        | some w => tabSet x.1 w l
        | none => l.filter (fun z => z.1 ≠ x.1)) k.routes })

end Sys2Proof.Machine
end

