-- ==== Sys2Proof/Machine/Place.lean ====
section
/-! DEFINITION. From the ready pool to the cores and back (R155 to R157, R194 to R197, R342, R347 to R355, R376): the damper, room on a
core, placement of workgroups and neighbourhoods, the distributor's pass, and the ends of workgroups and nodes. -/
namespace Sys2Proof.Machine

/-! Needs (R194, R195). -/

def up16 (kib : Nat) : Nat := (kib + 15) / 16 * 16

def tripleGo (rt lt sw group : Nat) : List Nat → Option Triple
  | [] => none
  | n :: r =>
    let b0 := up16 (16 * n * rt)
    let b1 := b0 + up16 (16 * n * lt)
    let wmax := 16 * n / group
    let b2 := b1 + up16 (wmax * sw)
    if 1 ≤ wmax ∧ b2 ≤ 3840 then some { b0 := b0, b1 := b1, b2 := b2, n := n, wmax := wmax } else tripleGo rt lt sw group r

/-- The boundary triple of a kernel's descriptor, private bytes per thread and spill in KiB. -/
def tripleOf (d : List Byte) (priv spill : Nat) : Option Triple :=
  tripleGo (fieldAt d 16 2 / 8) (20 + spill + (32 * priv + 1023) / 1024) (fieldAt d 20 4 / 1024) (max 1 (fieldAt d 19 1)) [4, 3, 2, 1]

/-! Room (R351). -/

/-- What a workgroup asks of a core; `lanes` are those of a saved one. -/
structure Want where
  ctx : Nat
  triple : Triple
  group : Nat
  bars : Nat
  vt : Nat
  lanes : Option (List Nat)
  deriving DecidableEq, Repr

/-- The workgroups whose regions a core holds, and those that run there. -/
def State.heldOn (s : State) (core : Nat) : List Workgroup := s.wgs.filter (fun (w : Workgroup) => w.core = core)
def State.runOn (s : State) (core : Nat) : List Workgroup :=
  s.wgs.filter (fun (w : Workgroup) => w.core = core && (w.st = .alloc || w.st = .run))

/-- Allocated teams on each of the 16 lanes of a core. -/
def State.laneCounts (s : State) (core : Nat) : List Nat :=
  (List.range 16).map (fun l => ((s.runOn core).map (fun w => w.teams.countP (fun t => t.lane = l))).foldl (· + ·) 0)

/-- The lane with the fewest teams, the lowest of equals. -/
def leastLane (cs : List Nat) : Nat := (cs.idxOf? ((listMin cs).getD 0)).getD 0

/-- The lanes of `k` new teams, in ascending team index. -/
def chooseLanes : Nat → List Nat → List Nat
  | 0, _ => []
  | k + 1, cs => leastLane cs :: chooseLanes k (modNth (· + 1) cs (leastLane cs))

/-- Lane counts after some teams take their lanes. -/
def addLanes (cs : List Nat) (ls : List Nat) : List Nat := ls.foldl (fun c l => modNth (· + 1) c l) cs

def evenUp (n : Nat) : Nat := (n + 1) / 2 * 2

/-- The lanes that a workgroup takes on a core, if the core has room for it. -/
def State.room (s : State) (q : Want) (k : Core) : Option (List Nat) :=
  let held := s.heldOn k.id
  let run := s.runOn k.id
  let inSet := ((s.getCtx q.ctx).map (fun x => x.coreset = 0 || x.coreset.getLsbD k.id)).getD false
  let cs := s.laneCounts k.id
  let ls := q.lanes.getD (chooseLanes q.group cs)
  if !inSet || s.retiring.contains k.id || !(held = [] || k.triple = some q.triple) || held.length ≥ q.triple.wmax then none
  else if (run.map (fun w => w.bars.length)).foldl (· + ·) 0 + q.bars > 48 then none
  else if (run.map (fun w => evenUp w.vt)).foldl (· + ·) 0 + evenUp q.vt > 128 then none
  else if (addLanes cs ls).all (fun n => n ≤ q.triple.n) then some ls else none

/-! Scan (R352). -/

/-- Where one workgroup goes: its core and lanes. -/
abbrev Spot := Nat × List Nat

/-- The member cores of a rectangle, in member order. -/
def rectCores (w h ox oy : Nat) : List Nat := (List.range (w * h)).map (fun m => (oy + m / w) * 32 + ox + m % w)

/-- Every want of a rectangle has room on its core. -/
def State.fitAll (s : State) : List Want → List Nat → Option (List Spot)
  | [], _ => some []
  | _, [] => none
  | q :: qs, c :: cs =>
    match (s.getCore c).bind (fun k => s.room q k) with
    | none => none
    | some ls => (s.fitAll qs cs).map (fun r => (c, ls) :: r)

/-- The origins of rectangles of a size within a die, y ascending, then x. -/
def origins (die w h : Nat) : List (Nat × Nat) :=
  (List.range (9 - h)).flatMap (fun y => (List.range (17 - w)).map (fun x => (die % 2 * 16 + x, die / 2 * 8 + y)))

/-- The first rectangle, from a start die, where all wants have room. -/
def State.scan (s : State) (qs : List Want) (w h start : Nat) : Option (List Spot) :=
  ((List.range 8).flatMap (fun i => origins ((start + i) % 8) w h)).findSome? (fun o => s.fitAll qs (rectCores w h o.1 o.2))

/-- The start die of a node's scan. -/
def State.startOf (s : State) (n : Node) : Nat :=
  n.startDie.getD ((s.lastFirstDie.map (fun d => (d + 1) % 8)).getD 0)

/-! Allocation (R155 to R157). -/

/-- A team in ZERO (R154), with the state that it has when it leaves it: TEAM threads at the entry, registers zero but for the arguments. -/
def Team.fresh (tix lane slot threads pc : Nat) (args : List Word) (native : Bool) : Team :=
  { tix := tix, lane := lane, slot := slot, st := .zero, threads := List.replicate threads (Thread.start pc),
    s := if native then [] else spPut 0 [] 0 args,
    masks := [BitVec.ofNat 32 (2 ^ threads - 1)], loops := [], fstat := 0, prsFstat := 0, pfmt := 0, pfmtLater := [], fmask := 0,
    wdog := 0, wdogExp := false, yieldAt := none, pend := none, heldPhase := none, savedWait := none, passed := none, nest := [], nrows := 0,
    tokens := [], links := [], feedPos := 0, feedBuf := [], streams := [], pendFaults := [], comb := [], remote := [], unacked := [],
    awaits := none, relPend := none, fetched := [], streamBlocks := [], clock := 0, halting := false, brkNext := none,
    nat := { started := false, pc := 0, mask := 0, bundle := 0, occ := 0, act := 0, todo := 0, subs := [], late := [], rank := 0, ctl := none,
             ctlLeft := false, once := none, jumped := 0, post := none, gf := if native then spPut 0 [] 1 args else [], uniResults := [],
             flags := [], outstanding := [], loops := [], faults := [], stuck := 0, why := .page 0, deferring := false, deferred := none,
             back := none, inOrder := false, direct := false, region := none },
    commit := { pc := 0, sidx := 0, at_ := 0, since := [], threads := [], gf := [], fstat := 0 } }

/-- The zeroing of a team is complete (R157): the lane may select it. -/
def Team.zeroed (t : Team) : Team := if t.st = .zero then { t with st := .ready } else t

/-- The workgroups in ALLOC go to RUN as their teams leave ZERO (R155). -/
def State.settleAlloc (s : State) : State :=
  { s with wgs := s.wgs.map (fun w => if w.st = .alloc then { w with st := .run, teams := w.teams.map Team.zeroed } else w) }

/-- The lowest free slot of a lane, given the (lane, slot) pairs taken. -/
def freeSlot (taken : List (Nat × Nat)) (lane : Nat) : Nat := (findBy (fun i => !taken.contains (lane, i)) [0, 1, 2, 3]).getD 0

/-- Slots for a list of lanes. -/
def slotsFor : List Nat → List (Nat × Nat) → List Nat
  | [], _ => []
  | l :: r, taken => freeSlot taken l :: slotsFor r ((l, freeSlot taken l) :: taken)

/-- The (lane, slot) pairs taken on a core. -/
def State.takenOn (s : State) (core : Nat) : List (Nat × Nat) := (s.runOn core).flatMap (fun w => w.teams.map (fun t => (t.lane, t.slot)))

/-- The rings of a kernel as its records declare them (R78, R255). -/
def ringsOf (rings d : List Byte) : List Ring :=
  ((List.range (fieldAt d 31 1)).map (fun i => (rings.drop (16 * (fieldAt d 32 2 + i))).take 16)).foldl
    (fun l r => setNth l (fieldAt r 0 1) { base := fieldAt r 4 4, size := fieldAt r 8 4, head := 0, tail := 0 })
    (List.replicate 16 { base := 0, size := 0, head := 0, tail := 0 })

/-- A core receives a workgroup of a context (R44, R157, R196): its triple is written, and what the L1 then has no room for leaves; the L1 of
another context leaves; and the context's NBV takes effect there. -/
def State.enterCore (s : State) (c core : Nat) (t : Triple) : State :=
  match s.getCore core, s.getCtx c with
  | some k, some x =>
    let s1 := if k.triple = some t then s else s.l1Clean core (fun _ => true)
    let s2 := if k.l1ctx = c then s1 else (s1.l1Clean core (fun _ => true)).l1Drop core (fun _ => true)
    (s2.modCore core (fun k => { k with triple := some t, l1ctx := c, nbv := tabSet c x.nbv k.nbv })).l1Fit core
  | _, _ => s

/-- Takes a workgroup's charges (R349). -/
def State.charge (s : State) (n : Node) (uid core : Nat) : State :=
  match s.getCtx n.ctx with
  | some x => s.putCtx { x with charges := x.charges ++ [(uid, core, fieldAt n.packet 72 4, fieldAt n.packet 76 4)] }
  | none => s

/-- A new workgroup of a node on a core, in ALLOC. Its dispatch is an acquire at `.pkg` (R224, R232, R355). -/
def State.allocate (s : State) (n : Node) (o : CodeObj) (t : Triple) (nbId w h m : Nat) (spot : Spot) : State :=
  let d := o.desc n.kernel
  let uid := s.nextId
  let core := spot.1
  let slots := slotsFor spot.2 (s.takenOn core)
  let pc := o.text + fieldAt d 12 4
  let wg : Workgroup :=
    { uid := uid, ctx := n.ctx, node := n.id, core := core, wgx := n.nextWgx + m, nbId := nbId, nbx := n.nextNbx, nbPosX := m % w,
      nbPosY := m / w, nbW := w, nbH := h, triple := t, st := .alloc, pressStop := false,
      teams := (List.range spot.2.length).map (fun j =>
        Team.fresh j (spot.2.getD j 0) (slots.getD j 0) (fieldAt d 18 1) pc n.args o.native),
      teamSize := fieldAt d 18 1, sw := fieldAt d 20 4, scratch := [], rings := ringsOf o.rings d,
      bars := List.replicate (fieldAt n.packet 38 1) { armed := true, expect := 0, arr := 0, count := 0, phase := 0 },
      chans := List.replicate 16 [], vt := fieldAt n.packet 39 1, vat := [], priv := fieldAt n.packet 40 2, obj := o.handle,
      kernel := n.kernel }
  let s1 := (({ s with nextId := uid + 1 } : State).enterCore n.ctx core t).acquireAt core 5
  (({ s1 with wgs := s1.wgs ++ [wg] } : State).charge n uid core).fillRoutes core o

def allocateAll (n : Node) (o : CodeObj) (t : Triple) (nbId w h : Nat) : Nat → List Spot → State → State
  | _, [], s => s
  | m, p :: r, s => allocateAll n o t nbId w h (m + 1) r (s.allocate n o t nbId w h m p)

/-! The damper (R349). -/

def State.gate (s : State) (n : Node) (cores : List Nat) (m : Nat) : Bool :=
  match s.getCtx n.ctx with
  | none => false
  | some x =>
    let held := (x.charges.map (fun c => c.2.1)).eraseDups
    let bc := x.budget.toNat % 2 ^ 11
    let bb := x.budget.toNat / 2 ^ 16 % 2 ^ 17
    let bp := x.budget.toNat / 2 ^ 48 % 2 ^ 12
    if s.pkgOver then false
    else if x.charges = [] then true
    else
      (bc = 0 || held.length + cores.countP (fun c => !held.contains c) ≤ bc) &&
      (bb = 0 || x.useBw + m * fieldAt n.packet 72 4 ≤ 1000 * bb) &&
      (bp = 0 || x.usePw + m * fieldAt n.packet 76 4 ≤ 1000 * bp)

/-! A proposal (R343, R350 to R353). -/

/-- What becomes of a node in a pass. -/
inductive Offer where
  /-- it has ended, or its context has -/
  | gone (s : State)
  /-- it waits for a page of its arguments -/
  | wait (s : State)
  | noRoom (s : State)
  | noGate
  | placed (s : State)

/-- A rectangle of a size lies within one die on cores that are present and in the context's core set (reason 7). -/
def State.hasRect (s : State) (c w h : Nat) : Bool :=
  let inSet := fun (i : Nat) => (s.getCore i).isSome && ((s.getCtx c).map (fun x => x.coreset = 0 || x.coreset.getLsbD i)).getD false
  (List.range 8).any (fun d => (origins d w h).any (fun o => (rectCores w h o.1 o.2).all inSet))

/-- Reasons 5, 7 and 8 of R343, at a node's first proposal. -/
def State.lateRefusal (s : State) (x : Context) (n : Node) (d : List Byte) (t : Option Triple) : Option Nat :=
  let z := sizesOf n.packet d
  let argw := fieldAt d 37 1
  let flen := fieldAt n.packet 64 4
  let feed := if fieldAt n.packet 68 1 = 1 then 4 * flen * fieldAt n.packet 44 4 * fieldAt d 19 1 else 4 * flen
  let fuel := x.pages.length + 1
  if t.isNone then some 5
  else if z.1 ≠ 0 && !s.hasRect n.ctx z.1 z.2.1 && !(z.2.2.1 ≠ 0 && s.hasRect n.ctx z.2.2.1 z.2.2.2) then some 7
  else if !x.mapped fuel (fieldAt n.packet 48 8) (4 * argw) || !x.mapped fuel (fieldAt n.packet 56 8) feed then some 8
  else none

/-- The next workgroup or neighbourhood of a node: its size and where it goes. -/
def State.propose (s : State) (n : Node) (d : List Byte) (t : Triple) : Option (Nat × Nat × List Spot) :=
  let q : Want := { ctx := n.ctx, triple := t, group := fieldAt d 19 1, bars := fieldAt n.packet 38 1, vt := fieldAt n.packet 39 1, lanes := none }
  let z := sizesOf n.packet d
  let try_ := fun (w h : Nat) => (s.scan (List.replicate (w * h) q) w h (s.startOf n)).map (fun l => (w, h, l))
  if z.1 = 0 then try_ 1 1
  else
    match if z.1 * z.2.1 ≤ fieldAt n.packet 44 4 - n.nextWgx then try_ z.1 z.2.1 else none with
    | some r => some r
    | none => if z.2.2.1 = 0 then none else try_ z.2.2.1 z.2.2.2

/-- 32-bit words of a byte string. -/
def wordsOf (bs : List Byte) : List Word := (List.range (bs.length / 4)).map (fun i => BitVec.ofNat 32 (fieldAt bs (4 * i) 4))

/-- A node's first placement: its argument copy, its generation, its translation and its start die are fixed. -/
def Node.first (n : Node) (s : State) (args : List Word) (t : Triple) (core : Nat) : Node :=
  { n with args := args, triple := some t, feat := s.featGen.toNat, startDie := some (dieOf core),
           dirGen := ((n.dir.bind s.getDir).map DirEntry.gen).getD 0 }

/-- One step of R353 for a node. -/
def State.offer (s : State) (n : Node) : Offer :=
  match s.getObj n.obj, s.getCtx n.ctx with
  | some o, some x =>
    let d := o.desc n.kernel
    let fresh := n.stage = 5
    let t := if fresh then tripleOf d (fieldAt n.packet 40 2) (((n.dir.bind s.getDir).map DirEntry.spill).getD 0) else n.triple
    if fresh && o.st = .quarantined then .gone (s.nodeFatal n clsIntegrity 1)
    else
      match if fresh then s.lateRefusal x n d t else none, t with
      | some why, _ => .gone (s.nodeEnd n 3 why n.value)
      | none, none => .noRoom s
      | none, some t =>
        match s.propose n d t with
        | none => .noRoom (s.putNode { n with passedOver := n.passedOver + 1 })
        | some (w, h, spots) =>
          if !s.gate n (spots.map Prod.fst) spots.length then .noGate
          else
            let go := fun (s : State) (n : Node) =>
              let nb := s.nextId
              let s1 := allocateAll n o t nb w h 0 spots { s with nextId := nb + 1 }
              let left := n.nextWgx + spots.length
              s1.putNode { n with stage := if left ≥ fieldAt n.packet 44 4 then 7 else 6, nextWgx := left, nextNbx := if (sizesOf n.packet d).1 = 0 then 0 else n.nextNbx + 1,
                                  running := n.running + spots.length, passedOver := 0 }
            if !fresh then .placed (go s n)
            else
              match s.fwRead n.ctx (fieldAt n.packet 48 8) (4 * fieldAt d 37 1) with
              | .wait s1 => .wait s1
              | .bad s1 => .wait s1
              | .ok s1 bs =>
                let core := (spots.head?.map Prod.fst).getD 0
                let s2 := match n.dir with
                  | some e => (s1.fwClear n.ctx).dispatchOn e n.ctx
                  | none => s1.fwClear n.ctx
                .placed { go s2 (n.first s1 (wordsOf bs) t core) with lastFirstDie := some (dieOf core) }
  | _, _ => .wait s

/-- Nodes with workgroups to place, whose context dispatches (R347, R373): one whose first placement is to come needs a RUNNING
context. -/
def State.dispatchable (s : State) (n : Node) : Bool :=
  n.kind = .launch && n.outcome.isNone && !n.halted && n.nextWgx < fieldAt n.packet 44 4 &&
  (match s.getCtx n.ctx with
   | some x => (x.st = .running && ((n.stage = 5 && (!x.gang || x.gangOpen)) || (6 ≤ n.stage && n.stage ≤ 7))) || (x.st = .polite && 6 ≤ n.stage && n.stage ≤ 7)
   | none => false)

/-- Node `a` comes before `b` in dispatch order. -/
def Node.before (a b : Node) : Bool := a.prio > b.prio || (a.prio = b.prio && a.stamp ≤ b.stamp)

def insertNode (n : Node) : List Node → List Node
  | [] => [n]
  | m :: r => if n.before m then n :: m :: r else m :: insertNode n r

/-- The dispatch order: queue PRIO descending, then parse stamp ascending. -/
def dispatchOrder (l : List Node) : List Node := l.foldr insertNode []

/-- The rest of a pass. A refusal by the gate blocks the context, as does a node passed over in 64 passes. -/
def passGo : Nat → List Nat → List Nat → State → State
  | 0, _, _, s => s
  | _, [], _, s => s
  | k + 1, i :: r, blocked, s =>
    match s.getNode i with
    | none => passGo k r blocked s
    | some n =>
      if blocked.contains n.ctx || !s.dispatchable n then passGo k r blocked s
      else
        match s.offer n with
        | .gone s1 => passGo k r blocked s1
        | .wait s1 => passGo k r blocked s1
        | .noRoom s1 => passGo k r (if n.passedOver + 1 ≥ 64 then n.ctx :: blocked else blocked) s1
        | .noGate => passGo k r (n.ctx :: blocked) s
        | .placed s1 => passGo k (i :: r) blocked s1

/-! Resumed workgroups (R376). -/

/-- A lock of a saved operation on its workgroup's new core (R237). -/
def Lock.moved (l : Lock) (core : Nat) : Lock :=
  if l.space = 3 then { l with lo := dieOf core * 2 ^ 26 + l.lo % 2 ^ 26, hi := dieOf core * 2 ^ 26 + l.hi % 2 ^ 26 } else l

/-- A saved team takes the state in which it goes on. -/
def Team.restore (s : State) (t : Team) (slot : Nat) : Team :=
  { t with
    slot := slot
    st := match t.st with
      | .saved => if t.brkNext.isSome then .stall .brk else if t.fmask = 0 && t.runMask = 0 then .stall .noRun else .ready
      | .stall (.sleepCc n) => .stall (.sleepCc (s.cc + n))
      | x => x }

/-- A core has a place for an operation saved by a cut: among the 64 copies of its racker, or the 16 operations of its press (R244, R280). -/
def State.opPlace (s : State) (o : Op) : Bool :=
  if o.press.isSome then (s.pressHeld o.core).length < 16 else s.rackerHeld o.core < 64

/-- A saved operation of a workgroup that stands on a core again goes on once it has a place: a copy is BUSY, a press operation QUEUED (R260,
R296). -/
def wakeOps : List Nat → State → State
  | [], s => s
  | i :: r, s =>
    match s.getOp i with
    | none => wakeOps r s
    | some o =>
      if o.st = .saved && s.opPlace o then wakeOps r (s.putOp { o with st := if o.press.isSome then .queued else .busy }) else wakeOps r s

def State.settleOps (s : State) : State := wakeOps ((s.ops.filter (fun o => o.st = .saved)).map Op.id) s

/-- A team that a cut has found parked on a function asks for it again; an entry that went to FAILED meanwhile faults its context (R316). -/
def State.asksAgain (w : Workgroup) (s : State) (t : Team) : State :=
  match t.st with
  | .stall (.translate a) =>
    (match s.objAt w.ctx a with
     | some o =>
       if ((s.dirFind o.identity (a - o.text)).map DirEntry.st) = some .failed then
         s.teamFatal w t t.runMask { mkFault clsIntegrity (s.failedSub o) 0 with ppc := a }
       else s.requestFn o (a - o.text) false
     | none => s)
  | _ => s

/-- A saved workgroup stands on a core again, with its operations and their locks. It sees what the point of coherence holds. -/
def State.restoreWg (s : State) (c : Nat) (w : Workgroup) (spot : Spot) : State :=
  match s.getCtx c with
  | none => s
  | some x =>
    let core := spot.1
    let slots := slotsFor (w.teams.map Team.lane) (s.takenOn core)
    let w1 := { w with core := core, teams := w.teams.map (fun t => t.restore s (slots.getD ((w.teams.map Team.tix).idxOf t.tix) 0)),
                       st := if w.st = .saved then .run else w.st, pressStop := false }
    let mine := x.save.ops.filter (fun (o : Op) => o.wg = w.uid)
    let ids := mine.map Op.id
    let s1 := ((s.putCtx { x with save := { x.save with
      wgs := x.save.wgs.filter (fun (y : Workgroup) => y.uid ≠ w.uid)
      ops := x.save.ops.filter (fun (o : Op) => o.wg ≠ w.uid)
      locks := x.save.locks.filter (fun (l : Lock) => !ids.contains l.op) } }).enterCore c core w.triple).acquireAt core 7
    let s2 := s1.modCore core (fun k => { k with
      locks := k.locks ++ (x.save.locks.filter (fun (l : Lock) => ids.contains l.op)).map (fun l => l.moved core) })
    let s3 := wakeOps ids { s2 with wgs := s2.wgs ++ [w1], ops := s2.ops ++ mine.map (fun (o : Op) => { o with core := core }) }
    let s4 := match s3.getNode w.node, decide (w.st = .saved), s3.getObj w.obj with
      | some n, true, some o => ((s3.charge n w.uid core).putNode { n with running := n.running + 1 }).fillRoutes core o
      | _, _, _ => s3
    w.teams.foldl (State.asksAgain w1) s4

def restoreAll (c : Nat) : List (Workgroup × Spot) → State → State
  | [], s => s
  | (w, p) :: r, s => restoreAll c r (s.restoreWg c w p)

/-- What a saved workgroup asks of a core. One already DONE asks for its region alone. -/
def Workgroup.want (w : Workgroup) : Want :=
  { ctx := w.ctx, triple := w.triple, group := w.teams.length, bars := w.bars.length, vt := w.vt, lanes := some (w.teams.map Team.lane) }

/-- The saved workgroups of a neighbourhood in member order. -/
def membersOf (l : List Workgroup) (nb : Nat) : List Workgroup :=
  let ms := l.filter (fun (w : Workgroup) => w.nbId = nb)
  match ms with
  | [] => []
  | w :: _ => (List.range (w.nbW * w.nbH)).filterMap (fun m => findBy (fun (y : Workgroup) => y.nbPosY * y.nbW + y.nbPosX = m) ms)

/-- Places one saved neighbourhood where it has room. -/
def State.resumeNb (s : State) (c nb : Nat) : State :=
  match s.getCtx c with
  | none => s
  | some x =>
    let ms := membersOf x.save.wgs nb
    match ms with
    | [] => s
    | w :: _ =>
      let start := ((s.getNode w.node).map s.startOf).getD 0
      match s.scan (ms.map Workgroup.want) w.nbW w.nbH start with
      | some spots => restoreAll c (ms.zip spots) s
      | none => s

/-- Sorts by a key, ascending, keeping the order of equals. -/
def insertBy {α : Type} (f : α → Nat) (x : α) : List α → List α
  | [] => [x]
  | y :: r => if f x ≤ f y then x :: y :: r else y :: insertBy f x r

def sortBy {α : Type} (f : α → Nat) (l : List α) : List α := l.foldr (insertBy f) []

/-- The neighbourhoods a context has saved, node by node by parse stamp and in ascending `.wgx`. -/
def State.savedNbs (s : State) (x : Context) : List Nat :=
  let l := sortBy (fun (w : Workgroup) => ((s.getNode w.node).map Node.stamp).getD 0) (sortBy Workgroup.wgx x.save.wgs)
  (l.map Workgroup.nbId).eraseDups

/-- Completes the requests of a kind that a context has open. -/
def State.closeReqs (s : State) (c code status reason : Nat) : State :=
  match s.getCtx c with
  | none => s
  | some x =>
    (x.openReqs.filter (fun r => r.1 = code)).foldl (fun s r => s.hostComplete r.2 status reason 0)
      (s.putCtx { x with openReqs := x.openReqs.filter (fun r => r.1 ≠ code) })

/-- A context whose saved workgroups all stand again enters RUNNING (R376 step 5), its nodes with the current generation
(R332); one that a retirement has met meanwhile is pre-empted by firmware at that (R14). -/
def State.resumeDone (s : State) (c : Nat) : State :=
  match s.getCtx c with
  | none => s
  | some x =>
    if x.st = .resuming && x.save.wgs = [] && x.heldWithdrawals = [] then
      let s1 := s.putCtx { x with st := if x.firmwarePreempt then .polite else .running, gangQuiet := false, gangFrozen := false,
                                  save := { x.save with kind := 0, ops := [], locks := [], nnode := 0, nwg := 0 } }
      let s2 : State := { s1 with
        nodes := s1.nodes.map (fun (n : Node) => if n.ctx = c && 6 ≤ n.stage && n.stage ≤ 7 then { n with feat := s.featGen.toNat } else n)
        queues := s1.queues.map (fun (q : Queue) => if q.ctx = c && q.st = .suspended then { q with st := .active, seq := q.seq + 2 } else q)
        passDue := true }
      s2.closeReqs c 4 1 0
    else s

/-- A gang's RESUME whose instant has not come (R384). -/
def Context.gangWaits (x : Context) : Bool := (match x.gangPending with
  | some g => g.kind = 3
  | none => false) && !x.gangTaken

/-- The first part of a pass: contexts in RESUMING, in the order in which their resumes began. -/
def State.resumePass (s : State) : State :=
  (sortBy Context.resumeOrder (s.contexts.filter (fun (x : Context) => x.st = .resuming && !x.gangWaits))).foldl (fun s x =>
    ((s.savedNbs x).foldl (fun s nb => s.resumeNb x.id nb) s).resumeDone x.id) s

/-- `distributorPass` (R353). -/
def execDistributorPass (s : State) : Host.Outcome State Fault Refusal :=
  .next (
    let s1 := { s with passDue := false }.resumePass
    let l := (dispatchOrder (s1.nodes.filter (fun n => s1.dispatchable n))).map Node.id
    { passGo (65536 + l.length) l [] s1 with passDue := false })

/-! Ends (R155, R342). -/

/-- What a context waits for in POLITE or CUTTING has happened: nothing of it runs (R373, R374). -/
def State.quietFor (s : State) (x : Context) : Bool :=
  if x.st = .polite then s.nodes.all (fun n => n.ctx ≠ x.id || n.kind ≠ .launch || n.stage < 6) && s.wgs.all (fun w => w.ctx ≠ x.id)
  else x.st = .cutting && s.wgs.all (fun w => w.ctx ≠ x.id)

/-- A workgroup can be DONE: every team DONE with nothing outstanding, every operation ended. -/
def State.wgOver (s : State) (w : Workgroup) : Bool :=
  w.st = .run && w.teams.all (fun t => t.st = .done && t.comb = [] && t.unacked = [] && t.remote = [] && t.pendFaults = []) &&
  s.ops.all (fun o => o.wg ≠ w.uid || !(o.st.isBusy || o.st = .saved))

/-- `workgroupDone`. The scratchpad of a member of a neighbourhood stays in the window until the last member is DONE. The L1's dirty bytes are
written back for the release that the node's completion is. -/
def execWorkgroupDone (u : Nat) (s : State) : Host.Outcome State Fault Refusal :=
  .next (match s.getWg u with
    | none => s
    | some w =>
      if !s.wgOver w then s
      else
        let s1 := match s.getNode w.node with
          | some n => (s.releaseAt w.core n.cscope).putNode { n with running := n.running - 1 }
          | none => s
        let s2 := match s1.getCtx w.ctx with
          | some x => s1.putCtx { x with charges := x.charges.filter (fun c => c.1 ≠ u) }
          | none => s1
        let s3 : State := { s2.putWg { w with st := .done, teams := [], bars := [], chans := [], vt := 0, vat := [] } with
          ops := s2.ops.filter (fun (o : Op) => o.wg ≠ u)
          passDue := true }
        let nb := s3.wgs.filter (fun (y : Workgroup) => y.nbId = w.nbId && y.ctx = w.ctx)
        if nb.all (fun y => y.st = .done) then s3.removeWgs (nb.map Workgroup.uid) else s3)

/-- A launch has run to its end: everything placed, nothing running or saved. -/
def State.launchOver (s : State) (n : Node) : Bool :=
  6 ≤ n.stage && n.stage ≤ 7 && n.running = 0 && (n.halted || n.nextWgx ≥ fieldAt n.packet 44 4) && s.wgs.all (fun w => w.node ≠ n.id) &&
  (match s.getCtx n.ctx with
   | some x => (x.st = .running || x.st = .polite || x.st = .cutting) && x.save.wgs.all (fun w => w.node ≠ n.id)
   | none => false)

/-- The context dispatches new work. -/
def State.dispatches (s : State) (c : Nat) : Bool := ((s.getCtx c).map Context.st) = some .running

/-- `nodeComplete` (R341, R342). -/
def execNodeComplete (id : Nat) (s : State) : Host.Outcome State Fault Refusal :=
  .next (match s.getNode id with
    | none => s
    | some n =>
      if n.stage = 8 then s.nodeRecord n
      else
        match n.kind with
        | .launch => if s.launchOver n then (s.cover n.ctx n.cscope).nodeEnd n 1 0 n.value else s
        | .join => if n.stage = 4 && s.dispatches n.ctx then s.nodeEnd n 1 0 n.value else s
        | .load => if n.stage = 4 && s.dispatches n.ctx then s.loadNode n else s
        | .unload => if n.stage = 4 && s.dispatches n.ctx then s.unloadStart n else s)

end Sys2Proof.Machine
end

