-- ==== Sys2Proof/Machine/Arrival.lean ====
section
/-! DEFINITION. What reaches a team from outside its instructions: stream elements (R213 to R215), feed values (R180, R181), the drain of
the combining buffer by time (R241), and the watchdog (R175). -/
namespace Sys2Proof.Machine

/-- A run in which nothing issues: the team reads or sends through it on its own account. -/
def quietRun (s : State) (w : Workgroup) (t : Team) : Run :=
  { beginIssue s w t ((t.leadPc).getD 0) 0 15 false with s := s, t := t, parts := [], cands := 0, replaying := false, resumed := false }

/-- A context whose teams run. -/
def CtxSt.runs : CtxSt → Bool
  | .running => true | .polite => true | .cutting => true | _ => false

def State.ctxRuns (s : State) (c : Nat) : Bool := ((s.getCtx c).map (fun x => x.st.runs)).getD false

/-! Stream elements. -/

/-- Bytes of elements a stream buffer holds (R194). -/
def streamBuf : Nat := 128

/-- Puts an element at the end of a stream's buffer. -/
def Run.element (r : Run) (q : Nat) (el : StreamElem) : State :=
  { r with t := r.t.setStream q { r.t.stream q with buf := (r.t.stream q).buf ++ [el] } }.sync

/-- Fetches the next element of a read stream. A fault is kept with the element; range locks are checked as it is consumed (R235). -/
def fetchElement (r : Run) (q : Nat) (rec : List Byte) : State :=
  let st := r.t.stream q
  let n := 2 ^ st.esz
  let sp := fieldAt rec 4 1
  let a := elemAddr rec st.base (st.pos + st.buf.length)
  let flt := fun (r : Run) (f : FaultInfo) => r.element q { val := 0, fault := some f }
  match r.sync.locate (r.agent 0) sp a n n .load with
  | .bad f => flt r { f with ppc := r.pc }
  | .replay va _ => flt r { mkFault clsPageNr 0 a.toNat with ppc := va }
  | .at_ p =>
    match p with
    | .remote l va =>
      match findBy (fun (x : Nat × Nat × List Byte) => x.1 = q && x.2.1 = va / 64 * 64) r.t.streamBlocks with
      | some x =>
        { r with t := { r.t with streamBlocks := r.t.streamBlocks.filter (fun y => y ≠ x) } }.element q
          { val := bytesNat ((x.2.2.drop (va % 64)).take n), fault := none }
      | none =>
        if r.t.remote.any (fun w => w.va = va / 64 * 64 && w.d = .bar (BitVec.ofNat 6 q)) then r.s
        else
          let r1 := r.askBlock (.bar (BitVec.ofNat 6 q)) 0 0 l (va / 64 * 64)
          match r1.halt with
          | .fatal f => flt r f
          | .stall (.key d) => (r1.s.exhaust d)
          | .stall .remote => { r1 with halt := .go }.sync
          | _ => r.s
    | _ =>
      let x := r.readAt 0 sp a.toNat n p
      match x.1.halt with
      | .fatal f => flt r f
      | _ => x.1.element q { val := bytesNat x.2, fault := none }

/-- The elements that a stream buffer keeps as its engine goes on: one that met a page not there, and what was fetched after it, is fetched again
(R215). -/
def Stream.again (st : Stream) : Stream :=
  { st with buf := st.buf.takeWhile (fun el => !((el.fault.map FaultInfo.isPage).getD false)) }

/-- `streamElementArrival`: the next element of a bound read stream that no copy feeds. -/
def execStreamElementArrival (u i q : Nat) (s : State) : Host.Outcome State Fault Refusal :=
  .next (match s.teamOf u i with
    | none => s
    | some (w, t0) =>
      let t := t0.setStream q (t0.stream q).again
      let st := t.stream q
      match s.streamRecord w q with
      | none => s
      | some rec =>
        if t.st = .done || !s.ctxRuns w.ctx || !st.bound || st.write || st.copy.isSome || st.pos + st.buf.length ≥ st.total ||
           (st.buf.length + 1) * 2 ^ st.esz > streamBuf then s
        else fetchElement (quietRun s w t) q rec)

/-! The feed. -/

/-- `feedValueArrival`: the next feed value arrives in the decision queue. -/
def execFeedValueArrival (u i : Nat) (s : State) : Host.Outcome State Fault Refusal :=
  .next (match s.teamOf u i with
    | none => s
    | some (w, t) =>
      match s.getNode w.node with
      | none => s
      | some n =>
        let k := t.feedPos + t.feedBuf.length
        let flen := fieldAt n.packet 64 4
        let j := if fieldAt n.packet 68 1 = 1 then w.wgx * w.teams.length + t.tix else 0
        if t.st = .done || !s.ctxRuns w.ctx || k ≥ flen || t.feedBuf.length ≥ 64 then s
        else
          match s.fwRead w.ctx (fieldAt n.packet 56 8 + 4 * (flen * j + k)) 4 with
          | .bad s1 => s1.teamFatal w t 0 { mkFault clsPage 0 (fieldAt n.packet 56 8 + 4 * (flen * j + k)) with ppc := (t.leadPc).getD 0 }
          | .wait s1 => s1
          | .ok s1 bs => (s1.fwClear w.ctx).modTeam u i (fun t => { t with feedBuf := t.feedBuf ++ [BitVec.ofNat 32 (bytesNat bs)] }))

/-! The combining buffer (R241). -/

/-- An entry's time has come: 1024 cc of the issue clock since it opened, the team's end, or a cut. -/
def CombEntry.isDue (c : CombEntry) (t : Team) (cut : Bool) : Bool := t.clock ≥ c.opened + 1024 || t.st = .done || cut

/-- `combiningDrainTimeout`: the entries of a block whose time has come drain. The imprecise fault of a team that has exited
goes to its context (R238). -/
def execCombiningDrainTimeout (u i block : Nat) (s : State) : Host.Outcome State Fault Refusal :=
  .next (match s.teamOf u i with
    | none => s
    | some (w, t) =>
      let cut := ((s.getCtx w.ctx).map Context.st) = some .cutting
      if !t.comb.any (fun c => c.block = block && c.isDue t cut) then s
      else
        let r := (quietRun s w t).drain (fun c => c.block = block && c.isDue t cut)
        let r1 : Run := match r.halt with
          | .stall (.key d) => { r with s := r.s.exhaust d }
          | _ => r
        match t.st, r1.t.pendFaults with
        | .done, f :: _ => r1.sync.fatal w.ctx (ctxRecord r1.s f)
        | _, _ => r1.sync)

/-! The watchdog (R175). -/

/-- `teamWatchdogExpiry`: a forced yield the first time, TEAM_HUNG the second. -/
def execTeamWatchdogExpiry (u i : Nat) (s : State) : Host.Outcome State Fault Refusal :=
  .next (match s.teamOf u i with
    | none => s
    | some (w, t) =>
      if t.wdog.toNat < wdogLimit then s
      else if t.wdogExp then s.teamFatal w t t.runMask { mkFault clsHung 0 0 with ppc := (t.leadPc).getD 0 }
      else s.putWg (w.putTeam { t with wdog := 0, wdogExp := true, yieldAt := t.leadPc }))

end Sys2Proof.Machine
end

