-- ==== Sys2Proof/Machine/Context.lean ====
section
/-! DEFINITION. Contexts (R363 to R376, R459): requests, pre-emption, the save area, resume, discard's way back, and the timed gang's
part in them (R379 to R387). -/
namespace Sys2Proof.Machine

/-! The save area (R372). -/

/-- Bit sets of package IDs, 32 bytes. -/
def idBytes (l : List Nat) : List Byte :=
  (List.range 32).map (fun k => BitVec.ofNat 8 (((List.range 8).map (fun j => if l.contains (8 * k + j) then 2 ^ j else 0)).foldl (· + ·) 0))

/-- The 256-byte header. CREGS has no layout of its fields in the manual: its bytes are open. -/
def Context.saveHeader (x : Context) : List Byte :=
  let v := x.save
  let word := fun (i : Nat) => natBytes 8 (v.ladder.getD i 0)
  natBytes 4 1 ++ natBytes 1 v.kind ++ natBytes 3 0 ++ natBytes 8 v.time ++ natBytes 4 v.nnode ++ natBytes 4 v.nwg ++
  (if v.kind = 3 then (v.fault.map FaultRec.bytes).getD (natBytes 64 0) else natBytes 64 0) ++
  (List.range 32).map (fun i => Config.saveByte x.id (88 + i)) ++
  word 0 ++ word 1 ++ word 2 ++ word 15 ++ idBytes v.missing ++ natBytes 64 0 ++ natBytes 8 v.gen

/-- A byte of the save area; the places of what follows the header are open. -/
def Context.saveAt (x : Context) (off : Nat) : Byte := if off < 256 then x.saveHeader.getD off 0 else Config.saveByte x.id off

/-- Bytes of the save area from an offset. -/
def Context.saveBytes (x : Context) (off : Nat) : Nat → List Byte
  | 0 => []
  | n + 1 => x.saveAt off :: x.saveBytes (off + 1) n

/-! Gang control (R381, R385, R387). -/

/-- A package has arrived at the gang barrier of a generation. -/
def Context.arrivedAt (x : Context) (gen p : Nat) : Bool := x.gangArrived.contains (gen * 256 + p)

/-- The gang barrier of a record is complete. -/
def Context.barrierDone (x : Context) (g : GangRec) : Bool := g.members.all (fun p => x.arrivedAt g.gen p)

/-- This member arrives at the barrier of its pending record. -/
def State.gangArrive (s : State) (c : Nat) : State :=
  match s.getCtx c with
  | none => s
  | some x =>
    match x.gangPending with
    | none => s
    | some g =>
      if x.arrivedAt g.gen s.pkg then s
      else (s.putCtx { x with gangArrived := x.gangArrived ++ [g.gen * 256 + s.pkg], gangArrivedAt := s.tai }).tellAll
        (.gangArrive x.gangId g.gen) (g.members.filter (fun p => p ≠ s.pkg))

/-- Whether the context holds requests of another package that it has not answered (R385). -/
def State.unanswered (s : State) (c : Nat) : Bool :=
  s.homeWaits.any (fun h => h.reply.p.ctx = c) || s.heldReqs.any (fun h => h.p.ctx = c) ||
  s.owed.any (fun h => h.type.counted && h.p.ctx = c)

/-- The counts of this member towards another. -/
def Context.txTo (x : Context) (p : Nat) : Nat := (tabGet p x.txc).getD 0
def Context.rxFrom (x : Context) (p : Nat) : Nat := (tabGet p x.rxc).getD 0

/-- After a PREEMPT instant the counts are announced to each member, and again on every change (R385). -/
def State.announce (s : State) (c : Nat) : State :=
  match s.getCtx c with
  | none => s
  | some x =>
    if !x.gangQuiet || x.gangFrozen then s
    else
      let u := s.unanswered c
      (s.gangPeers x).foldl (fun s p =>
        let now := (p, x.txTo p, x.rxFrom p, u)
        match s.getCtx c with
        | none => s
        | some y =>
          if y.announced.contains now || s.sendBar p false 0 ≠ .open_ then s
          else (s.putCtx { y with announced := now :: y.announced.filter (fun a => a.1 ≠ p) }).send
            (.control (.gangCounts x.gangId (x.txTo p) (x.rxFrom p) u)) (blankPacket p 0)) s

/-- Quiescence as this member sees it (R385): for each pair with it, both directions agree, and nobody holds a request
unanswered. -/
def State.quiescent (s : State) (x : Context) : Bool :=
  !s.unanswered x.id && (s.gangPeers x).all (fun p => x.peerCounts.any (fun a => a.1 = p && a.2.1 = x.rxFrom p && a.2.2.1 = x.txTo p && !a.2.2.2))

/-- At quiescence the counts are frozen into the save area and zeroed. -/
def State.freeze (s : State) (c : Nat) : State :=
  match s.getCtx c with
  | none => s
  | some x =>
    if x.gangQuiet && !x.gangFrozen && s.quiescent x then
      s.putCtx { x with gangFrozen := true, txc := [], rxc := [], announced := [], peerCounts := [],
                        save := { x.save with frozenTx := x.txc, frozenRx := x.rxc } }
    else s

/-! Pre-emption (R373, R374). -/

/-- A pre-emption begins politely. The window in force is that of now. -/
def State.startPolite (s : State) (c : Nat) (firmware : Bool) : State :=
  match s.getCtx c with
  | none => s
  | some x => s.putCtx { x with st := .polite, politeAt := s.tai + 1000 * x.politeWindow, firmwarePreempt := firmware }

/-- A context whose running work has ended or been saved enters SAVED. -/
def State.enterSaved (s : State) (x : Context) : State :=
  let v := { x.save with
    kind := if x.st = .cutting then 2 else 1
    time := s.tai
    nnode := s.poolUsed x.id
    nwg := x.save.wgs.length
    fault := none
    missing := []
    gen := x.gangGen
    cregs := [x.nbv, x.politeWindow, b2n x.brk + 2 * b2n x.lrh, x.quota, x.budget.toNat]
    ladder := x.ladder }
  let s1 := s.putCtx { x with st := .saved, save := v, rpartJoins := [] }
  let s2 : State := { s1 with
    queues := s1.queues.map (fun (q : Queue) => if q.ctx = x.id && q.st = .active then { q with st := .suspended, seq := q.seq + 2 } else q) }
  s2.closeReqs x.id 3 1 0

/-- A firmware pre-emption releases its context (R14, R332); another saves it, a gang's at quiescence (R385). -/
def State.settleSave (s : State) (c : Nat) : State :=
  let s1 := (s.announce c).freeze c
  match s1.getCtx c with
  | none => s1
  | some x =>
    if !s1.quietFor x then s1
    else if x.firmwarePreempt then
      (if s1.retiring = [] then { s1.putCtx { x with st := .running, firmwarePreempt := false } with passDue := true } else s1)
    else if !x.gangQuiet || x.gangFrozen then s1.enterSaved x
    else s1

/-- `politeWindowExpiry`: the cut begins (R373 step 3). -/
def State.cutBegins (s : State) (c : Nat) : State :=
  match s.getCtx c with
  | none => s
  | some x =>
    if x.st = .polite && !x.firmwarePreempt && s.tai ≥ x.politeAt && !s.quietFor x then s.putCtx { x with st := .cutting, cutAt := s.cc } else s

/-- A team stands where a cut takes it (R113, R179, R374): in portable code at any instruction boundary, in native code before a clause that is
a STOP point, with its WAIT clear and nothing left to deliver; or in a stall inside an instruction, or in REPLAY. A replay that has been
released runs first (R375). -/
def State.atStop (s : State) (w : Workgroup) (t : Team) : Bool :=
  match t.st with
  | .stall (.flags _) => false
  | .stall (.flagFull _) => false
  | .ready =>
    t.fmask = 0 && !t.nat.started &&
    (if s.inNative w t then
      (match t.leadPc with
       | some pc => (match s.headerAt w.ctx pc with
           | some h => t.stopAt h pc && t.waitFlags h.wait = 0 && t.dueFaults h true = []
           | none => false)
       | none => false)
     else true)
  | _ => true

/-- A copy that a cut saves instead of draining: one to a stream register (R296), or an `rpart` (R440). -/
def Op.savedByCut (o : Op) : Bool :=
  match o.body with
  | .copy b => b.kind = 1 && fieldAt b.block 11 1 = 15
  | .rpart _ => true
  | .press _ => true

/-- The engines of a workgroup have drained (R237, R260): no copy BUSY but those saved, no micro-tile started, no linked arrival under way. -/
def State.drained (s : State) (w : Workgroup) : Bool :=
  s.ops.all (fun o => o.wg ≠ w.uid || (o.unacked = [] && (!o.st.isBusy || o.savedByCut) && (match o.body with
    | .press b => b.started = []
    | _ => true))) &&
  s.arrivals.all (fun o => o.wg ≠ w.uid) &&
  ((s.getCore w.core).map (fun k => k.directStarted.all (fun d => d.wg ≠ w.uid))).getD true

/-- A wait at another package's barrier object: its answer comes with the phase, and the home keeps the waiter (R300, R310). -/
def RemoteWait.waits (r : RemoteWait) : Bool :=
  r.aop = aopBar && (match BarEvent.ofBytes r.pay with
    | .wait _ => true
    | _ => false)

/-- What a team has sent or asked has been answered (R241, R305, R374), but for waits, which are made again on resume. -/
def Team.drained (t : Team) : Bool := t.comb = [] && t.unacked = [] && t.remote.all RemoteWait.waits && t.nat.outstanding = []

/-- What is left of a stalled instruction: the participants that have not executed it, and in a native bundle the threads after them (R179). -/
def Team.unfinished (t : Team) : BitVec 32 :=
  if t.brkNext.isSome then 0 else t.pend.getD 0 ||| (if t.nat.started then t.nat.todo else 0)

/-- A portable team waits for a token's operation: it is cut at that instruction, which it executes again on resume (R455). -/
def Team.atToken (t : Team) : Bool :=
  !t.nat.started && (match t.st with
    | .stall (.token _) => true
    | _ => false)

/-- A team as a cut saves it (R118, R178, R179, R215, R278, R310, R370, R394, R455): the participants of a stalled instruction that have not executed it
are set in `TEAM_FMASK`, the shadow of `fmt` has passed, and the phase that the team waits for is kept. Answers of barrier objects are
kept too: their events have taken place. -/
def Team.cutSave (s : State) (w : Workgroup) (t : Team) : Team :=
  let m := if t.atToken then 0 else t.unfinished
  let t1 := if t.atToken then { t with pend := none }
            else if m = 0 then t
            else { t with threads := mapThreads (fun i h => if hasBit m i then { h with st := .fault } else h) 0 t.threads,
                          fmask := t.fmask ||| m, pend := none }
  let busy := fun (q : Stream) => (q.copy.bind s.getOp).any (fun o => o.st.isBusy)
  let holds := (s.getCore w.core).bind Core.direct = some (w.uid, t.tix)
  { t1 with
    st := match t1.st with
      | .done => .done
      | .stall (.translate a) => .stall (.translate a)
      | .stall (.sleepTai n) => .stall (.sleepTai n)
      | .stall (.sleepCc n) => .stall (.sleepCc (n - s.cc))
      | _ => .saved
    savedWait := match t1.st with
      | .stall (.phase b ph) => some (b, ph)
      | _ => t1.savedWait
    pfmt := (t1.pfmtLater.getLast?.map Prod.snd).getD t1.pfmt
    pfmtLater := []
    feedBuf := []
    fetched := t1.fetched.filter (fun x => x.2.length = 12)
    streamBlocks := []
    relPend := none
    remote := []
    streams := t1.streams.map (fun q => if q.2.copy.isNone || busy q.2 then (q.1, { q.2 with buf := [] }) else q)
    nat := { t1.nat with direct := t1.nat.direct || holds } }

/-- An operation as a cut saves it: abandoned steps issue again, unread elements of a stream are delivered again, and an `rpart` starts
again (R260, R296, R440). -/
def Op.cutSave (w : Workgroup) (o : Op) : Op :=
  if !(o.st.isBusy || o.st = .saved) then o
  else
    { o with
      st := .saved, waits := [], got := []
      body := match o.body with
        | .copy b => .copy { b with idx := b.idx - (((w.getTeam o.tix).map (fun t => (t.stream (fieldAt b.block 12 1)).buf.length)).getD 0) }
        | .rpart b => .rpart { b with stage := 0, bounds := [], hist := [], cnts := [], recs := [], recv := 0, kept := false }
        | x => x }

/-- A member of a neighbourhood can be saved: every team has stopped and everything has drained, or it is DONE. -/
def State.saveReady (s : State) (w : Workgroup) : Bool :=
  w.st = .done || (w.st = .run && w.teams.all (fun t => s.atStop w t && t.drained) && s.drained w)

/-- The stores of a workgroup stand at the point of coherence before it leaves its core, and a fence's release still to perform does so. -/
def State.saveFlush (s : State) (w : Workgroup) : State :=
  w.teams.foldl (fun s t => match t.relPend with
    | some sc => s.release w.core w.ctx sc
    | none => s) (s.l1Clean w.core (fun _ => true))

/-- A retired operation that portable code has used since its last record counts again where a cut has taken its team back to it (R98); whether
it has is open. -/
def State.mayRecount (s : State) (w : Workgroup) : State :=
  w.teams.foldl (fun s t =>
    if t.st = .done || s.inNative w t then s
    else
      let y := s.freeValue
      if y.1.getLsbD 0 then y.2.countAgain w.ctx else y.2) s

/-- The record of one workgroup is written (R372, R374). -/
def State.saveOne (s0 : State) (w : Workgroup) : State :=
  let s := (s0.saveFlush w).mayRecount w
  match s.getCtx w.ctx with
  | none => s
  | some x =>
    let mine := s.ops.filter (fun (o : Op) => o.wg = w.uid)
    let ids := mine.map Op.id
    let locks := ((s.getCore w.core).map Core.locks).getD []
    let w1 := if w.st = .done then w else { w with st := .saved, teams := w.teams.map (fun t => t.cutSave s w) }
    let s1 := s.putCtx { x with
      charges := x.charges.filter (fun c => c.1 ≠ w.uid)
      save := { x.save with
        wgs := x.save.wgs ++ [w1]
        ops := x.save.ops ++ mine.map (fun (o : Op) => o.cutSave w)
        locks := x.save.locks ++ locks.filter (fun (l : Lock) => ids.contains l.op) } }
    match s1.getNode w.node with
    | some n => if w.st = .run then s1.putNode { n with running := n.running - 1 } else s1
    | none => s1

/-- `workgroupSave` (R374): the records of a neighbourhood are written and its core resources are freed, once every member has stopped and
drained. Its window stands until then (R155, R189, R197). -/
def State.saveWg (s : State) (u : Nat) : State :=
  match s.getWg u with
  | none => s
  | some w =>
    let mates := s.wgs.filter (fun (y : Workgroup) => y.nbId = w.nbId && y.ctx = w.ctx)
    if ((s.getCtx w.ctx).map Context.st) ≠ some .cutting || w.st ≠ .run || !mates.all (fun y => s.saveReady y) then s
    else (mates.foldl State.saveOne s).removeWgs (mates.map Workgroup.uid)

/-- A cut reaches the press of a workgroup once every team of it has stopped (R260). -/
def State.stopPress (s : State) (c : Nat) : State :=
  if ((s.getCtx c).map Context.st) ≠ some .cutting then s
  else { s with wgs := s.wgs.map (fun w => if w.ctx = c && w.teams.all (fun t => s.atStop w t) then { w with pressStop := true } else w) }

/-- `cutBackTimeout` (R374): a team inside an idempotent region that has not stopped 4096 cc after the cut goes back to the
region's COMMIT record. -/
def State.cutBack (s : State) (u i : Nat) : State :=
  match s.teamOf u i with
  | none => s
  | some (w, t) =>
    match s.getCtx w.ctx, t.nat.region with
    | some x, some c =>
      if x.st = .cutting && s.cc ≥ x.cutAt + 4096 && s.inNative w t && !s.atStop w t && t.st ≠ .done then
        (s.modTeam u i (fun t => { t.revertAll c with st := .saved })).aliasDrop u i (fun _ => true)
      else s
    | _, _ => s

/-! Resume (R376). -/

/-- Steps 1 and 2: RESUMING, and the withdrawals held meanwhile. -/
def State.resumeStart (s : State) (c : Nat) : State :=
  match s.getCtx c with
  | none => s
  | some x =>
    let s1 := s.putCtx { x with st := .resuming, resumeOrder := s.nextStamp }
    { withdrawHeld c x.heldWithdrawals { s1 with nextStamp := s.nextStamp + 1 } with passDue := true }

/-- Withdrawals that a page has held up go on, but not while the context is saved (R357). -/
def State.settleWithdrawals (s : State) (c : Nat) : State :=
  match s.getCtx c with
  | none => s
  | some x => if x.heldWithdrawals = [] || x.st = .saved then s else withdrawHeld c x.heldWithdrawals s

/-- Step 3 can place every workgroup now. -/
def State.canResume (s : State) (c : Nat) : Bool :=
  match s.getCtx c with
  | none => false
  | some x =>
    match ((s.savedNbs x).foldl (fun s nb => s.resumeNb c nb) s).getCtx c with
    | some y => y.save.wgs = []
    | none => false

/-- A member of a resuming gang arrives at its barrier once it can place everything (R381). -/
def State.resumeReady (s : State) (c : Nat) : State :=
  match s.getCtx c with
  | none => s
  | some x =>
    if (x.gangPending.map GangRec.kind) = some 3 && ((x.st = .resuming && s.canResume c) || x.st = .running) then s.gangArrive c else s

/-! Requests (R363, R459). -/

/-- The creation record of R364 for a context and its limits, R399's among them. -/
def State.recordOk (s : State) (c : Nat) (b : List Byte) : Bool :=
  let others := s.contexts.filter (fun x => x.id ≠ c)
  let f := fun (o n : Nat) => fieldAt b o n
  let fb := f 192 8
  let fs := f 200 8
  let apart := fun (lo n : Nat) => fs = 0 || n = 0 || lo + n ≤ fb || fb + fs ≤ lo
  f 0 4 = 1 && f 4 1 ≤ 2 && f 5 1 < 8 && zeroAt b 6 2 && f 8 8 % 65536 = 0 &&
  f 8 8 + (others.map Context.dq).foldl (· + ·) 0 ≤ 2 ^ 26 && f 16 4 < 2 ^ 24 && 1 ≤ f 20 4 && f 20 4 ≤ 16384 &&
  (f 5 1 / 4 = 1 || f 32 4 = 0) && f 36 2 ≤ 2047 && zeroAt b 38 2 && zeroAt b 168 24 &&
  fb % 2 ^ 18 = 0 && fs % 2 ^ 18 = 0 && f 208 8 % 2 ^ 18 = 0 && f 216 8 % 2 ^ 18 = 0 && zeroAt b 224 32 &&
  others.all (fun x => apart x.fpBase x.fpSize) && s.regions.all (fun r => apart r.1 r.2)

/-- A save area that holds nothing. -/
def SaveArea.empty : SaveArea :=
  { kind := 0, time := 0, nnode := 0, nwg := 0, fault := none, missing := [], gen := 0, cregs := [], ladder := [], wgs := [], ops := [],
    locks := [], frozenTx := [], frozenRx := [] }

/-- A context as its creation record sets it up (R364, R377, R382, R399). -/
def newContext (c bell : Nat) (b : List Byte) : Context :=
  let f := fun (o n : Nat) => fieldAt b o n
  let nbv := if f 4 1 = 0 then 2 else f 4 1
  { id := c, st := .running, nbv := nbv, brk := f 5 1 % 2 = 1, lrh := f 5 1 / 2 % 2 = 1, gang := f 5 1 / 4 = 1, gangId := f 32 4,
    politeWindow := f 16 4, quota := f 20 4, budget := BitVec.ofNat 64 (f 24 8) &&& budgetMask, dq := f 8 8, fqvec := f 36 2,
    coreset := BitVec.ofNat 1024 (f 40 128), fpBase := f 192 8, fpSize := f 200 8, bkBase := f 208 8, bkSize := f 216 8, doorbell := bell,
    created := [nbv, f 5 1 % 2, f 5 1 / 2 % 2, f 16 4, f 20 4, (BitVec.ofNat 64 (f 24 8) &&& budgetMask).toNat],
    pages := [], tables := [], usedFrames := [], dieq := [], ladder := List.replicate 16 0, charges := [], fqHead := 0, fqTail := 0, fq := [],
    fqWaiting := none, dropBrk := 0, cause := none, save := SaveArea.empty, heldWithdrawals := [], openReqs := [], waiting := [],
    politeAt := 0, firmwarePreempt := false, cutAt := 0, resumeOrder := 0, gangOpen := f 5 1 / 4 ≠ 1, gangPending := none, gangGen := 0,
    gangMembers := [], gangArrived := [], gangArrivedAt := 0, gangTaken := false, gangQuiet := false, gangFrozen := false, announced := [],
    destroying := none, rpartJoins := [], peerCounts := [], txc := [], rxc := [], fetched := [], asks := [], pageOps := [] }

/-- CREATE. The address of the doorbell page is open. -/
def State.ctxCreate (s : State) (c : Nat) (r : Request) : State :=
  let b := s.hostTake r.arg0.toNat 256
  let y := s.freeValue
  let bell := y.1.toNat % trampBase / 2 ^ 18 * 2 ^ 18
  ({ y.2 with ctxMade := true, contexts := y.2.contexts ++ [newContext c bell b] }).hostComplete r.compl.toNat 1 0 bell

/-- Everything a context holds goes (R363, R368). FAILED translations go with the last load of their identity (R315). -/
def State.ctxErase (s : State) (c : Nat) : State :=
  let s1 := s.freeWork c
  let left := s1.objects.filter (fun (o : CodeObj) => o.ctx ≠ c)
  { s1 with
    queues := s1.queues.filter (fun (q : Queue) => q.ctx ≠ c)
    objects := left
    dir := (s1.dir.filter (fun (d : DirEntry) => d.st ≠ .failed || left.any (fun o => o.identity = d.identity))).map (fun (d : DirEntry) =>
      { d with prof := d.prof.filter (fun (p : ProfCount) => p.ctx ≠ c) })
    dieTlb := s1.dieTlb.filter (fun e => e.2.ctx ≠ c)
    cores := s1.cores.map (fun k => { k with tlb := k.tlb.filter (fun e => e.ctx ≠ c), nbv := tabDel c k.nbv })
    bad := s1.bad.filter (fun u => match u with
      | .dieq d _ => d / 64 ≠ c
      | _ => true)
    barWaits := s1.barWaits.filter (fun (b : BarWait) => b.ctx ≠ c)
    barLinks := s1.barLinks.filter (fun (b : BarLink) => b.ctx ≠ c)
    contexts := s1.contexts.filter (fun (x : Context) => x.id ≠ c) }

/-- A copy of a context is still ending (R281). -/
def State.copiesEnding (s : State) (c : Nat) : Bool := s.ops.any (fun o => o.ctx = c)

/-- DESTROY: the context is discarded with no record, and FREE once no copy of it is BUSY (R281, R375). -/
def State.ctxDestroy (s : State) (x : Context) (r : Request) : State :=
  let s1 := (overtakeGo s (x.openReqs.filter (fun q => q.1 = 3 || q.1 = 4))).freeWork x.id
  if s1.copiesEnding x.id then
    s1.putCtx { x with st := .faulted, cause := none, openReqs := [], charges := [], heldWithdrawals := [], gangPending := none, gangQuiet := false,
                       firmwarePreempt := false, destroying := some r.compl.toNat }
  else (s1.ctxErase x.id).hostComplete r.compl.toNat 1 0 0

/-- The limits of QCREATE (R333, R443). -/
def queueArgsOk (r : Request) : Bool :=
  let a := r.arg0.toNat
  let l := a / 2 ^ 12 % 256
  12 ≤ l && l ≤ 26 && a / 2 ^ 22 % 2 ^ 10 = 0 && a / 2 ^ 43 = 0 && r.arg1.toNat % 2 ^ l = 0 && r.arg2.toNat % 8 = 0

/-- QCREATE. In a saved context the queue is SUSPENDED, as the queues of that context are. -/
def State.qCreate (s : State) (x : Context) (r : Request) : State :=
  let a := r.arg0.toNat
  let q : Queue :=
    { id := a % 2 ^ 12, ctx := x.id, st := if x.st = .saved then .suspended else .active, log2sz := a / 2 ^ 12 % 256,
      prio := a / 2 ^ 20 % 4, base := r.arg1.toNat, widx := 0, ridx := 0, ticket := 0, ridxAddr := r.arg2.toNat, err := 0, eoff := 0,
      msix := a / 2 ^ 32 % 2 ^ 11, lostC := false, lostR := false, seq := 0, withdrawn := [], doneTickets := [], cdone := 0,
      publish := none }
  ({ s with queues := s.queues ++ [q] }).hostComplete r.compl.toNat 1 0 0

/-- The queue that a request of a context names. -/
def State.ownQueue (s : State) (x : Context) (r : Request) : Option Queue :=
  (s.getQueue r.arg0.toNat).bind (fun q => if q.ctx = x.id && q.st ≠ .free then some q else none)

/-- The core, lane and slot that DBGCONT names (R443); bit 16 names every stopped team. -/
def reqPicks (r : Request) (w : Workgroup) (t : Team) : Bool :=
  let a := r.arg0.toNat
  a / 2 ^ 16 % 2 = 1 || (w.core = a % 2 ^ 10 && t.lane = a / 2 ^ 10 % 16 && t.slot = a / 2 ^ 14 % 4)

/-- A team stopped at `brk` goes on past it (R370): in native code with the rest of its bundle. -/
def Team.pastBrk (t : Team) : Team :=
  match t.brkNext with
  | none => t
  | some a =>
    if t.nat.started then { t.ctlDone with brkNext := none }
    else
      let m := t.pend.getD 0
      { t with threads := mapThreads (fun i h => if hasBit m i then { h with pc := a } else h) 0 t.threads,
               pend := none, brkNext := none, st := .ready }

/-- DBGCONT. -/
def State.dbgCont (s : State) (x : Context) (r : Request) : State :=
  ({ s with wgs := s.wgs.map (fun (w : Workgroup) =>
      if w.ctx = x.id then { w with teams := w.teams.map (fun (t : Team) => if t.st = TeamSt.stall .brk && reqPicks r w t then t.pastBrk else t) } else w) }).hostComplete
    r.compl.toNat 1 0 0

def resetQueues : List Nat → State → State
  | [], s => s
  | q :: r, s => resetQueues r (s.queueReset q)

/-- REARM (R363). -/
def State.rearm (s : State) (x : Context) (r : Request) : State :=
  let k := fun (i : Nat) => x.created.getD i 0
  let s1 := s.putCtx { x with st := .running, cause := none, nbv := k 0, brk := k 1 = 1, lrh := k 2 = 1, politeWindow := k 3, quota := k 4,
                              budget := BitVec.ofNat 64 (k 5), dieq := [] }
  let s2 : State := { s1 with passDue := true, bad := s1.bad.filter (fun u => match u with
      | .dieq d _ => d / 64 ≠ x.id
      | _ => true) }
  (resetQueues ((s2.queues.filter (fun (q : Queue) => q.ctx = x.id)).map Queue.id) s2).hostComplete r.compl.toNat 1 0 0

/-- A timed record as read (R379). -/
def gangOf (b : List Byte) : GangRec :=
  { kind := fieldAt b 0 1, time := fieldAt b 8 8, grace := if fieldAt b 16 4 = 0 then 20000 else fieldAt b 16 4, gen := fieldAt b 20 4,
    members := (List.range 256).filter (fun i => fieldAt b (32 + i / 8) 1 / 2 ^ (i % 8) % 2 = 1) }

/-- Its limits. -/
def State.gangOk (s : State) (x : Context) (b : List Byte) : Bool :=
  let g := gangOf b
  1 ≤ g.kind && g.kind ≤ 3 && fieldAt b 1 1 = 1 && zeroAt b 2 2 && fieldAt b 4 4 = x.gangId && g.gen > x.gangGen &&
  2 ≤ fieldAt b 24 4 && fieldAt b 24 4 ≤ 192 && zeroAt b 28 4 && g.members.length = fieldAt b 24 4 && g.members.contains s.pkg

/-- An accepted record: it is held pending, LAUNCH closes the gate, and the member arrives, for RESUME once it is ready (R381,
R382). A record still pending is superseded. -/
def State.gangAccept (s : State) (x : Context) (r : Request) : State :=
  let g := gangOf (s.hostTake r.arg0.toNat 64)
  let s1 := s.putCtx { x with gangPending := some g, gangTaken := false, gangGen := g.gen, gangMembers := g.members,
                              gangOpen := if g.kind = 1 then false else x.gangOpen,
                              gangArrived := x.gangArrived.filter (fun a => a / 256 ≥ g.gen) }
  let s2 := if g.kind = 3 then s1.resumeStart x.id else s1.gangArrive x.id
  s2.hostComplete r.compl.toNat 1 0 0

/-- The states a request is allowed in (R363). -/
def allowedIn (code : Nat) (st : CtxSt) : Bool :=
  if code = 1 then false
  else if code = 2 || code = 5 || code = 6 || code = 7 then true
  else if code = 3 || code = 10 then st = .running
  else if code = 4 then st = .saved
  else if code = 8 then st = .saved || st = .faulted
  else if code = 9 then st = .running || st = .saved
  else st = .faulted

/-- Reason 2 of R459: arguments, and the records they name. -/
def State.argsBad (s : State) (c code : Nat) (r : Request) : Bool :=
  let rest := r.arg1 = 0 && r.arg2 = 0
  !r.rsvZero || code = 0 || code > 11 ||
  !(if code = 1 then rest && s.recordOk c (s.hostTake r.arg0.toNat 256)
    else if code = 5 then queueArgsOk r
    else if code = 6 || code = 7 then rest && r.arg0.toNat < 4096
    else if code = 8 then true
    else if code = 9 then rest && (match s.getCtx c with
      | some x => s.gangOk x (s.hostTake r.arg0.toNat 64)
      | none => true)
    else if code = 10 then rest && r.arg0.toNat < 2 ^ 17
    else r.arg0 = 0 && rest)

/-- Reason 1 of R459: the context's state, or the queue's. -/
def State.stateBad (s : State) (c code : Nat) (r : Request) : Bool :=
  match s.getCtx c with
  | none => code ≠ 1
  | some x =>
    !allowedIn code x.st ||
    (code = 5 && (s.getQueue (r.arg0.toNat % 4096)).isSome) ||
    (code = 6 && (s.ownQueue x r).isNone) ||
    (code = 7 && ((s.ownQueue x r).map Queue.st) ≠ some .error) ||
    (code = 9 && (let k := fieldAt (s.hostTake r.arg0.toNat 64) 0 1
      if k = 3 then x.st ≠ .saved else x.st ≠ .running))

/-- Why a request is refused, if it is. -/
def State.refuses (s : State) (c code : Nat) (r : Request) : Option Nat :=
  if s.argsBad c code r then some 2
  else if s.stateBad c code r then some 1
  else if code = 3 && (s.getCtx c).any (fun x => x.gang && x.gangMembers.length > 1) then some 9
  else none

/-- A request takes effect, or is refused. -/
def State.request (s : State) (c code : Nat) (r : Request) : State :=
  match s.refuses c code r with
  | some why => s.hostComplete r.compl.toNat 3 why 0
  | none =>
    if code = 1 then s.ctxCreate c r
    else
      match s.getCtx c with
      | none => s
      | some x =>
        let opened := { x with openReqs := x.openReqs ++ [(code, r.compl.toNat)] }
        if code = 2 then s.ctxDestroy x r
        else if code = 3 then (s.putCtx opened).startPolite c false
        else if code = 4 then (s.putCtx opened).resumeStart c
        else if code = 5 then s.qCreate x r
        else if code = 6 then { s with queues := s.queues.filter (fun (q : Queue) => q.id ≠ r.arg0.toNat) }.hostComplete r.compl.toNat 1 0 0
        else if code = 7 then (s.queueReset r.arg0.toNat).hostComplete r.compl.toNat 1 0 0
        else if code = 8 then (s.hostPut r.arg0.toNat (x.saveBytes r.arg1.toNat r.arg2.toNat)).hostComplete r.compl.toNat 1 0 0
        else if code = 9 then s.gangAccept x r
        else if code = 10 then s.dbgCont x r
        else s.rearm x r

/-- A RESUME that meets POLITE or CUTTING waits for SAVED (R375); any request waits for a DESTROY before it (R459). -/
def State.mustWait (s : State) (c code : Nat) (r : Request) : Bool :=
  (s.getCtx c).any (fun x => x.destroying.isSome) || code = 4 && !s.argsBad c code r && (s.getCtx c).any (fun x => x.st = .polite || x.st = .cutting)

/-- Requests in the order of their arrival: one that waits holds up those after it. Of a discarded or destroyed context, a RESUME that
waited is overtaken (R459 reason 3). -/
def requestGo (c : Nat) : List (Nat × Request) → State → State
  | [], s => s
  | (code, r) :: rest, s =>
    if s.mustWait c code r then
      match s.getCtx c with
      | some x => s.putCtx { x with waiting := (code, r) :: rest }
      | none => s
    else requestGo c rest (s.request c code r)

/-- A request submitted by the host. -/
def State.submit (s : State) (code c : Nat) (r : Request) : State :=
  match s.getCtx c with
  | some x => if x.waiting ≠ [] then s.putCtx { x with waiting := x.waiting ++ [(code, r)] } else requestGo c [(code, r)] s
  | none => if c < 256 then requestGo c [(code, r)] s else s

/-- Waiting requests go on when the context has left POLITE and CUTTING, or when its destruction is complete. -/
def State.settleRequests (s : State) (c : Nat) : State :=
  match s.getCtx c with
  | none => s
  | some x =>
    match x.destroying, x.waiting with
    | some a, l => if s.copiesEnding c then s else requestGo c l ((s.ctxErase c).hostComplete a 1 0 0)
    | none, [] => s
    | none, (code, r) :: rest =>
      if x.st = .polite || x.st = .cutting then s
      else
        let s1 := s.putCtx { x with waiting := [] }
        if x.st = .faulted && code = 4 then requestGo c rest (s1.hostComplete r.compl.toNat 3 3 0)
        else requestGo c ((code, r) :: rest) s1

/-- A record whose instant is taken and whose barrier is complete is done with. -/
def State.settleGang (s : State) (c : Nat) : State :=
  match s.getCtx c with
  | none => s
  | some x =>
    match x.gangPending with
    | some g => if x.gangTaken && x.barrierDone g then s.putCtx { x with gangPending := none } else s
    | none => s

/-- What follows in a context without any further event: the stop of the press, withdrawals that waited, announcements and the end of a
pre-emption, the arrival of a resume, requests that waited. -/
def State.settleCtx (s : State) (c : Nat) : State :=
  (((((s.stopPress c).settleWithdrawals c).settleSave c).resumeReady c).settleGang c).settleRequests c

/-! The requests as the host makes them. -/

def execCtxCreate (c : Nat) (r : Request) (s : State) : Host.Outcome State Fault Refusal :=
  .next (s.hostAct (.ctxCreate c r) (fun s => s.submit 1 c r))
def execCtxDestroy (c : Nat) (r : Request) (s : State) : Host.Outcome State Fault Refusal :=
  .next (s.hostAct (.ctxDestroy c r) (fun s => s.submit 2 c r))
def execCtxPreempt (c : Nat) (r : Request) (s : State) : Host.Outcome State Fault Refusal :=
  .next (s.hostAct (.ctxPreempt c r) (fun s => s.submit 3 c r))
def execCtxResume (c : Nat) (r : Request) (s : State) : Host.Outcome State Fault Refusal :=
  .next (s.hostAct (.ctxResume c r) (fun s => s.submit 4 c r))
def execQcreate (c : Nat) (r : Request) (s : State) : Host.Outcome State Fault Refusal :=
  .next (s.hostAct (.qcreate c r) (fun s => s.submit 5 c r))
def execQdestroy (c : Nat) (r : Request) (s : State) : Host.Outcome State Fault Refusal :=
  .next (s.hostAct (.qdestroy c r) (fun s => s.submit 6 c r))
def execQreset (c : Nat) (r : Request) (s : State) : Host.Outcome State Fault Refusal :=
  .next (s.hostAct (.qreset c r) (fun s => s.submit 7 c r))
def execReadsave (c : Nat) (r : Request) (s : State) : Host.Outcome State Fault Refusal :=
  .next (s.hostAct (.readsave c r) (fun s => s.submit 8 c r))
def execGangrec (c : Nat) (r : Request) (s : State) : Host.Outcome State Fault Refusal :=
  .next (s.hostAct (.gangrec c r) (fun s => s.submit 9 c r))
def execDbgcont (c : Nat) (r : Request) (s : State) : Host.Outcome State Fault Refusal :=
  .next (s.hostAct (.dbgcont c r) (fun s => s.submit 10 c r))
def execRearm (c : Nat) (r : Request) (s : State) : Host.Outcome State Fault Refusal :=
  .next (s.hostAct (.rearm c r) (fun s => s.submit 11 c r))

def execPoliteWindowExpiry (c : Nat) (s : State) : Host.Outcome State Fault Refusal := .next ((s.cutBegins c).settleCtx c)

def execWorkgroupSave (u : Nat) (s : State) : Host.Outcome State Fault Refusal :=
  .next (match s.getWg u with
    | some w => (s.saveWg u).settleCtx w.ctx
    | none => s)

def execCutBackTimeout (u i : Nat) (s : State) : Host.Outcome State Fault Refusal := .next (s.cutBack u i)

end Sys2Proof.Machine
end

