-- ==== Sys2Proof/Machine/Gang.lean ====
section
/-! DEFINITION. The clock (R377, R378) and the instants, grace windows and aborts of timed gangs (R382 to R387). -/
namespace Sys2Proof.Machine

/-! The clock. -/

/-- A PTP exchange has measured the clock's offset from the grandmaster: the clock is slewed by it from now on. -/
def execPtpMessage (offset : Int) (s : State) : Host.Outcome State Fault Refusal := .next { s with slew := offset }

/-- Lock achieved: LOCKED at once. -/
def execPtpLockAchieved (s : State) : Host.Outcome State Fault Refusal := .next { s with clockMode := 0 }

/-- Lock lost: HOLDOVER begins. -/
def execPtpLockLost (s : State) : Host.Outcome State Fault Refusal :=
  .next (if s.clockMode = 0 then { s with clockMode := 1, holdSince := s.tai, slew := 0 } else s)

/-- HOLDOVER past 1 s: BARRIER. -/
def execHoldoverExpiry (s : State) : Host.Outcome State Fault Refusal :=
  .next (if s.clockMode = 1 ∧ s.tai ≥ s.holdSince + 10 ^ 9 then { s with clockMode := 2 } else s)

/-- Time passes by a number of ns on an undisciplined clock: at most 100 ppm of it is added or withheld, 1 ns in each 10 µs. -/
def State.taiPass (s : State) (n : Nat) : State :=
  let most : Int := ((s.tai + n) / 10000 - s.tai / 10000 : Nat)
  let d : Int := max (-most) (min most s.slew)
  { s with tai := ((s.tai : Int) + n + d).toNat, slew := s.slew - d }

/-- Some cc pass: the package's clocks run on one oscillator of 2.25 GHz, 4 ns in 9 cc (R8, R16). -/
def State.pass (s : State) (n : Nat) : State := ({ s with cc := s.cc + n } : State).taiPass ((s.cc + n) * 4 / 9 - s.cc * 4 / 9)

/-! Instants (R382 to R386). -/

/-- The instant of a record has come. -/
def State.instantDue (s : State) (x : Context) (g : GangRec) : Bool := s.tai ≥ g.time && (s.clockMode ≤ 1 || x.barrierDone g)

/-- A member takes the instant of its pending record. -/
def State.takeInstant (s : State) (c : Nat) : State :=
  match s.getCtx c with
  | none => s
  | some x =>
    match x.gangPending with
    | none => s
    | some g =>
      if x.gangTaken || !s.instantDue x g then s
      else if g.kind = 1 then { s.putCtx { x with gangTaken := true, gangOpen := true } with passDue := true }
      else if g.kind = 3 then { s.putCtx { x with gangTaken := true } with passDue := true }
      else if x.st = .running || (x.st = .polite && x.firmwarePreempt) then
        (s.putCtx { x with gangTaken := true, gangQuiet := true, gangFrozen := false, announced := [] }).startPolite c false
      else s.putCtx { x with gangTaken := true }

def execGangInstant (c : Nat) (s : State) : Host.Outcome State Fault Refusal := .next ((s.takeInstant c).settleCtx c)

/-! Aborts (R387). -/

/-- The fault of an abort that names some members as missing. -/
def State.abortFault (s : State) (c : Nat) (missing : List Nat) (received : Bool) : State :=
  match s.getCtx c with
  | none => s
  | some x =>
    if x.st = .faulted then s
    else
      let cls := if missing.contains s.pkg then clsStraggler else clsGang
      let code := ((missing.filter (fun p => p < 64)).eraseDups.map (fun p => 2 ^ p)).foldl (· + ·) 0
      let r := ctxRecord s { mkFault cls 0 0 with gang := received, code := code }
      let s1 := if x.st = .saved then s.putCtx { x with st := .resuming } else s
      s1.discard c { r with flags := r.flags + (if missing.any (fun p => p ≥ 64) then 8 else 0) } missing

/-- The grace window of a pending record is over with its barrier open. -/
def State.graceOver (s : State) (x : Context) (g : GangRec) : Bool :=
  !x.barrierDone g && (if s.clockMode ≤ 1 then s.tai ≥ g.time + g.grace
    else x.arrivedAt g.gen s.pkg && s.tai ≥ x.gangArrivedAt + 10 ^ 8)

def State.graceEnd (s : State) (c : Nat) : State :=
  match s.getCtx c with
  | none => s
  | some x =>
    match x.gangPending with
    | none => s
    | some g =>
      if !s.graceOver x g then s
      else
        let missing := g.members.filter (fun p => !x.arrivedAt g.gen p)
        (s.tellAll (.gangAbort x.gangId g.gen missing) (g.members.filter (fun p => p ≠ s.pkg))).abortFault c missing false

def execGangGraceExpiry (c : Nat) (s : State) : Host.Outcome State Fault Refusal := .next (s.graceEnd c)

/-- `gangAbortReceived`: a later abort finds the context FAULTED and does nothing. -/
def execGangAbortReceived (c gangid _gen : Nat) (missing : List Nat) (s : State) : Host.Outcome State Fault Refusal :=
  .next (match s.getCtx c with
    | some x => if x.gang && x.gangId = gangid then s.abortFault c missing true else s
    | none => s)

end Sys2Proof.Machine
end

