-- ==== Sys2Proof/Machine/Page.lean ====
section
/-! DEFINITION. Pages (R400 to R409): demand fills, the page operations of the host, migration, and walks. -/
namespace Sys2Proof.Machine

/-! Bytes of frames. -/

/-- The listed bytes of a range, moved to another base. -/
def movedBytes (m : SparseB) (from_ n to_ : Nat) : List (Nat × Byte) :=
  (m.filter (fun b => from_ ≤ b.1 && b.1 < from_ + n)).map (fun b => (to_ + (b.1 - from_), b.2))

/-- A sparse memory without a range. -/
def clearRange (m : SparseB) (lo n : Nat) : SparseB := m.filter (fun b => b.1 < lo || lo + n ≤ b.1)

/-- Sets listed bytes. -/
def putListed (m : SparseB) : List (Nat × Byte) → SparseB
  | [] => m
  | b :: r => putListed (spSet 0 m b.1 b.2) r

/-! After a page has changed. -/

/-- Teams in REPLAY on a page are released, and waiting publications and page requests of it are looked at again (R334, R403). -/
def State.pageSettled (s : State) (c : Nat) (l : Leaf) : State :=
  let s1 := s.releaseReplay c (fun y => match y with
    | .page a => l.covers a
    | .lock _ => false)
  let s2 : State := { s1 with misses := s1.misses.filter (fun m => !(m.2.1 = c && l.covers (m.2.2 * 2 ^ 18))), passDue := true }
  ((s2.queues.filter (fun (q : Queue) => q.ctx = c && q.publish.isSome)).map Queue.id).foldl (fun s q => s.publish q) s2

/-- The other members of a context's gang that can be reached. -/
def State.replicas (s : State) (x : Context) : List Nat := if x.gang then (s.gangPeers x).filter (fun p => s.reachable p) else []

/-- The home of a page writes its leaf on every replica (R403, R407, R408). -/
def State.tellLeaf (s : State) (c va frame home : Nat) : State :=
  match s.getCtx c with
  | some x => s.tellAll (.pageLeaf x.gangId va frame home) (s.replicas x)
  | none => s

/-! Demand fills (R403). -/

/-- Completion records that wait for a page whose fill fails are lost (R342). -/
def State.recordsLost (s : State) (c : Nat) (l : Leaf) : State :=
  (s.nodes.filter (fun n => n.ctx = c && n.outcome.isSome && n.compl ≠ 0 && l.covers n.compl)).foldl (fun s n =>
    match s.getQueue n.queue with
    | some q => s.putQueue { q with lostC := true }
    | none => s) s

/-- The fault that a failed fill gives the context: that of a team waiting for the page, where one is. -/
def State.fillFails (s0 : State) (c : Nat) (l : Leaf) (va sub : Nat) : State :=
  let s := s0.recordsLost c l
  let waits := fun (t : Team) => (match t.st with
    | .replay (.page a) => l.covers a
    | _ => false)
  match findBy (fun (w : Workgroup) => w.ctx = c && w.teams.any waits) s.wgs with
  | some w =>
    match findBy waits w.teams with
    | some t => s.teamFatal w t t.fmask { mkFault clsPage sub va with ppc := (t.leadPc).getD 0 }
    | none => s.fatal c (ctxRecord s (mkFault clsPage sub va))
  | none => s.fatal c (ctxRecord s (mkFault clsPage sub va))

/-- The page is filled at its home here. -/
def State.fillHere (s : State) (c : Nat) (x : Context) (l : Leaf) (va : Nat) : State :=
  let n := pageBytes l.sz
  match s.takeFrame c l.sz with
  | none => s.fillFails c l va 3
  | some (f, s1) =>
    let slot := l.slot.getD 0
    if !l.zf && (x.bkBase = 0 || l.slot.isNone || (slot + 1) * n > x.bkSize) then (s1.giveFrame c f l.sz).fillFails c l va 4
    else
      let s2 := s1.frameZero f l.sz
      let s3 : State := if l.zf then s2 else { s2 with dram := putListed s2.dram (movedBytes s2.hostMem (x.bkBase + slot * n) n f) }
      ((s3.putLeaf c { l with res := true, d := false, frame := f }).pageSettled c l).tellLeaf c l.va f s.pkg

/-- The page is filled at its home elsewhere: the frame there, and whether the fill fails, are open here. -/
def State.fillThere (s : State) (c : Nat) (l : Leaf) (va : Nat) : State :=
  let y := s.freeValue
  let how := y.1.toNat / 2 ^ 62
  if how = 1 then y.2.fillFails c l va 3
  else if how = 2 && !l.zf then y.2.fillFails c l va 4
  else (y.2.putLeaf c { l with res := true, d := false, frame := y.1.toNat % 2 ^ 42 / pageBytes l.sz * pageBytes l.sz }).pageSettled c l

/-- `demandFill`. -/
def execDemandFill (c va : Nat) (s : State) : Host.Outcome State Fault Refusal :=
  .next (match s.getCtx c with
    | none => s
    | some x =>
      match x.walk va with
      | none => s
      | some l =>
        if l.res || l.home = 255 then s
        else if l.home = s.pkg then s.fillHere c x l va
        else if s.reachable l.home then s.fillThere c l va else s)

/-! The leaf as QUERY answers it (R398). -/

def Leaf.word (l : Leaf) : Nat :=
  1 + 2 + 4 * l.sz + 2 ^ 4 * b2n l.w + 2 ^ 5 * b2n l.x + 2 ^ 6 * b2n l.res + 2 ^ 7 * b2n l.mig + 2 ^ 8 * b2n l.mir + 2 ^ 9 * b2n l.conf +
  2 ^ 10 * b2n l.d + 2 ^ 11 * b2n (!l.res && l.zf) +
  2 ^ 18 * (if l.res then l.frame / 2 ^ 18 % 2 ^ 30 else if l.zf then 0 else l.slot.getD 0 % 2 ^ 30) + 2 ^ 48 * (l.home % 256) +
  2 ^ 56 * (if l.mir then l.peer % 256 else 0)

/-! Checks of a block (R405, R406). -/

def attrBit (b : PageBlock) (i : Nat) : Bool := b.attr.getLsbD i

/-- Reasons 1 and 2. -/
def blockReason (op : Nat) (b : PageBlock) : Nat :=
  let n := pageBytes b.sz.toNat
  if op = 0 || op > 6 || !b.rsvZero || b.attr.toNat ≥ 64 || b.sz.toNat > 2 || b.npages.toNat = 0 || b.npages.toNat > 65536 || b.va.toNat % n ≠ 0 ||
     b.va.toNat ≥ 2 ^ 57 || b.va.toNat + b.npages.toNat * n > 2 ^ 57 || (op = 1 && attrBit b 5 && b.frame.toNat % n ≠ 0) then 1
  else if op = 1 && ((b.home = 255 && (attrBit b 3 || attrBit b 2)) || (attrBit b 2 && b.peer = b.home)) then 2
  else 0

/-- The leaf that MAP writes for page `k` of a block. -/
def mapLeaf (b : PageBlock) (k : Nat) : Leaf :=
  let n := pageBytes b.sz.toNat
  let res := attrBit b 5
  let zf := attrBit b 4 && !res
  let slot := b.frame.toNat + k
  { va := b.va.toNat + k * n, sz := b.sz.toNat, w := attrBit b 0, x := attrBit b 1, res := res, mig := false, mir := attrBit b 2,
    conf := attrBit b 3, d := false, zf := zf, frame := if res then b.frame.toNat + k * n else if zf then 0 else slot,
    home := b.home.toNat, peer := if attrBit b 2 then b.peer.toNat else 0, slot := if res || zf then none else some slot,
    hostFrame := res, heldStores := [] }

/-- The leaf that maps a page of exactly an address and size. -/
def Context.exact (x : Context) (va sz : Nat) : Option Leaf := findBy (fun (l : Leaf) => l.va = va && l.sz = sz) x.pages

/-- A MAP with RES names a frame of this package in a reserved region: those memories lie outside every context's space (R17, R458). The manual
names no reason for the refusal (DESIGN CHOICE, log 120). -/
def State.mapsReserved (s : State) (op : Nat) (b : PageBlock) : Bool :=
  op = 1 && attrBit b 5 && (b.home.toNat = s.pkg || (attrBit b 2 && b.peer.toNat = s.pkg)) &&
  s.regions.any (fun r => r.1 < b.frame.toNat + b.npages.toNat * pageBytes b.sz.toNat && b.frame.toNat < r.1 + r.2)

/-- No byte of a page is mapped; the doorbell page counts as mapped. -/
def Context.unmapped (x : Context) (va n : Nat) : Bool :=
  (va + n ≤ x.doorbell || x.doorbell + 2 ^ 18 ≤ va) && x.pages.all (fun l => va + n ≤ l.va || l.va + pageBytes l.sz ≤ va)

/-- EVICT of a page: its bytes go to the slot when D is set, its frame to the pool (R406). -/
def State.evict (s : State) (c : Nat) (x : Context) (l : Leaf) : State :=
  let n := pageBytes l.sz
  let slot := l.slot.getD 0
  let at_ := x.bkBase + slot * n
  let s1 := if l.home = s.pkg then s.frameFlush l.frame l.sz else s
  let s2 : State := if l.d && l.home = s.pkg then
      { s1 with hostMem := putListed (clearRange s1.hostMem at_ n) (movedBytes s1.dram l.frame n at_) }
    else s1
  (s2.putLeaf c { l with res := false, zf := false, d := false, frame := slot }).dropFrame c l

/-- What an operation other than MIGRATE and QUERY does to page `k`: a reason, or the state after. -/
def State.pageOne (s : State) (c : Nat) (x : Context) (op : Nat) (b : PageBlock) (k : Nat) : Nat ⊕ State :=
  let n := pageBytes b.sz.toNat
  let va := b.va.toNat + k * n
  if op = 1 then
    (if x.unmapped va n then
       (match s.mapPage c (mapLeaf b k) with
        | some s1 => .inr s1
        | none => .inl 4)
     else .inl 3)
  else
    match x.exact va b.sz.toNat with
    | none => .inl 3
    | some l =>
      if op = 2 then .inr ((s.unmapLeaf c l).pageSettled c l)
      else if op = 3 then .inr (s.putLeaf c { l with w := attrBit b 0, x := attrBit b 1 })
      else if !l.res || l.mig then .inl 3
      else if l.mir then .inl 5
      else if x.bkBase = 0 || l.slot.isNone then .inl 3
      else .inr (s.evict c x l)

/-- An operation on pages `k` and following: the reason of the first that fails, or 0, with the pages done. -/
def pagesGo (c op : Nat) (b : PageBlock) : Nat → Nat → State → State × Nat × Nat
  | 0, k, s => (s, 0, k)
  | m + 1, k, s =>
    match s.getCtx c with
    | none => (s, 0, k)
    | some x =>
      match s.pageOne c x op b k with
      | .inl why => (s, why, k)
      | .inr s1 => pagesGo c op b m (k + 1) s1

/-- The completion record. -/
def State.pageDone (s : State) (b : PageBlock) (why v : Nat) : State :=
  s.hostComplete b.compl.toNat (if why = 0 then 1 else 3) why v

/-! Migration (R408). -/

/-- Steps 1 and 2 for the next page of a MIGRATE: MIG is set, or the reason for a refusal. -/
def State.migStart (s : State) (c : Nat) (x : Context) (b : PageBlock) (k : Nat) : Nat ⊕ State :=
  match x.exact (b.va.toNat + k * pageBytes b.sz.toNat) b.sz.toNat with
  | none => .inl 3
  | some l =>
    if !l.res || l.mig then .inl 3
    else if l.mir then .inl 5
    else if l.home = 255 || b.home = 255 then .inl 3
    else if b.home.toNat = s.pkg && x.freeFrames l.sz = [] then .inl 4
    else .inr (s.putLeaf c { l with mig := true })

/-- Forwards held stores to a new home. -/
def forwardHeld (c : Nat) (conf : Bool) (home : Nat) : List (Nat × List Byte) → State → State
  | [], s => s
  | (va, bs) :: r, s => forwardHeld c conf home r (s.sendWrites c conf 0 0 0 va bs [home])

/-- Applies held stores to a frame here. -/
def applyHeld (base frame : Nat) : List (Nat × List Byte) → SparseB → SparseB
  | [], m => m
  | (va, bs) :: r, m => applyHeld base frame r (spPut 0 m (frame + (va - base)) bs)

/-- Steps 3 to 6 for a page: its bytes stand in the new frame, the stores held go after them. -/
def State.migEnd (s : State) (c : Nat) (l : Leaf) (home : Nat) : State :=
  let n := pageBytes l.sz
  let s0 := if l.home = s.pkg then s.frameFlush l.frame l.sz else s
  let done := fun (s : State) (f : Nat) =>
    ((s.putLeaf c { l with mig := false, home := home, frame := f, heldStores := [], hostFrame := false,
                           d := l.d || !l.heldStores.isEmpty }).dropFrame c l).pageSettled c l
  if home = s0.pkg then
    match s0.takeFrame c l.sz with
    | none => s0
    | some (f, s1) =>
      let bytes := if l.home = s1.pkg then movedBytes s1.dram l.frame n f
                   else (List.range n).map (fun i => (f + i, Config.foreignByte s1.free i))
      let s2 := s1.frameZero f l.sz
      (done { s2 with dram := applyHeld l.va f l.heldStores (putListed s2.dram bytes), free := s2.free + 1 } f).tellLeaf c l.va f home
  else
    let y := s0.freeValue
    done (forwardHeld c l.conf home l.heldStores y.2) (y.1.toNat % 2 ^ 42 / n * n)

/-- The new home's pool has no frame for the page (R408 step 2): in another package's pool that is open, and then told by the free value
`refused`. -/
def State.migNoFrame (s : State) (c : Nat) (l : Leaf) (home : Nat) (refused : Bool) : Bool :=
  if home = s.pkg then (match s.getCtx c with
    | some x => x.freeFrames l.sz = []
    | none => true)
  else refused

/-- The stores held for a page are performed in its frame here; no core holds an old copy of its bytes. -/
def State.heldHere (s : State) (l : Leaf) : State :=
  let s1 := s.frameFlush l.frame l.sz
  { s1 with dram := applyHeld l.va l.frame l.heldStores s1.dram,
            cores := s1.cores.map (fun k => { k with l1 := k.l1.filter (fun b => b.addr < l.frame || l.frame + pageBytes l.sz ≤ b.addr) }) }

/-- Step 2 without a frame: MIG is cleared, the stores held are performed where the page stays, and the page is refused with reason 4. -/
def State.migBack (s : State) (c : Nat) (l : Leaf) : State :=
  ((if l.home = s.pkg then s.heldHere l else forwardHeld c l.conf l.home l.heldStores s).putLeaf c { l with mig := false, heldStores := [], d := l.d || !l.heldStores.isEmpty }).pageSettled c l

/-- Whether the stores held can be forwarded now. -/
def State.migOpen (s : State) (l : Leaf) (home : Nat) : Bool :=
  home = s.pkg || l.heldStores.isEmpty || l.heldStores.all (fun h => s.sendBar home l.conf h.2.length = .open_)

/-! Operations in arrival order (R404). -/

/-- The first operation has been applied here. One that was submitted here is applied on every other member before it completes; one that
another member has passed on is answered (R399, R404). -/
def State.jobEnd (s : State) (c : Nat) (x : Context) (j : PageJob) (why v : Nat) : State :=
  let drop := fun (s : State) => (match s.getCtx c with
    | some y => s.putCtx { y with pageOps := y.pageOps.drop 1 }
    | none => s)
  match j.from_ with
  | some (p, k) => (drop s).tellAll (.pageOpDone x.gangId k why) [p]
  | none =>
    let ps := if j.op = 6 || blockReason j.op j.b ≠ 0 || s.mapsReserved j.op j.b then [] else s.replicas x
    match ps, s.getCtx c with
    | _ :: _, some y =>
      (s.putCtx { y with pageOps := { j with result := some (why, v), waits := ps } :: y.pageOps.drop 1 }).tellAll (.pageOp x.gangId j.id j.op j.b) ps
    | _, _ => (drop s).pageDone j.b why v

/-- Starts the first operation, or takes its MIGRATE on by a page. -/
def State.jobStart (s : State) (c : Nat) (x : Context) (j : PageJob) : State :=
  let rest := x.pageOps.drop 1
  let why := if blockReason j.op j.b ≠ 0 then blockReason j.op j.b else if s.mapsReserved j.op j.b then 1 else 0
  if why ≠ 0 then s.jobEnd c x j why 0
  else if j.op = 6 then s.jobEnd c x j 0 (((x.walk j.b.va.toNat).map Leaf.word).getD 0)
  else if j.op ≠ 5 then
    let y := pagesGo c j.op j.b j.b.npages.toNat 0 s
    y.1.jobEnd c x j y.2.1 y.2.2
  else if j.done ≥ j.b.npages.toNat then s.jobEnd c x j 0 j.done
  else
    match s.migStart c x j.b j.done with
    | .inl w => s.jobEnd c x j w j.done
    | .inr s1 =>
      match s1.getCtx c with
      | some y => s1.putCtx { y with pageOps := { j with moving := true } :: rest }
      | none => s1

/-- Starts operations until one is a page in motion, or waits for other members. -/
def jobsGo (c : Nat) : Nat → State → State
  | 0, s => s
  | k + 1, s =>
    match s.getCtx c with
    | none => s
    | some x =>
      match x.pageOps with
      | [] => s
      | j :: _ => if j.moving || j.result.isSome then s else jobsGo c k (s.jobStart c x j)

/-- The next page of a MIGRATE is done with. -/
def State.pageMoved (s : State) (c : Nat) (j : PageJob) (rest : List PageJob) : State :=
  match s.getCtx c with
  | none => s
  | some z => jobsGo c (rest.length + 2) (s.putCtx { z with pageOps := { j with done := j.done + 1, moving := false } :: rest })

/-- The page in motion arrives: when, is open. An operation that every member has applied completes. -/
def State.settlePages (s : State) (c : Nat) : State :=
  match s.getCtx c with
  | none => s
  | some x =>
    match x.pageOps with
    | [] => s
    | j :: rest =>
      match j.result with
      | some (why, v) =>
        if j.waits.any (fun p => s.reachable p) then s
        else jobsGo c (rest.length + 1) ((s.putCtx { x with pageOps := rest }).pageDone j.b why v)
      | none =>
        if !j.moving then s
        else
          match x.exact (j.b.va.toNat + j.done * pageBytes j.b.sz.toNat) j.b.sz.toNat with
          | none => s
          | some l =>
            if !l.mig then s.pageMoved c j rest
            else
              let y := s.freeValue
              if !(y.1.getLsbD 0 && s.migOpen l j.b.home.toNat && s.migOpen l l.home) then y.2
              else if y.2.migNoFrame c l j.b.home.toNat (y.1.getLsbD 1) then
                let s1 := y.2.migBack c l
                match s1.getCtx c with
                | some z => jobsGo c (rest.length + 2) (s1.jobEnd c z { j with moving := false } 4 j.done)
                | none => s1
              else (y.2.migEnd c l j.b.home.toNat).pageMoved c j rest

/-- A page operation joins those of its context. -/
def State.pageJob (s : State) (op c : Nat) (b : PageBlock) (from_ : Option (Nat × Nat)) : State :=
  match s.getCtx c with
  | none => s
  | some x =>
    jobsGo c (x.pageOps.length + 1) (({ s with nextId := s.nextId + 1 } : State).putCtx { x with
      pageOps := x.pageOps ++ [{ id := s.nextId, op := op, b := b, done := 0, moving := false, from_ := from_, result := none, waits := [] }] })

/-- A page operation submitted by the host. -/
def State.pageSubmit (s : State) (op c : Nat) (b : PageBlock) : State := s.pageJob op c b none

/-- Contexts of a gang. -/
def State.gangCtxs (s : State) (gangid : Nat) : List Context := s.contexts.filter (fun x => x.gang && x.gangId = gangid)

/-- A page operation that another member passes on (R404). -/
def State.pageOpIn (s : State) (src gangid id op : Nat) (b : PageBlock) : State :=
  (s.gangCtxs gangid).foldl (fun s x => s.pageJob op x.id b (some (src, id))) s

/-- Another member has applied an operation of this one. -/
def State.pageOpDoneIn (s : State) (src gangid id why : Nat) : State :=
  { s with contexts := s.contexts.map (fun x => if x.gang && x.gangId = gangid then
      { x with pageOps := x.pageOps.map (fun j => if j.id = id && j.from_.isNone then
          { j with waits := j.waits.filter (fun p => p ≠ src), result := j.result.map (fun r => if r.1 = 0 then (why, r.2) else r) } else j) } else x) }

/-- A page's home has filled it, or taken it over: the leaf here follows, and stores held for the page go there. -/
def State.pageLeafIn (s : State) (gangid va frame home : Nat) : State :=
  (s.gangCtxs gangid).foldl (fun s x =>
    match (s.getCtx x.id).bind (fun y => y.walk va) with
    | none => s
    | some l =>
      if l.va ≠ va || home = s.pkg then s
      else
        ((((forwardHeld x.id l.conf home l.heldStores s).putLeaf x.id
          { l with res := true, mig := false, d := l.mig && l.d, frame := frame, home := home, heldStores := [] }).dropFrame x.id
          { l with res := l.res && l.mig })).pageSettled x.id l) s

def execPageMap (c : Nat) (b : PageBlock) (s : State) : Host.Outcome State Fault Refusal :=
  .next (s.hostAct (.pageMap c b) (fun s => s.pageSubmit 1 c b))
def execPageUnmap (c : Nat) (b : PageBlock) (s : State) : Host.Outcome State Fault Refusal :=
  .next (s.hostAct (.pageUnmap c b) (fun s => s.pageSubmit 2 c b))
def execPageProt (c : Nat) (b : PageBlock) (s : State) : Host.Outcome State Fault Refusal :=
  .next (s.hostAct (.pageProt c b) (fun s => s.pageSubmit 3 c b))
def execPageEvict (c : Nat) (b : PageBlock) (s : State) : Host.Outcome State Fault Refusal :=
  .next (s.hostAct (.pageEvict c b) (fun s => s.pageSubmit 4 c b))
def execPageMigrate (c : Nat) (b : PageBlock) (s : State) : Host.Outcome State Fault Refusal :=
  .next (s.hostAct (.pageMigrate c b) (fun s => s.pageSubmit 5 c b))
def execPageQuery (c : Nat) (b : PageBlock) (s : State) : Host.Outcome State Fault Refusal :=
  .next (s.hostAct (.pageQuery c b) (fun s => s.pageSubmit 6 c b))

/-! Walks (R402). -/

/-- `tlbMissWalk`: the walk's result fills both TLBs and goes to every merged requester; a fault is never cached. -/
def execTlbMissWalk (c core va : Nat) (s : State) : Host.Outcome State Fault Refusal :=
  .next (match (s.getCtx c).bind (fun x => x.walk va) with
    | none => { s with misses := s.misses.filter (fun m => m ≠ (dieOf core, c, va / 2 ^ 18)) }
    | some l => if l.res && !l.mig then s.tlbFill c core va else s)

end Sys2Proof.Machine
end

