-- ==== Sys2Proof/Machine/Link.lean ====
section
/-! DEFINITION. The link (R410 to R430): packets as they arrive, the home's service of requests, replies and acknowledgements, the rotor
and the ports, unreachable packages and failover, and the fabric's keys. -/
namespace Sys2Proof.Machine

/-! The home's service of requests (R419 to R421, R424). -/

/-- Where a request to this home finds its byte. -/
inductive HomeAt where
  | here (l : Leaf) (pa : Nat)
  /-- it waits for its page -/
  | wait
  /-- the page has another home by now -/
  | moved (l : Leaf)
  | gone

def State.homeAt (s : State) (c va : Nat) : HomeAt :=
  match (s.getCtx c).bind (fun x => x.walk va) with
  | none => .gone
  | some l =>
    if l.mig then .wait
    else if !(l.home = s.pkg || (l.mir && l.peer = s.pkg)) then .moved l
    else if !l.res then .wait
    else .here l (pa42 (l.frame + (va - l.va)))

/-- An answer to a request: its RID, context, confidentiality and address. -/
def answerTo (p : Packet) : Packet := { blankPacket p.src p.ctx with conf := p.conf, aop := p.aop, ty := p.ty, rid := p.rid, addr := p.addr, mask := p.mask }

/-- An ACK (R414): it carries no data. -/
def ackTo (p : Packet) : Packet := { blankPacket p.src p.ctx with conf := p.conf, rid := p.rid, addr := p.addr }

/-- Values of a READ, one for each thread of the mask. The first thread's address is the packet's; the packet does not say which
element of the block another thread asks for. -/
def readVals (l : Leaf) (va n : Nat) : Nat → State → State × List Byte
  | 0, s => (s, [])
  | k + 1, s =>
    let y := s.freeValue
    let off := y.1.toNat % (64 / n) * n
    let x := readVals l va n k y.2
    (x.1, spTake 0 s.dram (pa42 (l.frame + (va / 64 * 64 + off - l.va))) n ++ x.2)

/-- Threads or bytes that a mask names. -/
def maskCount (m : BitVec 64) : Nat := (List.range 64).countP (fun i => m.getLsbD i)

/-- A range of DRAM has a unit with bad check bits. -/
def State.badDram (s : State) (pa n : Nat) : Bool := s.badRead (firmwareAgent 0) (.phys pa) n

/-- A context consumes bad data at its home (R217). -/
def State.homeUe (s : State) (c va : Nat) : State := s.fatal c (ctxRecord s { mkFault clsMemUe 0 va with imprecise := true })

/-- The bytes that a WRITE carries: (offset from the block, byte). Without a mask they run on from ADDR. -/
def writeBytes (p : Packet) : List (Nat × Byte) :=
  if p.mask = 0 then (List.range p.payload.length).map (fun k => (p.addr % 64 + k, p.payload.getD k 0))
  else
    let ks := (List.range 64).filter (fun k => p.mask.getLsbD k)
    (List.range ks.length).map (fun i => (ks.getD i 0, p.payload.getD i 0))

/-- A WRITE as it performs at a frame here. -/
def State.writeHome (s : State) (p : Packet) (l : Leaf) : State :=
  let bs := writeBytes p
  let base := l.frame + (p.addr / 64 * 64 - l.va)
  let touched := bs.map (fun b => pa42 (base + b.1))
  let whole := fun (u : Nat) => (List.range 32).all (fun i => touched.contains (32 * u + i))
  let bad := s.bad.any (fun u => match u with
    | .dram k => touched.any (fun a => a / 32 = k) && !whole k
    | _ => false)
  let s1 : State := { s with dram := putBytesAt base bs s.dram
                             bad := s.bad.filter (fun u => match u with
                               | .dram k => !whole k
                               | _ => true) }
  let s2 := s1.setDirty p.ctx p.addr
  if bad then s2.homeUe p.ctx p.addr else s2

/-- A request served at its home: the state after, and the answer's payload; none where it must wait. -/
inductive Served where
  | reply (s : State) (bs : List Byte)
  | ack (s : State)
  | quiet (s : State)
  | wait

/-- An ATOMIC of R421: the old value, and the packets of a mirrored page. -/
def State.atomHome (s : State) (p : Packet) (l : Leaf) (pa : Nat) : State × Nat :=
  let n := accessBytes p.ty
  let old := bytesNat (spTake 0 s.dram pa n)
  let new := (atomNew p.aop p.ty old (fieldAt p.payload 0 n) (fieldAt p.payload n n)).1
  let s1 := if s.badDram pa n then s.homeUe p.ctx p.addr else s
  ((({ s1 with dram := spPut 0 s1.dram pa (natBytes n new) } : State).healUnits (firmwareAgent p.ctx) (.phys pa) n).setDirty p.ctx (l.va + (p.addr - l.va)), old)

/-- Another package's operation is linked to an object of this home, or is linked no more (R300, R303). -/
def State.linkIn (s : State) (p : Packet) (on : Bool) (k : Nat) : State :=
  let b : BarLink := { peer := p.src, ctx := p.ctx, va := p.addr, op := k }
  let others := s.barLinks.filter (fun y => y ≠ b)
  { s with barLinks := if on then others ++ [b] else others }

/-- A READ or ATOMIC meets a page that is not at this home any more: the requester is told, and asks again where the page is by then (R408). -/
def State.notHere (s : State) (p : Packet) : State := s.tellAll (.requestMoved p.ctx (p.rid / 2 ^ 16 % 2 ^ 16)) [p.src]

/-- Serves a READ, WRITE or ATOMIC. The packet does not say whether an ATOMIC is an `atom` or a `red`: which answer goes out is
open. -/
def State.serve (s : State) (ty : PktType) (p : Packet) : Served :=
  match s.homeAt p.ctx p.addr with
  | .gone =>
    (match ty with
     | .write => .ack s
     | _ => .quiet (s.notHere p))
  | .wait => .wait
  | .moved l =>
    (match ty with
     | .write => .ack (s.sendWrites p.ctx l.conf 0 0 0 p.addr p.payload [l.home])
     | _ => .quiet (s.notHere p))
  | .here l pa =>
    match ty with
    | .read =>
      let n := accessBytes p.ty
      if s.badDram pa n then .quiet (s.homeUe p.ctx p.addr)
      else
        let x := readVals l p.addr n (maskCount p.mask - 1) s
        .reply x.1 (spTake 0 s.dram pa n ++ x.2)
    | .write => .ack (s.writeHome p l)
    | .atomic =>
      if p.aop = aopBar then
        let ev := BarEvent.ofBytes p.payload
        let x := s.objEvent p.ctx p.addr (.phys pa) (some l) ev
        match ev, x.2.sub with
        | .link on k, _ => .ack (s.linkIn p on k)
        | .wait ph, none =>
          if phaseDone x.2.phase ph then .reply x.1 x.2.bytes
          else .quiet { x.1 with barWaits := x.1.barWaits ++ [{ peer := p.src, rid := p.rid, ctx := p.ctx, va := p.addr, ph := ph, conf := p.conf }] }
        | _, _ => .reply (x.1.setDirty p.ctx p.addr) x.2.bytes
      else
        let n := accessBytes p.ty
        let x := s.atomHome p l pa
        let y := x.1.freeValue
        let others := l.dests s.pkg
        let send := fun (s : State) =>
          (match others with
           | [] => s
           | _ => ({ s with nextId := s.nextId + 1 } : State).sendWrites p.ctx l.conf 0 0 (ridOf 0 0 0 s.nextId) p.addr (spTake 0 s.dram pa n) others)
        if y.1.getLsbD 0 then .reply (send y.2) (natBytes n x.2) else .ack (send y.2)
    | _ => .quiet s

/-- A mirrored page's ATOMIC waits for the peer's ACK before its answer goes out (R424). -/
def State.mustMirror (s : State) (ty : PktType) (p : Packet) : Option Nat :=
  match ty, s.homeAt p.ctx p.addr with
  | .atomic, .here l _ => if p.aop = aopBar then none else (l.dests s.pkg).head?
  | _, _ => none

/-- Answers a request. -/
def State.answerNow (s : State) (ty : PktType) (p : Packet) (ans : PktType) (pkt : Packet) (after : State) : State :=
  match s.mustMirror ty p with
  | some d => { after with homeWaits := after.homeWaits ++ [{ req := s.nextId, peer := d, reply := { type := ans, p := pkt, sentAt := none,
                                                                                                        firstAt := s.tai } }] }
  | none => after.owe ans pkt

/-! `rpart` traffic (R434 to R437). -/

/-- Records, counts or histograms reach the operation of their round; none where it has not issued here. -/
def State.rpartIn (s : State) (p : Packet) : Option State :=
  let kind := fieldAt p.payload 0 4
  let round := fieldAt p.payload 4 4
  let bs := p.payload.drop 8
  if !((s.getCtx p.ctx).map (fun x => x.st.live || x.st = .saved)).getD false then some s
  else
  match findBy (fun (o : Op) => o.ctx = p.ctx && o.st = .busy && (o.rpart.map (fun b => rpRound b.block)) = some round) s.ops with
  | none => none
  | some o =>
    some (s.setRpart o.id (fun b =>
      if kind = 1 then { b with hist := addBytes p.src bs b.hist }
      else if kind = 2 then { b with cnts := addBytes p.src bs b.cnts }
      else { b with recs := addBytes p.src bs b.recs, recv := b.recv + (if rpRsz b.block = 0 then 0 else bs.length / rpRsz b.block) }))

/-- Takes a request on: served and answered, or none where it must wait. -/
def State.takeReq (s : State) (ty : PktType) (p : Packet) : Option State :=
  match ty with
  | .rpart => (s.rpartIn p).map (fun s1 => s1.owe .ack (ackTo p))
  | _ =>
    match s.serve ty p with
    | .wait => none
    | .quiet s1 => some s1
    | .reply s1 bs => some (s.answerNow ty p .reply { answerTo p with payload := bs } s1)
    | .ack s1 => some (s.answerNow ty p .ack (ackTo p) s1)

/-- A request that waits for its page to be filled asks firmware for it (R403). -/
def State.wantPage (s : State) (p : Packet) : State :=
  match (s.getCtx p.ctx).bind (fun x => x.walk p.addr) with
  | some l => if l.res then s else s.missAdd 0 p.ctx p.addr
  | none => s

/-- A request as it is delivered: it waits behind earlier ones of its package (R420). -/
def State.requestIn (s : State) (ty : PktType) (p : Packet) : State :=
  let keep : State := { s with heldReqs := s.heldReqs ++ [{ type := ty, p := p, sentAt := none, firstAt := s.tai }] }
  if ty ≠ .rpart && s.heldReqs.any (fun h => h.p.src = p.src && h.type ≠ .rpart) then keep
  else (s.takeReq ty p).getD (keep.wantPage p)

/-! Replies (R170, R419, R421). -/

/-- The flags of a remote atomic's result (R208). -/
def atomFlags (w : RemoteWait) (n : Nat) (bs : List Byte) : BitVec 6 :=
  if w.atomic && w.aop ≠ aopBar then (atomNew w.aop w.ty (fieldAt bs 0 n) w.operand (fieldAt w.pay n n)).2 else 0

/-- One thread's value of a reply goes to its destination: a register, or the completion of a long-latency operation. -/
def Run.replyVal (r : Run) (w : RemoteWait) (i : Nat) (bs : List Byte) : Run :=
  let x := loadVal w.ty bs
  let wide := Legal.ty64 w.ty
  match w.d with
  | .imm n =>
    let uni := n.toNat / 256 % 2 = 1
    let f := n.toNat / 512
    let l : LongLat := { flag := if f = 0 then none else some (f - 1), wreg := n.toNat % 256, val := BitVec.ofNat 32 x, hi := BitVec.ofNat 32 (x / 2 ^ 32),
                         wide := wide, thread := if uni then none else some i, rel := none, due := 0, seq := w.req }
    { r with t := { r.t with nat := { r.t.nat with outstanding := r.t.nat.outstanding ++ [l] } } }
  | o => r.write i o 32 0 wide x

def replyGo (w : RemoteWait) : List Nat → List Byte → Run → Run
  | [], _, r => r
  | i :: rest, bs, r => replyGo w rest (bs.drop w.size) (r.replyVal w i (bs.take w.size))

/-- A thread that was parked for the reply runs on. -/
def Team.unpark (t : Team) (m : BitVec 32) : Team :=
  let t1 := { t with threads := mapThreads (fun i h => if hasBit m i && h.st = ThreadSt.park then { h with st := .run } else h) 0 t.threads }
  let t2 := t1.settle
  match t2.st with
  | .stall .noRun => if t2.runMask = 0 then t2 else { t2 with st := .ready }
  | _ => t2

/-- A reply to a team's request. -/
def State.teamReply (s : State) (wg : Workgroup) (t : Team) (w : RemoteWait) (bs : List Byte) : State :=
  let r := quietRun s wg { t with remote := t.remote.filter (fun x => x.req ≠ w.req) }
  let r1 : Run := match w.d with
    | .vt 0 => { r with t := { r.t with fetched := r.t.fetched ++ [(w.va, bs)] } }
    | .bar q => { r with t := { r.t with streamBlocks := r.t.streamBlocks ++ [(q.toNat, w.va, bs)] } }
    | _ => replyGo w (maskList w.threads 32) bs r
  let r2 := { r1 with t := ({ r1.t with fstat := r1.t.fstat ||| atomFlags w w.size bs }).unpark w.threads }
  let s1 := r2.sync
  if w.acq > 0 then s1.acquire wg.core wg.uid t.tix w.acq else s1

/-- The team that waits for a reply: by context, package and the request's number. -/
def State.waiter (s : State) (c src k : Nat) : Option (Workgroup × Team × RemoteWait) :=
  s.wgs.findSome? (fun w => if w.ctx ≠ c then none else w.teams.findSome? (fun t =>
    (findBy (fun (x : RemoteWait) => x.peer = src && x.req % 2 ^ 16 = k) t.remote).map (fun x => (w, t, x))))

/-- A reply to an engine's request: the bytes of its next element, or the phase that a linked operation waits for. -/
def State.opReply (s : State) (o : Op) (k : Nat) (bs : List Byte) : State :=
  match findBy (fun (y : Nat × Nat × Nat) => y.1 % 2 ^ 16 = k) o.waits with
  | none => s
  | some y =>
    let o1 := { o with waits := o.waits.filter (fun z => z ≠ y) }
    if y.2.2 = 0 then
      (match (BarAns.ofBytes bs).sub with
       | some sub => (s.putOp o1).opMisuse o1 sub
       | none => s.putOp { o1 with got := o1.got ++ [(y.2.1, 0)] })
    else s.putOp { o1 with got := o1.got ++ (List.range y.2.2).map (fun i => (y.2.1 + i, bs.getD i 0)) }

/-- The answer to the arrival of an operation that has ended (R308): its BAR_MISUSE goes to the operation's team. -/
def State.arriveReply (s : State) (o : Op) (bs : List Byte) : State :=
  let s1 : State := { s with arrivals := s.arrivals.filter (fun y => y.id ≠ o.id) }
  match (BarAns.ofBytes bs).sub with
  | some sub => s1.opMisuse o sub
  | none => s1

/-- The operation of a list that waits for a numbered answer. -/
def opAsking (c k : Nat) (l : List Op) : Option Op := findBy (fun (o : Op) => o.ctx = c && o.waits.any (fun y => y.1 % 2 ^ 16 = k)) l

/-- `linkReply`. -/
def State.replyIn (s : State) (p : Packet) : State :=
  let k := p.rid / 2 ^ 16 % 2 ^ 16
  match s.waiter p.ctx p.src k with
  | some (wg, t, w) => s.teamReply wg t w p.payload
  | none =>
    match opAsking p.ctx k s.ops, opAsking p.ctx k s.arrivals with
    | some o, _ => s.opReply o k p.payload
    | none, some o => s.arriveReply o p.payload
    | none, none =>
      match s.getCtx p.ctx with
      | none => s
      | some x =>
        match findBy (fun (a : Nat × Nat) => a.1 % 2 ^ 16 = k) x.asks with
        | some a => s.putCtx { x with asks := x.asks.filter (fun b => b ≠ a), fetched := x.fetched ++ [(a.2, p.payload)] }
        | none => s

/-! Acknowledgements (R420, R424). -/

/-- An outstanding request that a package's ACK of a number ends. -/
def Unacked.isOf (u : Unacked) (src k : Nat) : Bool := u.peer = src && u.req % 2 ^ 16 = k

/-- Removes the first element that a test accepts. -/
def dropFirst {α : Type} (p : α → Bool) : List α → List α
  | [] => []
  | x :: r => if p x then r else x :: dropFirst p r

/-- `linkAck`: an access of a team or engine has performed, or a mirrored page's peer has, and its answer goes out. -/
def State.ackIn (s : State) (p : Packet) : State :=
  let k := p.rid / 2 ^ 16 % 2 ^ 16
  match findBy (fun (h : HomeWait) => h.peer = p.src && h.req % 2 ^ 16 = k) s.homeWaits with
  | some h => ({ s with homeWaits := dropFirst (fun y => y = h) s.homeWaits } : State).owe h.reply.type h.reply.p
  | none =>
    { s with
      wgs := s.wgs.map (fun (w : Workgroup) => if w.ctx = p.ctx then
        { w with teams := w.teams.map (fun (t : Team) => { t with unacked := dropFirst (fun u => u.isOf p.src k) t.unacked }) } else w)
      ops := s.ops.map (fun (o : Op) => if o.ctx = p.ctx then { o with unacked := dropFirst (fun u => u.isOf p.src k) o.unacked } else o) }

/-! Unreachable packages (R418, R423, R425). -/

/-- A page fails over from a package that is unreachable. -/
def Leaf.failOver (l : Leaf) (id : Nat) : Leaf :=
  if l.mir && l.home = id then { l with home := l.peer, mir := false, peer := 0 }
  else if l.mir && l.peer = id then { l with mir := false, peer := 0 } else l

/-- A READ for a whole block, not for threads' values. -/
def RemoteWait.wholeBlock (w : RemoteWait) : Bool :=
  match w.d with
  | .vt 0 => !w.atomic
  | .bar _ => !w.atomic
  | _ => false

/-- A load or atomic that awaits the old home's reply is sent again to the new one, or performed here where that is this package. -/
def State.askAgain (s : State) (u i : Nat) (w : RemoteWait) (l : Leaf) : State :=
  let p : Packet := { blankPacket l.home 0 with conf := l.conf, scope := max w.acq 6, aop := w.aop, ty := w.ty,
                                                addr := w.va, mask := BitVec.ofNat 64 w.threads.toNat, payload := w.pay }
  match s.teamOf u i with
  | none => s
  | some (wg, t) =>
    let q := { p with ctx := wg.ctx, rid := ridOf wg.core t.lane t.slot w.req, mask := if w.wholeBlock then byteMask 0 64 else p.mask }
    if l.home = s.pkg then
      (match s.serve (if w.atomic then .atomic else .read) { q with src := s.pkg } with
       | .reply s1 bs => (match s1.teamOf u i with
         | some (g, t1) => s1.teamReply g t1 w bs
         | none => s1)
       | .ack s1 => (match s1.teamOf u i with
         | some (g, t1) => s1.teamReply g t1 w (natBytes w.size (bytesNat (spTake 0 s.dram (pa42 (l.frame + (w.va - l.va))) w.size)))
         | none => s1)
       | .quiet s1 => s1
       | .wait => s)
    else
      (s.modTeam u i (fun t => { t with remote := t.remote.map (fun x => if x.req = w.req then { x with peer := l.home } else x) })).send
        (if w.atomic then .atomic else .read) q

/-- The peer of a wait whose request no home has taken: it is sent again. -/
def noPeer : Nat := 255

/-- A request of this package has not been served by the page's former home. -/
def State.requestMoved (s : State) (src c k : Nat) : State :=
  let other := fun (y : Nat) => y % 2 ^ 16 ≠ k
  let left := fun (o : Op) => if o.ctx = c then { o with waits := o.waits.filter (fun y => other y.1) } else o
  match s.waiter c src k with
  | some (wg, t, w) => s.modTeam wg.uid t.tix (fun t => { t with remote := t.remote.map (fun x => if x.req = w.req then { x with peer := noPeer } else x) })
  | none =>
    { s with ops := s.ops.map left, arrivals := s.arrivals.map left,
             contexts := s.contexts.map (fun x => if x.id = c then { x with asks := x.asks.filter (fun a => other a.1) } else x) }

/-- Such a request of a team is made again as the page's leaf stands now; an unmapped page is a fault (R400, R407). -/
def State.requestAgain (s : State) (u i : Nat) (w : RemoteWait) : State :=
  match s.teamOf u i with
  | none => s
  | some (wg, t) =>
    match (s.getCtx wg.ctx).bind (fun x => x.walk w.va) with
    | none => s.teamFatal wg t w.threads { mkFault clsPage 0 w.va with ppc := w.ppc }
    | some l => if l.mig then s else if l.res then s.askAgain u i w l else s.missAdd (dieOf wg.core) wg.ctx w.va

/-- An imprecise fault of a team's store: pending until its next STOP point, or its context's where the team has exited (R238). -/
def State.imprecise (s : State) (u i : Nat) (f : FaultInfo) : State :=
  match s.teamOf u i with
  | none => s
  | some (w, t) =>
    if t.st = .done then s.fatal w.ctx (ctxRecord s f) else s.modTeam u i (fun t => { t with pendFaults := t.pendFaults ++ [f] })

/-- A request to a lost package that no mirror can have taken over (R423). -/
def Unacked.lostWith (u : Unacked) (id : Nat) : Bool := u.peer = id && !u.mir

/-- What the loss of a package does to a team: requests are sent again or fault precisely, stores fault imprecisely. -/
def State.teamLost (s : State) (id u i : Nat) : State :=
  match s.teamOf u i with
  | none => s
  | some (wg, t) =>
    let mine := t.remote.filter (fun w => w.peer = id)
    let leafOf := fun (w : RemoteWait) => (s.getCtx wg.ctx).bind (fun x => x.walk w.va)
    match findBy (fun w => (match leafOf w with
        | some l => l.home = id
        | none => true)) mine with
    | some w => s.teamFatal wg t w.threads { mkFault clsLink 0 w.va with ppc := w.ppc }
    | none =>
      let s0 := s.modTeam u i (fun t => { t with unacked := t.unacked.filter (fun k => k.peer ≠ id) })
      let s1 := match findBy (fun k => Unacked.lostWith k id) t.unacked with
        | some k => s0.imprecise u i { mkFault clsLink 0 k.va with imprecise := true, ppc := k.ppc }
        | none => s0
      mine.foldl (fun s w => match leafOf w with
        | some l => s.askAgain u i w l
        | none => s) s1

/-- What it does to an operation. -/
def State.opLost (s : State) (id : Nat) (o : Op) : State :=
  let homeIs := fun (va : Nat) => (match (s.getCtx o.ctx).bind (fun x => x.walk va) with
    | some l => l.home = id
    | none => false)
  if o.unacked.any (fun k => k.lostWith id) || o.waits.any (fun y => homeIs y.2.1) then
    s.copyFault { o with unacked := o.unacked.filter (fun k => k.peer ≠ id), waits := [] } (mkFault clsLink 0 (((o.waits.filter (fun y => homeIs y.2.1)).map (fun y => y.2.1)).headD 0))
  else s.putOp { o with unacked := o.unacked.filter (fun k => k.peer ≠ id) }

/-- What it does to an arrival that has been sent and not answered (R308, R423): one at an object that has failed over is made again. -/
def State.arrivalLost (id : Nat) (s : State) (o : Op) : State :=
  match o.link.arr with
  | some (.obj a) =>
    (match (s.getCtx o.ctx).bind (fun x => x.walk a) with
     | some l => if l.home = id then ({ s with arrivals := s.arrivals.filter (fun y => y.id ≠ o.id) } : State).opFault o (mkFault clsLink 0 a) else s
     | none => s)
  | _ => s

/-- A destination becomes unreachable: mirrored pages fail over, waiting accesses go on or fault, and gangs that have it as a member are
discarded (R418, R423, R425). -/
def State.lose (s : State) (id : Nat) : State :=
  let was := fun (c va : Nat) => (match (s.getCtx c).bind (fun x => x.walk va) with
    | some l => l.mir && l.home = id
    | none => false)
  let s1 := s.putPeer { s.peer id with reach := 2 }
  let s2 : State := { s1 with
    sendStore := s1.sendStore.filter (fun o => o.p.dst ≠ id)
    owed := s1.owed.filter (fun o => o.p.dst ≠ id)
    homeWaits := s1.homeWaits.filter (fun h => h.reply.p.dst ≠ id)
    barWaits := s1.barWaits.filter (fun b => b.peer ≠ id)
    barLinks := s1.barLinks.filter (fun b => b.peer ≠ id)
    contexts := s1.contexts.map (fun x => { x with
      pages := x.pages.map (fun l => l.failOver id)
      asks := x.asks.filter (fun a => !was x.id a.2)
      pageOps := x.pageOps.map (fun j => { j with waits := j.waits.filter (fun p => p ≠ id) }) })
    ops := s1.ops.map (fun o => { o with waits := o.waits.filter (fun y => !was o.ctx y.2.1) })
    arrivals := s1.arrivals.map (fun o => { o with waits := o.waits.filter (fun y => !was o.ctx y.2.1) })
    cores := s1.cores.map (fun k => { k with tlb := k.tlb.filter (fun e => !(e.leaf.mir && (e.leaf.home = id || e.leaf.peer = id))) })
    dieTlb := s1.dieTlb.filter (fun e => !(e.2.leaf.mir && (e.2.leaf.home = id || e.2.leaf.peer = id))) }
  let free := s2.homeWaits.filter (fun h => h.peer = id)
  let s3 := free.foldl (fun s h => s.owe h.reply.type h.reply.p) ({ s2 with homeWaits := s2.homeWaits.filter (fun h => h.peer ≠ id) } : State)
  let teams := s3.wgs.flatMap (fun w => w.teams.map (fun t => (w.uid, t.tix)))
  let s4 := teams.foldl (fun s x => s.teamLost id x.1 x.2) s3
  let s5 := (s4.arrivals.filter (fun o => o.waits ≠ [])).foldl (State.arrivalLost id)
    ((s4.ops.filter (fun o => o.st.isBusy)).foldl (fun s o => match s.getOp o.id with
      | some y => s.opLost id y
      | none => s) (s4.lostAsks id))
  let reads := s5.contexts.filter (fun x => x.asks.any (fun a => (match x.walk a.2 with
    | some l => l.home = id
    | none => false)))
  let s6 := reads.foldl (fun s x => s.fatal x.id (ctxRecord s { mkFault clsLink 0 0 with imprecise := true })) s5
  (s6.contexts.filter (fun x => x.gang && x.gangMembers.contains id && x.st.live)).foldl (fun s x =>
    s.fatal x.id (ctxRecord s { mkFault clsLink 1 0 with imprecise := true })) s6

/-- The package finds a destination unreachable itself, and tells every package that it can reach. -/
def State.loseFirst (s : State) (id : Nat) : State :=
  let s1 := s.lose id
  s1.tellAll (.unreachable id) ((List.range 192).filter (fun p => s1.reachable p))

/-! Control packets (R414 to R418, R381 to R387). -/

/-- Sequence number `a` lies before `b` in a window of half the numbers. -/
def seqBefore (a b : Nat) : Bool := 1 ≤ (b + 2 ^ 32 - a % 2 ^ 32) % 2 ^ 32 && (b + 2 ^ 32 - a % 2 ^ 32) % 2 ^ 32 ≤ 2 ^ 31

def State.controlIn (s : State) (src : Nat) (m : Control) : State :=
  match m with
  | .deliveryAck n => { s with sendStore := s.sendStore.filter (fun o => !(o.p.dst = src && seqBefore o.p.seq n)) }
  | .credits k => s.putPeer { s.peer src with credit := (s.peer src).credit + k }
  | .portStatus port up =>
    let p := s.peer src
    s.putPeer { p with portsUp := (if up then [port] else []) ++ p.portsUp.filter (fun x => x ≠ port) }
  | .gangArrive g gen => { s with contexts := s.contexts.map (fun x =>
      if x.gang && x.gangId = g && !x.gangArrived.contains (gen * 256 + src) then { x with gangArrived := x.gangArrived ++ [gen * 256 + src] } else x) }
  | .gangCounts g tx rx un => { s with contexts := s.contexts.map (fun x =>
      if x.gang && x.gangId = g then { x with peerCounts := (src, tx, rx, un) :: x.peerCounts.filter (fun a => a.1 ≠ src) } else x) }
  | .gangAbort g gen missing => { s with agenda := s.agenda ++ (s.gangCtxs g).map (fun x => Instr.gangAbortReceived x.id g gen missing) }
  | .unreachable id => if id = s.pkg || (s.peer id).reach ≠ 1 then s else s.lose id
  | .quarantine id => s.quarantine id []
  | .rpartJoin c round fields =>
    match s.getCtx c with
    | some x => s.putCtx { x with rpartJoins := x.rpartJoins ++ [(src, round, fields)] }
    | none => s
  | .transAsk identity off version => s.transAsked src identity off version
  | .transNone identity off version => s.transNone src identity off version
  | .transFound identity off version gen carried computed clean spill => s.transFound src identity off version gen carried computed clean spill
  | .gangLoad g id file => s.gangLoad src g id file
  | .gangLoaded _ id status => s.gangLoaded src id status
  | .gangUnload _ id => s.gangUnload src id
  | .pageOp g id op b => s.pageOpIn src g id op b
  | .pageOpDone g id why => s.pageOpDoneIn src g id why
  | .pageLeaf g va frame home => s.pageLeafIn g va frame home
  | .requestMoved c k => s.requestMoved src c k

/-! Delivery (R413 to R417). -/

/-- One packet in its turn. -/
def State.deliverOne (s0 : State) (ty : PktType) (p : Packet) : State :=
  let s := s0.countRx ty p.ctx p.src
  match ty with
  | .reply => s.replyIn p
  | .ack => s.ackIn p
  | .control m => s.controlIn p.src m
  | _ => s.requestIn ty p

/-- Delivers a packet, and relay credit is granted to a source that is met for the first time (R416). -/
def State.deliver (s : State) (ty : PktType) (p : Packet) : State :=
  let x := s.peer p.src
  let s1 := s.putPeer { x with rxSeq := x.rxSeq + 1, granted := true }
  let s2 := if x.granted then s1 else s1.tellAll (.credits 344064) [p.src]
  s2.deliverOne ty p

/-- Delivers what has arrived early and is next in its source's order. -/
def deliverGo (src : Nat) : Nat → State → State
  | 0, s => s
  | k + 1, s =>
    let x := s.peer src
    match findBy (fun (o : OutPkt) => o.p.seq = x.rxSeq.toNat) x.early with
    | none => s
    | some o => deliverGo src k ((s.putPeer { x with early := x.early.filter (fun y => y.p.seq ≠ o.p.seq) }).deliver o.type o.p)

/-- The receive key that a packet names is installed. -/
def Peer.rxHas (x : Peer) (ix : Bool) : Bool := if ix then x.rx1.isSome else x.rx0.isSome

/-- A packet arrives on a port: it is relayed, dropped and counted, held until its turn, or delivered. -/
def State.receive (s : State) (ty : PktType) (p : Packet) : State :=
  let out : OutPkt := { type := ty, p := p, sentAt := none, firstAt := s.tai }
  if s.power ≠ .d0 || s.pkg ≥ 192 then s
  else if p.dst ≠ s.pkg then (if p.relayed then { s with relayStore := s.relayStore ++ [out] } else s)
  else if p.src ≥ 192 || p.src = s.pkg then s
  else if !p.wellFormed then { s with badPkt := s.badPkt + 1 }
  else
    let x := s.peer p.src
    if p.conf && !(p.tagOk && x.rxHas p.keyix) then { s with authF := s.authF + 1 }
    else if p.seq = x.rxSeq.toNat then deliverGo p.src x.early.length (s.deliver ty p)
    else if seqBefore x.rxSeq.toNat p.seq && !x.early.any (fun o => o.p.seq = p.seq) then s.putPeer { x with early := x.early ++ [out] }
    else s

def execLinkRead (p : Packet) (s : State) : Host.Outcome State Fault Refusal := .next (s.receive .read p)
def execLinkWrite (p : Packet) (s : State) : Host.Outcome State Fault Refusal := .next (s.receive .write p)
def execLinkAtomic (p : Packet) (s : State) : Host.Outcome State Fault Refusal := .next (s.receive .atomic p)
def execLinkReply (p : Packet) (s : State) : Host.Outcome State Fault Refusal := .next (s.receive .reply p)
def execLinkAck (p : Packet) (s : State) : Host.Outcome State Fault Refusal := .next (s.receive .ack p)
def execLinkRpart (p : Packet) (s : State) : Host.Outcome State Fault Refusal := .next (s.receive .rpart p)
def execLinkControl (p : Packet) (m : Control) (s : State) : Host.Outcome State Fault Refusal := .next (s.receive (.control m) p)

/-! What waits at the link goes on without an event. -/

def owedGo : List OutPkt → State → State
  | [], s => s
  | o :: r, s => owedGo r (s.owe o.type o.p)

def heldGo : List OutPkt → State → State
  | [], s => s
  | h :: r, s => heldGo r (s.requestIn h.type h.p)

def State.settleLink (s : State) : State :=
  let s1 := owedGo s.owed { s with owed := [] }
  let s2 := heldGo s1.heldReqs { s1 with heldReqs := [] }
  (s2.wgs.flatMap (fun w => w.teams.flatMap (fun t => (t.remote.filter (fun x => x.peer = noPeer)).map (fun x => (w.uid, t.tix, x))))).foldl
    (fun s y => s.requestAgain y.1 y.2.1 y.2.2) s2

/-! The rotor and the ports (R411, R412, R415, R416). -/

/-- A packet not yet acknowledged within 72 µs is sent again, by the next route. -/
def execRetransmitTimeout (dst seq : Nat) (s : State) : Host.Outcome State Fault Refusal :=
  .next { s with sendStore := s.sendStore.map (fun (o : OutPkt) =>
    if o.p.dst = dst && o.p.seq = seq && (o.sentAt.map (fun t => decide (t + 72000 ≤ s.tai))) = some true then { o with sentAt := none } else o) }

/-- A packet to a destination has gone unacknowledged for 10 ms. -/
def State.overdue (s : State) (dst : Nat) : Bool := s.sendStore.any (fun o => o.p.dst = dst && o.firstAt + 10 ^ 7 ≤ s.tai)

def execPeerUnreachable (dst : Nat) (s : State) : Host.Outcome State Fault Refusal :=
  .next (if (s.peer dst).reach = 1 && s.overdue dst then s.loseFirst dst else s)

/-- The port is UP. -/
def State.portUp (s : State) (i : Nat) : Bool := ((s.ports[i]?).map (fun p => decide (p.st = 2))).getD false

def setPort (i : Nat) (f : Port → Port) (s : State) : State := { s with ports := modNth f s.ports i }

/-- A packet of this source that is to be sent through a relay: its direct port is not UP, the relay's is, and credit is left. -/
def State.viaRelay (s : State) (j : Nat) (o : OutPkt) : Bool :=
  o.sentAt.isNone && o.p.dst ≠ j && !s.portUp (meetAt s.pkg o.p.dst / 12) && (s.peer j).portsUp.contains (meetAt j o.p.dst / 12) &&
  o.p.len ≤ (s.peer j).credit

/-- The leading packets of a list that fit into a number of flits. -/
def takeFlits : Nat → List (OutPkt × Nat) → List (OutPkt × Nat)
  | _, [] => []
  | n, x :: r => if x.1.p.len ≤ n then x :: takeFlits (n - x.1.p.len) r else []

/-- What a port sends in a meeting, in the order of R416: (packet, kind), kind 0 own, 1 relayed for another, 2 through the peer. -/
def State.meeting (s : State) (j : Nat) : List (OutPkt × Nat) :=
  let own := s.sendStore.filter (fun o => o.sentAt.isNone && o.p.dst = j)
  let ctl := fun (o : OutPkt) => !o.type.counted
  (own.filter ctl).map (fun o => (o, 0)) ++ ((s.relayStore.filter (fun o => o.p.dst = j)).map (fun o => (o, 1))) ++
  (own.filter (fun o => !ctl o)).map (fun o => (o, 0)) ++ ((s.sendStore.filter (fun o => s.viaRelay j o)).map (fun o => (o, 2)))

/-- One packet leaves through a port. -/
def State.sendOut (s : State) (port j : Nat) (o : OutPkt) (kind : Nat) : State :=
  let same := fun (y : OutPkt) => y.p.src = o.p.src && y.p.dst = o.p.dst && y.p.seq = o.p.seq
  if kind = 1 then
    (({ s with relayStore := dropFirst same s.relayStore } : State).emit (.sent port o)).tellAll (.credits o.p.len) [o.p.src]
  else
    let s1 : State := { s with sendStore := s.sendStore.map (fun y => if same y then { y with sentAt := some s.tai } else y) }
    let s2 := if kind = 2 then s1.putPeer { s1.peer j with credit := (s1.peer j).credit - o.p.len } else s1
    s2.emit (.sent port { o with sentAt := some s.tai, p := { o.p with relayed := kind = 2 } })

/-- A port meets its peer of the slot. Cumulative delivery acknowledgement goes first (R415). -/
def State.meet (s : State) (port : Nat) : State :=
  let j := (12 * port + s.slot + 192 - s.pkg) % 192
  if j = s.pkg || !s.portUp port then s
  else
    let s1 := if (s.peer j).rxSeq = 0 then s else s.tellAll (.deliveryAck (s.peer j).rxSeq.toNat) [j]
    (takeFlits 6000 (s1.meeting j)).foldl (fun s x => s.sendOut port j x.1 x.2) s1

/-- `rotorSlot`. -/
def execRotorSlot (s : State) : Host.Outcome State Fault Refusal :=
  .next (if s.pkg ≥ 192 || s.power ≠ .d0 || !s.trained then s
    else
      let last : Bool := s.slot + 1 ≥ 12
      let s1 : State := { s with
        slot := if last then 0 else s.slot + 1
        cycle := if last then s.cycle + 1 else s.cycle
        ports := if last then s.ports.map (fun p => { p with crcCycle := 0 }) else s.ports }
      (List.range 16).foldl (fun s i => s.meet i) s1)

/-- Tells the packages with which packets have passed of a port's state (R416). -/
def State.tellPort (s : State) (i : Nat) : State := s.tellAll (.portStatus i (s.portUp i)) ((s.peers.map Peer.id).filter (fun p => s.reachable p))

/-- A port enters TRAIN. -/
def Port.train (p : Port) : Port := { p with st := 1, trains := (p.trains + 1) % 2 ^ 32 }

/-- `lightDetected`: every port stays DOWN until SETID, and in D3hot. -/
def execLightDetected (i : Nat) (s : State) : Host.Outcome State Fault Refusal :=
  .next (if s.pkg ≥ 192 || s.power ≠ .d0 then s else setPort i (fun p => if p.st = 0 then p.train else p) s)

/-- `portTrained`: the first takes the slot of the framing and starts CYCLE. -/
def execPortTrained (i slot : Nat) (s : State) : Host.Outcome State Fault Refusal :=
  .next (if ((s.ports[i]?).map Port.st) ≠ some 1 then s
    else
      let s1 := setPort i (fun p => { p with st := 2 }) s
      (if s1.trained then s1 else { s1 with trained := true, slot := slot % 12, cycle := 0 }).tellPort i)

def execTrainTimeout (i : Nat) (s : State) : Host.Outcome State Fault Refusal :=
  .next (setPort i (fun p => if p.st = 1 then { p with st := 3 } else p) s)

/-- `flitCrcFail`: the 64th within a cycle fails the port. -/
def execFlitCrcFail (i : Nat) (s : State) : Host.Outcome State Fault Refusal :=
  .next (if !s.portUp i then s
    else
      let s1 := setPort i (fun p => { p with crcf := min (p.crcf + 1) (2 ^ 24 - 1), crcCycle := p.crcCycle + 1, st := if p.crcCycle + 1 ≥ 64 then 3 else p.st }) s
      if s1.portUp i then s1 else s1.tellPort i)

def execLossOfLight (i : Nat) (s : State) : Host.Outcome State Fault Refusal :=
  .next (if s.portUp i then (setPort i (fun p => { p with st := 3 }) s).tellPort i else s)

def execPortRetrain (i : Nat) (s : State) : Host.Outcome State Fault Refusal :=
  .next (setPort i (fun p => if p.st = 3 then p.train else p) s)

/-! Keys (R426 to R429). -/

/-- A key block within its limits. -/
def keyOk (b : List Byte) : Bool := fieldAt b 0 1 ≤ 191 && fieldAt b 1 1 ≤ 1 && fieldAt b 2 1 ≤ 1 && zeroAt b 4 28

/-- Installs a key from its block; none where it is refused. -/
def State.keyLoad (s : State) (b : List Byte) : Option State :=
  let p := s.peer (fieldAt b 0 1)
  let ix := fieldAt b 2 1
  let key := BitVec.ofNat 256 (fieldAt b 32 32)
  if !keyOk b then none
  else if fieldAt b 1 1 = 1 then some (s.putPeer (if ix = 0 then { p with rx0 := some key } else { p with rx1 := some key }))
  else if (p.txKey.map SendKey.ix) = some ix then none
  else
    let s1 := s.putPeer { p with txNext := some (ix, key), txKey := p.txKey.map (fun k => { k with st := 1 }), refused := none }
    some { s1 with ops := s1.ops.map (fun o => if o.keyWait = some p.id then { o with keyWait := none } else o) }

/-- `lnkKeyld`: the block is read once, KEY overwritten with zeros, then STATUS written. -/
def execLnkKeyld (addr : BitVec 64) (s : State) : Host.Outcome State Fault Refusal :=
  .next (s.hostAct (.lnkKeyld addr) (fun s =>
    let b := s.hostTake addr.toNat 64
    let s1 := s.hostPut (addr.toNat + 32) (natBytes 32 0)
    match s1.keyLoad b with
    | some s2 => s2.hostPut (addr.toNat + 3) [1]
    | none => s1.hostPut (addr.toNat + 3) [2]))

/-- A team waits for a peer's send key with an access. -/
def Team.keyStalled (t : Team) (p : Nat) : Bool :=
  match t.st with
  | .stall (.key d) => d = p
  | _ => false

/-- An entry of the combining buffer whose page a peer's send key keeps from draining. -/
def State.keyHolds (s : State) (c p : Nat) (e : CombEntry) : Bool :=
  match (s.getCtx c).bind (fun x => x.walk e.block) with
  | some l => l.conf && (l.dests s.pkg).contains p
  | none => false

/-- The entries of a team that are due and wait for a peer's send key fault, each with its store's PC; the others stay (R238, R428). -/
def State.keyDrop (s : State) (w : Workgroup) (t : Team) (p : Nat) : State :=
  let cut := ((s.getCtx w.ctx).map Context.st) = some .cutting
  let waits := t.comb.filter (fun e => s.keyHolds w.ctx p e && e.isDue t cut)
  waits.foldl (fun s e => s.imprecise w.uid t.tix { mkFault clsKey 0 e.block with imprecise := true, ppc := e.ppc })
    (s.modTeam w.uid t.tix (fun t => { t with comb := t.comb.filter (fun e => !waits.contains e) }))

/-- `keyExhaustTimeout`: every waiting requester faults KEY_EXHAUSTED, and so does the context of a reply that is owed. -/
def State.keyExpire (s : State) (p : Nat) : State :=
  let x := s.peer p
  let due := match x.refused with
    | some t => s.tai ≥ t + 1000 * s.keyTmo
    | none => false
  if !due then s
  else
    let s1 := s.putPeer { x with refused := none }
    let teams := s1.wgs.flatMap (fun w => w.teams.map (fun t => (w.uid, t.tix)))
    let s2 := teams.foldl (fun s u => match s.teamOf u.1 u.2 with
      | none => s
      | some (w, t) =>
        if t.keyStalled p then s.teamFatal w t (t.pend.getD t.fmask) { mkFault clsKey 0 0 with ppc := (t.leadPc).getD 0 }
        else s.keyDrop w t p) s1
    let s3 := (s2.ops.filter (fun o => o.st.isBusy && o.keyWait = some p)).foldl (fun s o => match s.getOp o.id with
      | some y => s.copyFault y (mkFault clsKey 0 0)
      | none => s) s2
    let cs := ((s3.owed.filter (fun o => o.p.dst = p && o.p.conf)).map (fun o => o.p.ctx)).eraseDups
    let s4 := cs.foldl (fun s c => s.fatal c (ctxRecord s { mkFault clsKey 0 0 with imprecise := true })) s3
    { s4 with owed := s4.owed.filter (fun o => !(o.p.dst = p && o.p.conf)) }

def execKeyExhaustTimeout (p : Nat) (s : State) : Host.Outcome State Fault Refusal := .next (s.keyExpire p)

end Sys2Proof.Machine
end

