-- ==== Sys2Proof/Machine/HostOps.lean ====
section
/-! DEFINITION. The host, the management port and the package as a whole (R10 to R17, R216 to R218, R332, R404, R441 to R449, R458):
the apertures, boot and reset, firmware recovery, power states, soft errors, retirement of cores and updates. -/
namespace Sys2Proof.Machine

/-! Registers that the host reads (R442, R443, R445). -/

/-- `SYS_BOOT`. -/
def State.sysBoot (s : State) : Nat := s.bootStage % 8 + 8 * b2n s.bootSlot + 16 * s.bootDies.toNat + 2 ^ 12 * s.pkg

def State.memErr (s : State) : Nat := min s.memCe (2 ^ 32 - 1) + 2 ^ 32 * min s.memUe 65535

/-- `CTX_FQ`. -/
def Context.fqReg (x : Context) : Nat := x.fqHead % 128 + 256 * (x.fqTail % 128)

/-- A word of the reserved-region table. -/
def State.regionWord (s : State) (k : Nat) (size : Bool) : Nat :=
  match s.regions[k]? with
  | some r => if k < 5 then (if size then r.2 else r.1) else 0
  | none => 0

/-- Eight bytes of a fault record. -/
def Context.fqWord (x : Context) (o : Nat) : Nat :=
  match tabGet (o / 64) x.fq with
  | some r => fieldAt r.bytes (o % 64) 8
  | none => 0

/-- A word of the page of a context (R443). -/
def State.ctxPageWord (s : State) (c o : Nat) : Nat :=
  match s.getCtx c with
  | none => if o < 56 then bytesNat (spTake 0 s.reqBytes (64 * c + o) 8) else 0
  | some x =>
    if o < 56 then bytesNat (spTake 0 s.reqBytes (64 * c + o) 8)
    else if o = 0x80 then x.fqReg
    else if 0x100 ≤ o && o < 0x180 then x.ladder.getD ((o - 0x100) / 8) 0
    else if 0x1000 ≤ o && o < 0x2000 then x.fqWord (o - 0x1000)
    else 0

/-- What an aligned 8-byte read of the host aperture returns. Before READY every offset but that of `SYS_BOOT` reads zero. -/
def State.apertureRead (s : State) (off : Nat) : Nat :=
  if off % 8 ≠ 0 then 0
  else if off = 0 then s.sysBoot
  else if s.bootStage ≠ 4 then 0
  else if off = 0x8 then s.featGen.toNat + 2 * 2 ^ 32 + 2 * 2 ^ 40
  else if off = 0x10 then 1024
  else if off = 0x18 then s.absentWord 0
  else if off = 0x28 then s.memErr
  else if 0x1000 ≤ off && off < 0x1080 then s.absentWord ((off - 0x1000) / 8)
  else if 0x2000 ≤ off && off < 0x2100 then s.regionWord ((off - 0x2000) / 16) ((off - 0x2000) / 8 % 2 = 1)
  else if 0x400000 ≤ off && off < 0x408000 then ((s.getQueue ((off - 0x400000) / 8)).map Queue.stat).getD 0
  else if 0x1000000 ≤ off && off < 0x1200000 then s.ctxPageWord ((off - 0x1000000) / 8192) ((off - 0x1000000) % 8192)
  else 0

/-- What a read of `n` bytes of BAR0 or BAR2 returns (R441, R442): the kick aperture holds write-only doorbells, which read zero (R4, R335). -/
def State.barRead (s : State) (bar off n : Nat) : List Byte :=
  if bar = 0 && n = 8 then natBytes 8 (s.apertureRead off) else natBytes n 0

/-! Writes of the host aperture. -/

/-- The host's writes take effect: READY and powered. -/
def State.hostOpen (s : State) : Bool := s.bootStage = 4 && s.power = .d0

/-- A write of `CTX_FQ`: TAIL is set, and a cause that waited for a place is written (R371). -/
def State.fqTail (s : State) (c x : Nat) : State :=
  match s.getCtx c with
  | none => s
  | some y =>
    let y1 := { y with fqTail := x / 256 % 128 }
    match y1.fqWaiting with
    | some r => ((s.putCtx { y1 with fqWaiting := none }).fqCause c r)
    | none => s.putCtx y1

def execCtxFqWrite (c : Nat) (x : BitVec 64) (s : State) : Host.Outcome State Fault Refusal :=
  .next (if s.hostOpen then s.fqTail c x.toNat else s)

/-- The request that a context's block holds (R443): its CODE and fields. -/
def blockRequest (b : List Byte) : Nat × Request :=
  (fieldAt b 0 1,
   { compl := BitVec.ofNat 64 (fieldAt b 8 8), arg0 := BitVec.ofNat 64 (fieldAt b 16 8), arg1 := BitVec.ofNat 64 (fieldAt b 24 8),
     arg2 := BitVec.ofNat 64 (fieldAt b 32 8), rsvZero := zeroAt b 1 7 && zeroAt b 40 16 })

/-- A page-operation block (R405): its OP and fields. -/
def blockPageOp (b : List Byte) : Nat × PageBlock :=
  (fieldAt b 0 1,
   { sz := BitVec.ofNat 8 (fieldAt b 1 1), attr := BitVec.ofNat 16 (fieldAt b 2 2), home := BitVec.ofNat 8 (fieldAt b 4 1),
     peer := BitVec.ofNat 8 (fieldAt b 5 1), va := BitVec.ofNat 64 (fieldAt b 8 8), npages := BitVec.ofNat 32 (fieldAt b 16 4),
     frame := BitVec.ofNat 64 (fieldAt b 24 8), compl := BitVec.ofNat 64 (fieldAt b 32 8),
     rsvZero := zeroAt b 6 2 && zeroAt b 20 4 && zeroAt b 40 24 })

/-- A write to the page of a context that firmware serves: the request block, SUBMIT or `CTX_PGOP`. -/
def State.ctxPageWrite (s : State) (c o x : Nat) : State :=
  if o < 56 then { s with reqBytes := spPut 0 s.reqBytes (64 * c + o) (natBytes 8 x) }
  else if o = 56 then
    let q := blockRequest (spTake 0 s.reqBytes (64 * c) 56)
    s.submit q.1 c q.2
  else if x % 64 ≠ 0 then s
  else
    let q := blockPageOp (s.hostTake x 64)
    s.pageSubmit q.1 c q.2

/-- A write to an aligned offset under the Access code of each field. A register with a row of its own acts as that row. -/
def State.apertureWrite (s : State) (off : Nat) (x : BitVec 64) : Host.Outcome State Fault Refusal :=
  let c := (off - 0x1000000) / 8192
  let o := (off - 0x1000000) % 8192
  if off % 8 ≠ 0 then .next s
  else if off = 0x10000 then execQueWdraw x s
  else if off = 0x10008 then execLnkKeyld x s
  else if 0x1000000 ≤ off && off < 0x1200000 then
    (if o = 0x80 then execCtxFqWrite c x s
     else if o ≤ 56 || o = 0x40 then .next (s.hostAct (.hostRegisterWrite off x) (fun s => s.ctxPageWrite c o x.toNat))
     else .next s)
  else if !s.hostOpen then .next s
  else if off = 0x28 then .next (s.memErrClear x.toNat)
  else if 0x400000 ≤ off && off < 0x408000 then
    .next (match s.getQueue ((off - 0x400000) / 8) with
      | some q => s.putQueue (q.statClear x.toNat)
      | none => s)
  else .next s

def execHostRegisterWrite (off : Nat) (x : BitVec 64) (s : State) : Host.Outcome State Fault Refusal := s.apertureWrite off x

/-! BAR4 (R441, R458). -/

/-- A physical address lies in a reserved region. -/
def State.reserved (s : State) (pa : Nat) : Bool := s.regions.any (fun r => r.1 ≤ pa && pa < r.1 + r.2)

/-- A byte of stacked DRAM that the host reaches: its die is enabled and it is in no reserved region. -/
def State.hostReach (s : State) (pa : Nat) : Bool := pa < 2 ^ 42 && s.bootDies.getLsbD (pa / 2 ^ 39) && !s.reserved pa

def State.bar4Write (s : State) (a : Nat) (bs : List Byte) : State :=
  let ks := (List.range bs.length).filter (fun k => s.hostReach (a + k))
  let whole := fun (u : Nat) => (List.range 32).all (fun i => ks.contains (32 * u + i - a) && a ≤ 32 * u + i)
  { s with dram := ks.foldl (fun m k => spSet 0 m (a + k) (bs.getD k 0)) s.dram,
           bad := s.bad.filter (fun u => match u with
             | .dram k => !whole k
             | _ => true) }

def execHostMemoryWrite (a : Nat) (bs : List Byte) (s : State) : Host.Outcome State Fault Refusal :=
  .next (if s.hostOpen then s.bar4Write a bs else s)

/-- A byte as the host reads it: zero in a reserved region; where no stack answers the manual gives no value. -/
def State.bar4Byte (s : State) (a : Nat) : Byte :=
  if s.hostReach a then spGet 0 s.dram a else if s.reserved a then 0 else Config.foreignByte s.free a

def execHostMemoryRead (a n : Nat) (s : State) : Host.Outcome State Fault Refusal :=
  .next (if s.hostOpen then
      ({ s with free := s.free + 1 } : State).emit (.hostRead a ((List.range n).map (fun k => s.bar4Byte (a + k))))
    else s)

/-! The management port (R444). A message whose signature fails is dropped; before READY no firmware answers. -/

def State.mgmtOpen (s : State) (signed : Bool) : Bool := signed && s.bootStage = 4 && s.power ≠ .off

def execMgmtIdent (signed : Bool) (s : State) : Host.Outcome State Fault Refusal :=
  .next (if s.mgmtOpen signed then s.emit (.mgmtIdent Config.serial s.sysBoot s.memErr) else s)

def execMgmtSetid (signed : Bool) (id : Nat) (s : State) : Host.Outcome State Fault Refusal :=
  .next (if !s.mgmtOpen signed then s
    else if id ≤ 191 && !s.idSet && !s.ctxMade then { s with pkg := id, idSet := true }
    else s.emit .mgmtRefused)

/-! Boot (R10, R11, R13, R445, R449, R458). -/

/-- The cores of a die that pass, in ascending physical number. -/
def passing (p : BitVec 144) : List Nat := (List.range 144).filter (fun i => p.getLsbD i)

/-- The virtual core number of coordinate `k` of a die, x first. -/
def virtualNo (die k : Nat) : Nat := (die / 2 * 8 + k / 16) * 32 + die % 2 * 16 + k % 16

/-- A grid core as the stokers leave it. -/
def newCore (id phys : Nat) : Core :=
  { id := id, phys := phys, triple := none, l1 := [], l1ctx := 0, locks := [], bankser := 0, aliasRb := 0, alias_ := [], tlb := [],
    lastStart := none, rampStarts := 0, lastOp := 0, direct := none, directStarted := [], nbv := [], ibuf := [], routes := [] }

/-- The grid cores of a die. -/
def dieCores (die : Nat) (p : BitVec 144) : List Core :=
  let l := (passing p).drop 1
  (List.range (min l.length 128)).map (fun k => newCore (virtualNo die k) (l.getD k 0))

/-- Inserts a core by its virtual number. -/
def insertCore (x : Core) : List Core → List Core
  | [] => [x]
  | y :: r => if x.id < y.id then x :: y :: r else y :: insertCore x r

def sortCores (l : List Core) : List Core := l.foldr insertCore []

/-- The bits of the virtual numbers that no core has. -/
def absentOf (l : List Core) : BitVec 1024 :=
  ~~~(l.foldl (fun (m : BitVec 1024) k => m ||| BitVec.ofNat 1024 (2 ^ k.id)) 0)

/-- The passing cores of die `d`. -/
def BootInfoPass (b : BootInfo) (d : Nat) : BitVec 144 := b.pass.getD d 0

/-- A package at the start of its boot: everything as after reset but what is not the package's own, and the model's counters. -/
def State.restart (s : State) : State :=
  { State.reset with hostMem := s.hostMem, out := s.out, agenda := s.agenda, free := s.free, version := s.version, tai := s.tai }

/-- The next stage of a boot (R445): ROM, VERIFY, TEST, FIRMWARE, READY, or FAILED where neither flash slot verifies. -/
def State.bootNext (s : State) (b : BootInfo) : State :=
  match s.bootStage with
  | 0 => { s with bootStage := 1 }
  | 1 => if !b.slot0Ok && !b.slot1Ok then { s with bootStage := 7, booting := none } else { s with bootStage := 2, bootSlot := !b.slot0Ok }
  | 2 =>
    let dies := (List.range 8).filter (fun d => passing (BootInfoPass b d) ≠ [])
    let cores := sortCores (dies.flatMap (fun d => dieCores d (BootInfoPass b d)))
    { s with
      bootStage := 3
      bootDies := dies.foldl (fun (m : BitVec 8) d => m ||| BitVec.ofNat 8 (2 ^ d)) 0
      cores := cores
      absent := absentOf cores
      spares := dies.flatMap (fun d => ((passing (BootInfoPass b d)).drop 129).map (fun p => (d, p)))
      fwCores := dies.map (fun d => newCore d ((passing (BootInfoPass b d)).headD 0)) }
  | 3 => { s with bootStage := 4, regions := b.regions.take 5, booting := none }
  | _ => { s with booting := none }

/-- A boot under way goes on to its next stage at an open time. -/
def State.bootSome (s : State) : State :=
  match s.booting with
  | none => s
  | some b =>
    let y := s.freeValue
    if y.1.getLsbD 0 then y.2.bootNext b else y.2

/-- A boot begins, at stage ROM. -/
def State.boot (s : State) (b : BootInfo) : State := { s with booting := some b }

/-- A reset of a powered package (R449). -/
def State.resetBoot (s : State) (b : BootInfo) : State := if s.power = .off then s else s.restart.boot b

def execPowerUp (b : BootInfo) (s : State) : Host.Outcome State Fault Refusal := .next (s.restart.boot b)
def execPerst (b : BootInfo) (s : State) : Host.Outcome State Fault Refusal := .next (s.resetBoot b)
def execHotReset (b : BootInfo) (s : State) : Host.Outcome State Fault Refusal := .next (s.resetBoot b)
def execFunctionLevelReset (b : BootInfo) (s : State) : Host.Outcome State Fault Refusal := .next (s.resetBoot b)
def execMgmtReset (signed : Bool) (b : BootInfo) (s : State) : Host.Outcome State Fault Refusal :=
  .next (if s.mgmtOpen signed then s.resetBoot b else s)

/-! Firmware (R361, R446). -/

/-- `fwWatchdogExpiry`: the die's firmware restarts. Every control block is whole between two actions, so none is replaced. -/
def execFwWatchdogExpiry (die : Nat) (s : State) : Host.Outcome State Fault Refusal :=
  .next (if s.bootStage = 4 && s.bootDies.getLsbD die && !s.recovering.contains die then { s with recovering := s.recovering ++ [die] } else s)

/-- The recovery is over: what the host did meanwhile is performed, in arrival order. -/
def State.recovered (s : State) : State := { s with recovering := [], held := [], agenda := s.held ++ s.agenda }

/-- The next generation (R332). -/
def nextGen (g : BitVec 32) : BitVec 32 := if g = 0xFFFFFFFF then 1 else g + 1

/-- A firmware pre-emption of the RUNNING contexts that a test accepts. -/
def State.preemptAll (s : State) (p : Context → Bool) : State :=
  (s.contexts.filter (fun x => x.st = .running && p x)).foldl (fun s x => s.startPolite x.id true) s

/-- `firmwareUpdate`: whether the translator's version changes is open. -/
def execFirmwareUpdate (s : State) : Host.Outcome State Fault Refusal :=
  .next (if s.bootStage ≠ 4 || s.power = .off then s
    else
      let y := s.freeValue
      ({ y.2 with featGen := nextGen y.2.featGen, version := y.2.version + y.1.toNat % 2 } : State).preemptAll (fun _ => true))

/-! Retirement (R14). -/

/-- A context that resumes with work already placed is pre-empted by firmware once it runs (R14). -/
def State.preemptResuming (s : State) (p : Context → Bool) : State :=
  { s with contexts := s.contexts.map (fun x => if x.st = .resuming && p x then { x with firmwarePreempt := true } else x) }

/-- A context has work placed on a core. -/
def State.worksOn (s : State) (c core : Nat) : Bool := s.wgs.any (fun w => w.ctx = c && w.core = core)

/-- Every listed slot of every core with a workgroup is made again. -/
def State.remakeRoutes (s : State) : State :=
  s.wgs.foldl (fun s w => match s.getObj w.obj with
    | some o => s.fillRoutes w.core o
    | none => s) s

/-- A spare takes a core's coordinate, or the coordinate becomes absent. Which spare of the die is open. -/
def State.replaceCore (s : State) (core : Nat) : State :=
  let s1 := s.l1Clean core (fun _ => true)
  let mine := s1.spares.filter (fun p => p.1 = dieOf core)
  let y := s1.freeValue
  let s2 : State := match mine with
    | [] => { s1 with cores := s1.cores.filter (fun k => k.id ≠ core), absent := s1.absent ||| BitVec.ofNat 1024 (2 ^ core) }
    | p :: r =>
      let q := (p :: r).getD (y.1.toNat % (r.length + 1)) p
      { y.2 with cores := y.2.cores.map (fun k => if k.id = core then newCore core q.2 else k),
                 spares := y.2.spares.filter (fun x => x ≠ q) }
  ({ s2 with featGen := nextGen s2.featGen, retiring := s2.retiring.filter (fun c => c ≠ core), passDue := true } : State).remakeRoutes

/-- The retirements whose core no workgroup stands on any more go on; the contexts are released when none is left. -/
def State.settleRetiring (s : State) : State :=
  s.retiring.foldl (fun s core => if s.wgs.any (fun w => w.core = core) then s else s.replaceCore core) s

def execCoreRetirement (core : Nat) (s : State) : Host.Outcome State Fault Refusal :=
  .next (if (s.getCore core).isNone || s.retiring.contains core then s
    else ((({ s with retiring := s.retiring ++ [core] } : State).preemptAll (fun x => s.worksOn x.id core)).preemptResuming
      (fun x => s.worksOn x.id core)).settleRetiring)

/-! Power (R447, R448). -/

/-- The package is without power: nothing of it is left. -/
def State.unpowered (s : State) : State := { s.restart with power := .off }

def execThermalWarning (s : State) : Host.Outcome State Fault Refusal :=
  .next (if s.power = .off then s else { s with thermal := true, pkgOver := true, passDue := s.passDue || !s.pkgOver })

def execThermalTrip (s : State) : Host.Outcome State Fault Refusal := .next (if s.power = .off then s else s.unpowered)

/-- `pkgOverChange`: what ends a thermal warning is not given; the next change to "not over" ends both. -/
def execPkgOverChange (above : Bool) (s : State) : Host.Outcome State Fault Refusal :=
  .next (if s.power = .off then s
    else { s with pkgOver := above, thermal := s.thermal && above, passDue := s.passDue || s.pkgOver ≠ above })

def execD3hotEntry (s : State) : Host.Outcome State Fault Refusal :=
  .next (if s.bootStage ≠ 4 || s.power ≠ .d0 then s
    else if s.contexts ≠ [] then s.emit .pmeRefused
    else { s with power := .d3hot, ports := s.ports.map (fun p => { p with st := 0 }) })

def execD0Return (s : State) : Host.Outcome State Fault Refusal := .next (if s.power = .d3hot then { s with power := .d0 } else s)

def execPowerLoss (s : State) : Host.Outcome State Fault Refusal := .next s.unpowered

/-! Soft errors (R216 to R218, R417). -/

def State.countCe (s : State) : State := { s with memCe := min (2 ^ 32 - 1) (s.memCe + 1) }
def State.countUe (s : State) : State := { s with memUe := min 65535 (s.memUe + 1) }

/-- The place exists. -/
def State.unitExists (s : State) : ErrLoc → Bool
  | .dram u => s.bootDies.getLsbD (32 * u / 2 ^ 39) && u < 2 ^ 37
  | .dieq d u => d % 64 < 8 && ((s.getCtx (d / 64)).map (fun x => decide (32 * u < x.dq))).getD false
  | .scratch w u => ((s.getWg w).map (fun x => decide (8 * u < x.sw))).getD false
  | .vat w u => ((s.getWg w).map (fun x => decide (8 * u < 16384 * x.vt))).getD false
  | .lane w t th u => th < 32 && ((s.getWg w).map (fun x => decide (8 * u < x.priv) && (x.getTeam t).isSome)).getD false
  | .reg w t th u => th ≤ 32 && u < 128 && (((s.getWg w).bind (fun x => x.getTeam t))).isSome
  | .dirtyLine c u => ((s.getCore c).map (fun k => k.l1.any (fun b => b.dirty && b.addr / 8 = u))).getD false
  | .cleanLine c _ => (s.getCore c).isSome
  | .relay k => k < s.relayStore.length
  | .cellar e => (s.getDir e).isSome

def State.addBad (s : State) (u : ErrLoc) : State := if s.bad.contains u then s else { s with bad := s.bad ++ [u] }

/-- An uncorrectable error. Clean bytes of a line are discarded and count as corrected; bytes that stand nowhere else keep bad check bits; a packet of the relay store is dropped and counted
there; an entry of the cellar is translated again; every other unit keeps bad check bits. -/
def State.strike (s : State) : ErrLoc → State
  | .cleanLine c a =>
    match s.getCore c with
    | none => s
    | some k =>
      let line := fun (x : Nat) => x / 128 = a / 128
      if k.l1.any (fun b => b.dirty && b.addr / 8 = a / 8) then s.addBad (.dirtyLine c (a / 8))
      else (s.putCore { k with l1 := k.l1.filter (fun b => b.dirty || !line b.addr) }).countCe
  | .relay k => { s.countUe with relayStore := s.relayStore.take k ++ s.relayStore.drop (k + 1), rlyUe := min 65535 (s.rlyUe + 1) }
  | .cellar e =>
    match s.getDir e with
    | none => s
    | some d =>
      if d.st = .translating || d.st = .failed then s.countUe
      else if s.countUe.evictable d then s.countUe.evictEntry d
      else s.countUe.putDir { d with st := .translating, gen := 0, prof := [] }
  | u => s.addBad u

/-- `softError`: whether a single bit is struck, which is corrected, or more is open. -/
def execSoftError (u : ErrLoc) (s : State) : Host.Outcome State Fault Refusal :=
  .next (if s.power = .off || !s.unitExists u then s
    else
      let y := s.freeValue
      if y.1.getLsbD 0 then y.2.countCe else y.2.strike u)

/-- `scrubbing` finds a unit; it faults nobody. -/
def execScrubbing (u : ErrLoc) (s : State) : Host.Outcome State Fault Refusal :=
  .next (if s.bad.contains u then s.countUe else s)

end Sys2Proof.Machine
end

