-- ==== Sys2Proof/Machine/Schedule.lean ====
section
/-! DEFINITION. What happens next (R23, R108, R154, R356, R374): the time that passes, what follows without any further event, the teams that
can issue with the instruction each fetches, and the actions that the package's units can take. Among several the manual gives no
order: which comes next is open. -/
namespace Sys2Proof.Machine

/-! Time. -/

/-- Lines of a core's L1 go back or are dropped at any time (R199, R221, R223). -/
def State.evictSome (s : State) : State :=
  s.cores.foldl (fun s k =>
    if k.l1 = [] then s
    else
      let some_ := fun (n a : Nat) => Config.l1Evicts n (a / 64)
      { ((s.l1Clean k.id (some_ s.free)).l1Drop k.id (some_ (s.free + 1))) with free := s.free + 2 }) s

/-- The end of a firmware recovery, at an open time (R446). -/
def State.settleFirmware (s : State) : State :=
  if s.recovering = [] then s
  else
    let y := s.freeValue
    if y.1.getLsbD 0 then y.2.recovered else y.2

/-! Waits for phases. -/

/-- The phase that a team waits for is complete: its wait ends at that, whatever comes to the barrier next (R299, R306). -/
def State.phaseEnds (s : State) (w : Workgroup) (b : BarRef) (ph : Nat) : Bool :=
  match b with
  | .core n => ((w.bars[n]?).map (fun x => phaseDone x.phase.toNat ph)).getD false
  | .obj a =>
    match s.memGet w.ctx a 64 with
    | some bs => phaseDone (fieldAt bs 16 4) ph
    | none => false

/-- A team whose wait has ended. -/
def Team.endWait (s : State) (w : Workgroup) (t : Team) : Team :=
  match t.st with
  | .stall (.phase b ph) => if s.phaseEnds w b ph then { t with st := .ready, passed := some (b, ph) } else t
  | _ => t

/-- The waits whose phase is complete end. -/
def State.endWaits (s : State) : State :=
  { s with wgs := s.wgs.map (fun w => { w with teams := w.teams.map (fun t => t.endWait s w) }) }

/-- The teams that a `halt` has reached and that stand at a STOP point end (R393). -/
def State.settleHalts (s : State) : State :=
  (s.wgs.flatMap (fun w => (w.teams.filter (fun t => t.halting && t.st ≠ .done && !s.running w t)).map (fun t => (w.uid, t.tix)))).foldl
    (fun s x => s.haltTeam x.1 x.2) s

/-! Instruction buffers (R15). -/

/-- The lines of 256 bytes where the teams and splits of a core stand, once for each. -/
def State.linesAt (s : State) (core : Nat) : List (Nat × Nat) :=
  (s.wgs.filter (fun w => w.core = core)).flatMap (fun w => w.teams.flatMap (fun t =>
    ((t.leadPc.toList ++ t.runPcs).map (fun p => (w.ctx, p / 256))).eraseDups))

/-- A core's buffer holds the lines in use with their counts, and as many older ones as its 192 KiB leave room for. -/
def Core.buffer (k : Core) (held : List (Nat × Nat)) (live : Nat → Bool) : Core :=
  let now := held.eraseDups.map (fun x => ({ ctx := x.1, line := x.2, refs := held.count x } : CodeLine))
  let old := k.ibuf.filter (fun (c : CodeLine) => live c.ctx && !held.contains (c.ctx, c.line))
  { k with ibuf := (now ++ old.map (fun (c : CodeLine) => { c with refs := 0 })).take 768 }

def State.fillBuffers (s : State) : State :=
  { s with cores := s.cores.map (fun k => k.buffer (s.linesAt k.id) (fun c => (s.getCtx c).isSome)) }

/-- Time passes: `cc` advances by an open amount and TAI with it, and what needs no further event takes place. -/
def State.tick (s : State) : State :=
  let s0 := s.endWaits
  let s1 := (s0.pass (1 + Config.elapsed s0.cc)).evictSome.bootSome.settleFirmware
  let s2 := s1.settleRetiring.settleLink.settleAlloc.settleOps.tryArrivals.settleHalts.settleLinkage
  (s2.contexts.foldl (fun s x => (s.settleCtx x.id).settlePages x.id) s2).fillBuffers

/-! Teams. -/

/-- A channel has room, or its workgroup takes no entry any more (R188). -/
def State.chanOpen (s : State) (u ch : Nat) : Bool :=
  match s.getWg u with
  | some m => m.st = .done || (m.chans.getD ch []).length < 32
  | none => true

/-- A page that an element fetched ahead has met absent is there by now: the element is fetched again before the team goes on (R215). -/
def State.isThere (s : State) (w : Workgroup) (va : Nat) : Bool :=
  match s.locate { ctx := w.ctx, core := w.core, wg := w.uid, tix := 0, thread := 0 } 4 va 1 1 .load with
  | .at_ _ => true
  | _ => false

/-- What a team in STALL waits for has come. It then goes on where it stood, and waits again if it still must. -/
def State.stallCleared (s : State) (w : Workgroup) (t : Team) : Stall → Bool
  | .stream q =>
    let st := t.stream q
    !st.bound || st.pos ≥ st.total || (match st.buf with
      | el :: _ => (match el.fault with
        | some f => !(f.isPage && s.isThere w f.addr)
        | none => true)
      | [] => false)
  | .streamBusy q => !(quietRun s w t).copyHolds q
  | .feed => t.feedBuf ≠ [] || t.feedPos ≥ s.feedLen w
  | .flags m => (List.range 12).all (fun f => m / 2 ^ f % 2 = 0 || t.flagOf f = 0)
  | .flagFull f => t.flagOf f < 255
  | .token k => !(quietRun s w t).tokenBusy k
  | .pressFull => (s.pressHeld w.core).length < 16 && ((s.getCore w.core).bind Core.direct).isNone
  | .rackerFull => s.rackerHeld w.core < 64
  | .locks n => (quietRun s w t).freeLocks ≥ n
  | .phase b ph => s.phaseEnds w b ph || (match b with
      | .core _ => false
      | .obj a => (s.memGet w.ctx a 64).isNone && t.remote.all (fun x => x.d ≠ .vt 0))
  | .chanSend u ch => s.chanOpen u ch
  | .chanRecv ch => w.chans.getD ch [] ≠ []
  | .ringRoom r n => s.ringFree w r ≥ n
  | .ringIdle n => s.ops.all (fun o => o.wg ≠ w.uid || !o.namesRing n)
  | .direct => s.directFree w.core
  | .withdraw => true
  | .directRetire => ((s.getCore w.core).map (fun k => decide (k.directStarted = []))).getD true
  | .remote => t.remote.all (fun x => x.parked) && t.unacked = []
  | .key d => s.sendBar d true 0 ≠ .key
  | .sendStore => s.sendFlits + flits true 64 ≤ 2 ^ 24
  | .quiet => !((s.getCtx w.ctx).map Context.gangQuiet).getD false
  | .sleepCc _ => false
  | .sleepTai _ => false
  | .translate a => !s.translating w.ctx a
  | .brk => false
  | .noRun => t.runMask ≠ 0

/-- A request whose reply the team awaits before it issues again: not one whose threads are parked, whose result a completion flag covers, or
which reads ahead (R170, R201). -/
def RemoteWait.holds (r : RemoteWait) : Bool :=
  !r.parked && (match r.d with
    | .imm _ => false
    | .vt _ => false
    | .bar _ => false
    | _ => true)

/-- A team is free to issue: no reply or acknowledgement that its last instruction needs is outstanding (R201, R239), the watchdog has not
reached its limit (R175), and the code where it stands is translated (R316). -/
def State.unheld (s : State) (w : Workgroup) (t : Team) : Bool :=
  t.remote.all (fun r => !r.holds) && (t.awaits.isNone || t.unacked.isEmpty) && t.wdog.toNat < wdogLimit &&
  !(t.leadPc.any (fun p => s.translating w.ctx p))

/-- A team can issue: its context runs, and in a cut only up to its STOP point (R374). -/
def State.canIssue (s : State) (w : Workgroup) (t : Team) : Bool :=
  w.st = .run && t.leadPc.isSome && s.unheld w t &&
  (match t.st with
   | .ready => true
   | .stall y => s.stallCleared w t y
   | _ => false) &&
  (match (s.getCtx w.ctx).map Context.st with
   | some .running => true
   | some .polite => true
   | some .cutting => !s.atStop w t
   | _ => false)

/-! Fetch. -/

/-- What a team does next: an instruction, or what the fetch itself makes of the state. -/
inductive Next where
  | instr (i : Instr)
  | state (s : State)

/-- A direct target that is no word 0 of the object makes the instruction a trap stub (R58, R73 item 10). -/
def CodeObj.directOk (o : CodeObj) (pc : Nat) (i : Instr) : Bool :=
  let goal := fun (x : Operand) => o.isStart (((pc : Int) + 8 * immOf x) % 2 ^ 57).toNat
  match i with
  | .bra e => goal e.a
  | .call e => goal e.a
  | .bzm e => goal e.a
  | .loop e => goal e.b
  | _ => true

/-- The instruction that the words at an address carry there. -/
def CodeObj.instrAt (o : CodeObj) (pc : Nat) (bs : List Byte) : Option Instr :=
  (decode bs).map (fun x =>
    if o.directOk pc x.1 then x.1
    else
      match encodeWords x.1 with
      | some (w0, ext) => .trapStubIssue w0 ext
      | none => x.1)

/-- Threads at the lead PC. -/
def Team.atLead (t : Team) (pc : Nat) : BitVec 32 := if t.fmask ≠ 0 then t.faulted pc else t.candidates pc

/-- A page that the code stands on is loaded on demand. -/
def State.codeWait (s : State) (o : CodeObj) (k : Nat) : State :=
  match State.demandPages o [k] s with
  | .done s1 => s1
  | .wait s1 => s1
  | .fatal s1 => s1

/-- What a fetch that finds no bytes makes of the state. -/
def State.fetchFails (s : State) (w : Workgroup) (t : Team) (o : CodeObj) (pc : Nat) : Fetched → State
  | .absent k => s.codeWait o k
  | _ => s.teamFatal w t (t.atLead pc) { mkFault clsIntegrity 0 0 with ppc := pc }

/-- The bytes of the portable instruction at an offset: word 0, and the extension word where X is set. -/
def State.fetchInstr (s : State) (o : CodeObj) (off : Nat) : Fetched :=
  match s.fetchBytes o off 8 with
  | .bytes bs => if Legal.xField (bytesNat bs) then s.fetchBytes o off 16 else .bytes bs
  | f => f

/-- Code that ends inside an instruction, or none at all (R167). -/
def State.offCode (s : State) (w : Workgroup) (t : Team) (pc : Nat) : State :=
  s.teamFatal w t (t.atLead pc) { mkFault clsIllegal 3 0 with ppc := pc }

/-- The code where a team stands has been found to hold a reserved code as it came into the instruction buffer (R90, R320, R322). -/
def State.foundReserved (s : State) (o : CodeObj) (pc : Nat) : Bool :=
  s.dir.any (fun d => d.reserved && d.identity = o.identity && d.off = o.fnStart pc - o.text && (d.st = .translated || d.st = .reoptimised))

/-- A team's next instruction at its lead PC. The object that holds the PC says in which form its code is (R2): after a transfer between a
native and a portable object the code is read in the form of the object it stands in (DEDUCED, log 121). -/
def State.nextOf (s : State) (w : Workgroup) (t : Team) : Next :=
  match t.leadPc with
  | none => .state s
  | some pc =>
    match s.objAt w.ctx pc with
    | none => .state (s.offCode w t pc)
    | some o =>
      if o.native then
        match s.fetchBytes o (pc - o.text) 16 with
        | .bytes hb =>
          if !t.nat.started then .instr (.clauseStart (headerOf (bytesNat hb)))
          else
            match s.fetchBytes o (pc - o.text + 16 + 32 * t.nat.bundle) 32 with
            | .bytes bb => .instr (.bundleIssue (bundleOf (bytesNat bb)))
            | f => .state (s.fetchFails w t o pc f)
        | f => .state (s.fetchFails w t o pc f)
      else if s.foundReserved o pc then .state (s.teamFatal w t (t.atLead pc) { mkFault clsIntegrity 2 0 with ppc := pc })
      else
        match s.fetchInstr o (pc - o.text) with
        | .bytes bs =>
          (match o.instrAt pc bs with
           | some i => .instr i
           | none => .state (s.offCode w t pc))
        | f => .state (s.fetchFails w t o pc f)

/-! Actions of the units. -/

/-- What can come next: a team's issue, or an action of a unit. -/
inductive Choice where
  | team (u i : Nat)
  | act (i : Instr)
  deriving DecidableEq, Repr

/-- What can happen to a team besides its issue. -/
def State.teamActs (s : State) (w : Workgroup) (t : Team) : List Instr :=
  (t.streams.filter (fun q => q.2.bound && !q.2.write && q.2.copy.isNone)).map (fun q => .streamElementArrival w.uid t.tix q.1) ++
  (if t.feedPos + t.feedBuf.length < s.feedLen w && t.feedBuf.length < 64 then [.feedValueArrival w.uid t.tix] else []) ++
  (t.comb.map CombEntry.block).eraseDups.map (fun b => .combiningDrainTimeout w.uid t.tix b) ++
  (if t.wdog.toNat ≥ wdogLimit && t.st ≠ .done then [.teamWatchdogExpiry w.uid t.tix] else []) ++
  (match t.st with
   | .stall (.sleepCc _) => [.sleepExpiry w.uid t.tix]
   | .stall (.sleepTai _) => [.sleepExpiry w.uid t.tix]
   | .replay (.page a) => [.demandFill w.ctx a]
   | _ => []) ++
  (List.range t.nat.outstanding.length).map (fun k => .longLatencyComplete w.uid t.tix k) ++
  (if s.inNative w t && ((s.getCtx w.ctx).map Context.st) = some .cutting then [.cutBackTimeout w.uid t.tix] else [])

/-- What a workgroup and its teams can do. -/
def State.wgChoices (s : State) (w : Workgroup) : List Choice :=
  (w.teams.filter (fun t => s.canIssue w t)).map (fun t => .team w.uid t.tix) ++
  (w.teams.flatMap (fun t => s.teamActs w t)).map .act ++
  (if s.wgOver w then [.act (.workgroupDone w.uid)] else []) ++
  (if ((s.getCtx w.ctx).map Context.st) = some .cutting then [.act (.workgroupSave w.uid)] else [])

/-- What an operation can do. -/
def Op.acts (o : Op) : List Instr :=
  match o.body with
  | .press b =>
    (if o.st = .queued then [.pressActivate o.id] else []) ++
    b.started.map (fun x => .microtileRetire o.id x.step)
  | .copy b =>
    if o.st ≠ .busy && o.st ≠ .killed then []
    else if b.kind = 3 then [.ringTailAdvance o.id, .copyComplete o.id 0] else [.copyComplete o.id 0, .copyComplete o.id (b.total - b.idx)]
  | .rpart _ => if o.st = .busy then [.rpartJoin o.id, .rpartComplete o.id] else []

/-- What the queue processor can do. -/
def State.queueActs (s : State) : List Instr :=
  (s.queues.filter (fun q => q.st = .active && q.ridx < q.widx)).flatMap (fun q =>
    [.parsePad q.id, .parseLaunch q.id, .parseLoad q.id, .parseUnload q.id, .parseJoin q.id]) ++
  s.nodes.map (fun n => .nodeComplete n.id) ++
  (s.objects.filter (fun o => o.st = .unloading)).map (fun o => .unloadComplete o.handle) ++
  (if s.passDue then [.distributorPass] else []) ++
  (s.dir.filter (fun d => d.st = .translating)).map (fun d => .translationComplete d.id) ++
  (s.dir.filter (fun d => d.st = .hot)).map (fun d => .reoptimisationComplete d.id)

/-- What a context can meet. -/
def Context.acts (x : Context) : List Instr :=
  (if x.st = .polite then [.politeWindowExpiry x.id] else []) ++
  (if x.gangPending.isSome then [.gangInstant x.id, .gangGraceExpiry x.id] else [])

/-- What memory and the link can do. -/
def State.linkActs (s : State) : List Instr :=
  s.misses.flatMap (fun m => [.demandFill m.2.1 (m.2.2 * 2 ^ 18), .tlbMissWalk m.2.1 (virtualNo m.1 0) (m.2.2 * 2 ^ 18)]) ++
  (if s.trained then [.rotorSlot] else []) ++
  s.sendStore.flatMap (fun o => [.retransmitTimeout o.p.dst o.p.seq, .peerUnreachable o.p.dst]) ++
  (s.peers.filter (fun p => p.refused.isSome)).map (fun p => .keyExhaustTimeout p.id) ++
  (if s.clockMode = 1 then [.holdoverExpiry] else []) ++
  s.bad.map .scrubbing

/-- What the arrays can do: the step that starts next on a core (R244), and the end of a direct micro-tile. -/
def State.arrayActs (s : State) : List Instr :=
  s.cores.filterMap (fun k => (s.nextStart k).map (fun x => .microtileStart x.1 x.2)) ++
  (s.cores.filter (fun k => k.directStarted ≠ [])).map (fun k => .microtileRetire 0 k.id)

/-- Everything that can come next. -/
def State.choices (s : State) : List Choice :=
  s.wgs.flatMap (fun w => s.wgChoices w) ++
  (s.ops.flatMap Op.acts ++ s.arrayActs ++ s.queueActs ++ s.contexts.flatMap Context.acts ++ s.linkActs).map .act

/-- The choice made; where only one thing can come next, that one. -/
def State.choose (s : State) : Option Choice × State :=
  match s.choices with
  | [] => (none, s)
  | [x] => (some x, s)
  | x :: r =>
    let y := s.freeValue
    (some ((x :: r).getD (y.1.toNat % (r.length + 1)) x), y.2)

/-! The pieces of a step. -/

/-- The team that the state names to issue next, if it can. -/
def State.named (s : State) : Option (Workgroup × Team) :=
  match s.issuer with
  | some (w, t) => if s.canIssue w t then some (w, t) else none
  | none => none

/-- No team issues. -/
def State.idle (s : State) : State := { s with cur := none }

/-- What comes next when the environment does nothing: an instruction with the state it acts on, or the next state itself. -/
def State.pick (s : State) : State × Next :=
  match s.named with
  | some (w, t) => (s, s.nextOf w t)
  | none =>
    let x := s.idle.choose
    match x.1 with
    | none => (x.2, .state x.2)
    | some (.act i) => (x.2, .instr i)
    | some (.team u k) =>
      let s1 : State := { x.2 with cur := some (u, k) }
      match s1.issuer with
      | some (w, t) => (s1, s1.nextOf w t)
      | none => (s1, .state s1)

/-- A step's outcome with no team named to issue next. -/
def settled : Host.Outcome State Fault Refusal → Host.Outcome State Fault Refusal
  | .next s => .next s.idle
  | .fault f => .fault f
  | .refused r => .refused r

/-- A step's outcome with the time that has passed. -/
def passed : Host.Outcome State Fault Refusal → Host.Outcome State Fault Refusal
  | .next s => .next s.tick
  | .fault f => .fault f
  | .refused r => .refused r

/-! Placing one instruction where the next step fetches it. -/

/-- The address of the code that `placeCode` puts into a context's space. -/
def probeText : Nat := 2 ^ 18

/-- A code object whose `.text` is given bytes, verified. -/
def probeObj (bs : List Byte) : CodeObj :=
  { handle := 0, ctx := 0, st := .loaded, order := 0, identity := 0, native := false, priv := false, text := probeText,
    textSize := bs.length, digests := [], image := bs, kernels := natBytes 64 0, streams := [], rings := [], nests := [], side := [],
    syms := [], linkage := [], ranges := [], unloadNode := none, gangKey := none }

/-- A workgroup of one team of one thread that stands at the code, on core 0. -/
def probeWg (bs : List Byte) : Workgroup :=
  { uid := 0, ctx := 0, node := 0, core := 0, wgx := 0, nbId := 0, nbx := 0, nbPosX := 0, nbPosY := 0, nbW := 1, nbH := 1,
    triple := { b0 := 0, b1 := 0, b2 := 0, n := 1, wmax := 1 }, st := .run,
    teams := [(Team.fresh 0 0 0 1 probeText [] false).zeroed], teamSize := 1, sw := 0, scratch := [],
    rings := ringsOf [] bs, bars := [], chans := List.replicate 16 [], vt := 0, vat := [], priv := 0, obj := 0, kernel := 0, pressStop := false }

/-- The state with the code verified, a context, a core and a workgroup whose one team is the next to issue. -/
def State.placeCode (s : State) (bs : List Byte) : State :=
  { s with
    bootStage := 4, booting := none, power := .d0, recovering := [], agenda := []
    cores := (if (s.getCore 0).isSome then s.cores else newCore 0 1 :: s.cores)
    contexts := newContext 0 0 [] :: s.contexts.filter (fun x => x.id ≠ 0)
    objects := probeObj bs :: s.objects.filter (fun o => o.handle ≠ 0)
    codePages := { identity := 0, page := 0, bytes := some bs } :: s.codePages.filter (fun p => p.identity ≠ 0)
    wgs := probeWg [] :: s.wgs.filter (fun w => w.uid ≠ 0)
    cur := some (0, 0) }

end Sys2Proof.Machine
end

