-- ==== Sys2Proof/Machine/Dispatch.lean ====
section
/-! DEFINITION. The meaning of every instruction, arm by arm. -/
namespace Sys2Proof.Machine

def exec (i : Instr) (s : State) : Host.Outcome State Fault Refusal :=
  match i with
  | .mov e => Sys2Proof.Machine.execMov e s
  | .movi e lit => Sys2Proof.Machine.execMovi e lit s
  | .add e => Sys2Proof.Machine.execAdd e s
  | .sub e => Sys2Proof.Machine.execSub e s
  | .addc e => Sys2Proof.Machine.execAddc e s
  | .subb e => Sys2Proof.Machine.execSubb e s
  | .mul e => Sys2Proof.Machine.execMul e s
  | .mulhi e => Sys2Proof.Machine.execMulhi e s
  | .mad e => Sys2Proof.Machine.execMad e s
  | .madhi e => Sys2Proof.Machine.execMadhi e s
  | .div e => Sys2Proof.Machine.execDiv e s
  | .rem e => Sys2Proof.Machine.execRem e s
  | .neg e => Sys2Proof.Machine.execNeg e s
  | .abs e => Sys2Proof.Machine.execAbs e s
  | .min e => Sys2Proof.Machine.execMin e s
  | .max e => Sys2Proof.Machine.execMax e s
  | .clamp e => Sys2Proof.Machine.execClamp e s
  | .sad e => Sys2Proof.Machine.execSad e s
  | .and e => Sys2Proof.Machine.execAnd e s
  | .or e => Sys2Proof.Machine.execOr e s
  | .xor e => Sys2Proof.Machine.execXor e s
  | .not e => Sys2Proof.Machine.execNot e s
  | .andn e => Sys2Proof.Machine.execAndn e s
  | .shl e => Sys2Proof.Machine.execShl e s
  | .shr e => Sys2Proof.Machine.execShr e s
  | .sar e => Sys2Proof.Machine.execSar e s
  | .rotl e => Sys2Proof.Machine.execRotl e s
  | .rotr e => Sys2Proof.Machine.execRotr e s
  | .clz e => Sys2Proof.Machine.execClz e s
  | .ctz e => Sys2Proof.Machine.execCtz e s
  | .popc e => Sys2Proof.Machine.execPopc e s
  | .brev e => Sys2Proof.Machine.execBrev e s
  | .bfe e => Sys2Proof.Machine.execBfe e s
  | .bfi e => Sys2Proof.Machine.execBfi e s
  | .sel e => Sys2Proof.Machine.execSel e s
  | .setp e => Sys2Proof.Machine.execSetp e s
  | .lea e => Sys2Proof.Machine.execLea e s
  | .mad24 e => Sys2Proof.Machine.execMad24 e s
  | .fadd e => Sys2Proof.Machine.execFadd e s
  | .fsub e => Sys2Proof.Machine.execFsub e s
  | .fmul e => Sys2Proof.Machine.execFmul e s
  | .fma e => Sys2Proof.Machine.execFma e s
  | .fmin e => Sys2Proof.Machine.execFmin e s
  | .fmax e => Sys2Proof.Machine.execFmax e s
  | .fabs e => Sys2Proof.Machine.execFabs e s
  | .fneg e => Sys2Proof.Machine.execFneg e s
  | .fsgn e => Sys2Proof.Machine.execFsgn e s
  | .fsetp e => Sys2Proof.Machine.execFsetp e s
  | .fclass e => Sys2Proof.Machine.execFclass e s
  | .frnd e => Sys2Proof.Machine.execFrnd e s
  | .frcp e => Sys2Proof.Machine.execFrcp e s
  | .frsq e => Sys2Proof.Machine.execFrsq e s
  | .fsqrt e => Sys2Proof.Machine.execFsqrt e s
  | .fdiv e => Sys2Proof.Machine.execFdiv e s
  | .fexp2 e => Sys2Proof.Machine.execFexp2 e s
  | .flog2 e => Sys2Proof.Machine.execFlog2 e s
  | .fsin e => Sys2Proof.Machine.execFsin e s
  | .fcos e => Sys2Proof.Machine.execFcos e s
  | .ftanh e => Sys2Proof.Machine.execFtanh e s
  | .fscale e => Sys2Proof.Machine.execFscale e s
  | .fexpo e => Sys2Proof.Machine.execFexpo e s
  | .frcpa e => Sys2Proof.Machine.execFrcpa e s
  | .cvt e => Sys2Proof.Machine.execCvt e s
  | .pack e => Sys2Proof.Machine.execPack e s
  | .prm e => Sys2Proof.Machine.execPrm e s
  | .dot2 e => Sys2Proof.Machine.execDot2 e s
  | .dot4 e => Sys2Proof.Machine.execDot4 e s
  | .dot8 e => Sys2Proof.Machine.execDot8 e s
  | .lcdec e => Sys2Proof.Machine.execLcdec e s
  | .bra e => Sys2Proof.Machine.execBra e s
  | .brx e => Sys2Proof.Machine.execBrx e s
  | .call e => Sys2Proof.Machine.execCall e s
  | .callx e => Sys2Proof.Machine.execCallx e s
  | .ret e => Sys2Proof.Machine.execRet e s
  | .exit e => Sys2Proof.Machine.execExit e s
  | .loop e => Sys2Proof.Machine.execLoop e s
  | .endloop e => Sys2Proof.Machine.execEndloop e s
  | .yield e => Sys2Proof.Machine.execYield e s
  | .reconv e => Sys2Proof.Machine.execReconv e s
  | .rjoin e => Sys2Proof.Machine.execRjoin e s
  | .mpush e => Sys2Proof.Machine.execMpush e s
  | .minv e => Sys2Proof.Machine.execMinv e s
  | .mpop e => Sys2Proof.Machine.execMpop e s
  | .bzm e => Sys2Proof.Machine.execBzm e s
  | .dqpop e => Sys2Proof.Machine.execDqpop e s
  | .nop e => Sys2Proof.Machine.execNop e s
  | .brk e => Sys2Proof.Machine.execBrk e s
  | .trap e => Sys2Proof.Machine.execTrap e s
  | .xprev e => Sys2Proof.Machine.execXprev e s
  | .xnext e => Sys2Proof.Machine.execXnext e s
  | .xbcast e => Sys2Proof.Machine.execXbcast e s
  | .xscan e => Sys2Proof.Machine.execXscan e s
  | .xred e => Sys2Proof.Machine.execXred e s
  | .ballot e => Sys2Proof.Machine.execBallot e s
  | .vote e => Sys2Proof.Machine.execVote e s
  | .xmatch e => Sys2Proof.Machine.execXmatch e s
  | .tidx e => Sys2Proof.Machine.execTidx e s
  | .actc e => Sys2Proof.Machine.execActc e s
  | .ld e => Sys2Proof.Machine.execLd e s
  | .st e => Sys2Proof.Machine.execSt e s
  | .ldg e => Sys2Proof.Machine.execLdg e s
  | .stsc e => Sys2Proof.Machine.execStsc e s
  | .cst e => Sys2Proof.Machine.execCst e s
  | .exl e => Sys2Proof.Machine.execExl e s
  | .atom e => Sys2Proof.Machine.execAtom e s
  | .red e => Sys2Proof.Machine.execRed e s
  | .fence e => Sys2Proof.Machine.execFence e s
  | .pf e => Sys2Proof.Machine.execPf e s
  | .cinv e => Sys2Proof.Machine.execCinv e s
  | .cwb e => Sys2Proof.Machine.execCwb e s
  | .sbind e => Sys2Proof.Machine.execSbind e s
  | .sclose e => Sys2Proof.Machine.execSclose e s
  | .ldsh w0 x => Sys2Proof.Machine.execLdsh w0 x s
  | .cpy e => Sys2Proof.Machine.execCpy e s
  | .cpyt e => Sys2Proof.Machine.execCpyt e s
  | .cpyg e => Sys2Proof.Machine.execCpyg e s
  | .ringpush e => Sys2Proof.Machine.execRingpush e s
  | .kvpatch e => Sys2Proof.Machine.execKvpatch e s
  | .rerot e => Sys2Proof.Machine.execRerot e s
  | .cwait e => Sys2Proof.Machine.execCwait e s
  | .cstat e => Sys2Proof.Machine.execCstat e s
  | .fmt e => Sys2Proof.Machine.execFmt e s
  | .nestw e => Sys2Proof.Machine.execNestw e s
  | .pgo e => Sys2Proof.Machine.execPgo e s
  | .pwait e => Sys2Proof.Machine.execPwait e s
  | .pstat e => Sys2Proof.Machine.execPstat e s
  | .vclr e => Sys2Proof.Machine.execVclr e s
  | .vld e => Sys2Proof.Machine.execVld e s
  | .vst e => Sys2Proof.Machine.execVst e s
  | .vacc e => Sys2Proof.Machine.execVacc e s
  | .ringinit e => Sys2Proof.Machine.execRinginit e s
  | .ringstat e => Sys2Proof.Machine.execRingstat e s
  | .pdirMt tile a b => Sys2Proof.Machine.execPdirMt tile a b s
  | .pmma w0 x => Sys2Proof.Machine.execPmma w0 x s
  | .binit e => Sys2Proof.Machine.execBinit e s
  | .barr e => Sys2Proof.Machine.execBarr e s
  | .bwait e => Sys2Proof.Machine.execBwait e s
  | .bsync e => Sys2Proof.Machine.execBsync e s
  | .blink e => Sys2Proof.Machine.execBlink e s
  | .binv e => Sys2Proof.Machine.execBinv e s
  | .btest e => Sys2Proof.Machine.execBtest e s
  | .bwt w0 x => Sys2Proof.Machine.execBwt w0 x s
  | .srd e => Sys2Proof.Machine.execSrd e s
  | .swr e => Sys2Proof.Machine.execSwr e s
  | .clk e => Sys2Proof.Machine.execClk e s
  | .nsend e => Sys2Proof.Machine.execNsend e s
  | .nrecv e => Sys2Proof.Machine.execNrecv e s
  | .rpart e => Sys2Proof.Machine.execRpart e s
  | .wdraw e => Sys2Proof.Machine.execWdraw e s
  | .prof e => Sys2Proof.Machine.execProf e s
  | .halt e => Sys2Proof.Machine.execHalt e s
  | .sleep e => Sys2Proof.Machine.execSleep e s
  | .trapStubIssue w0 x => Sys2Proof.Machine.execTrapStubIssue w0 x s
  | .clauseStart h => Sys2Proof.Machine.execClauseStart h s
  | .bundleIssue b => Sys2Proof.Machine.execBundleIssue b s
  | .longLatencyComplete wg tix k => Sys2Proof.Machine.execLongLatencyComplete wg tix k s
  | .streamElementArrival wg tix q => Sys2Proof.Machine.execStreamElementArrival wg tix q s
  | .combiningDrainTimeout wg tix block => Sys2Proof.Machine.execCombiningDrainTimeout wg tix block s
  | .teamWatchdogExpiry wg tix => Sys2Proof.Machine.execTeamWatchdogExpiry wg tix s
  | .sleepExpiry wg tix => Sys2Proof.Machine.execSleepExpiry wg tix s
  | .pressActivate op => Sys2Proof.Machine.execPressActivate op s
  | .microtileStart op step => Sys2Proof.Machine.execMicrotileStart op step s
  | .microtileRetire op step => Sys2Proof.Machine.execMicrotileRetire op step s
  | .ringTailAdvance op => Sys2Proof.Machine.execRingTailAdvance op s
  | .copyComplete op n => Sys2Proof.Machine.execCopyComplete op n s
  | .rpartJoin op => Sys2Proof.Machine.execRpartJoin op s
  | .rpartComplete op => Sys2Proof.Machine.execRpartComplete op s
  | .workgroupDone wg => Sys2Proof.Machine.execWorkgroupDone wg s
  | .nodeComplete node => Sys2Proof.Machine.execNodeComplete node s
  | .queKick q w => Sys2Proof.Machine.execQueKick q w s
  | .parsePad q => Sys2Proof.Machine.execParsePad q s
  | .parseLaunch q => Sys2Proof.Machine.execParseLaunch q s
  | .parseLoad q => Sys2Proof.Machine.execParseLoad q s
  | .parseUnload q => Sys2Proof.Machine.execParseUnload q s
  | .parseJoin q => Sys2Proof.Machine.execParseJoin q s
  | .unloadComplete obj => Sys2Proof.Machine.execUnloadComplete obj s
  | .queWdraw x => Sys2Proof.Machine.execQueWdraw x s
  | .translationComplete entry => Sys2Proof.Machine.execTranslationComplete entry s
  | .reoptimisationComplete entry => Sys2Proof.Machine.execReoptimisationComplete entry s
  | .stokerFailure k => Sys2Proof.Machine.execStokerFailure k s
  | .coreRetirement core => Sys2Proof.Machine.execCoreRetirement core s
  | .ctxCreate c r => Sys2Proof.Machine.execCtxCreate c r s
  | .ctxDestroy c r => Sys2Proof.Machine.execCtxDestroy c r s
  | .ctxPreempt c r => Sys2Proof.Machine.execCtxPreempt c r s
  | .ctxResume c r => Sys2Proof.Machine.execCtxResume c r s
  | .qcreate c r => Sys2Proof.Machine.execQcreate c r s
  | .qdestroy c r => Sys2Proof.Machine.execQdestroy c r s
  | .qreset c r => Sys2Proof.Machine.execQreset c r s
  | .readsave c r => Sys2Proof.Machine.execReadsave c r s
  | .gangrec c r => Sys2Proof.Machine.execGangrec c r s
  | .dbgcont c r => Sys2Proof.Machine.execDbgcont c r s
  | .rearm c r => Sys2Proof.Machine.execRearm c r s
  | .politeWindowExpiry c => Sys2Proof.Machine.execPoliteWindowExpiry c s
  | .cutBackTimeout wg tix => Sys2Proof.Machine.execCutBackTimeout wg tix s
  | .workgroupSave wg => Sys2Proof.Machine.execWorkgroupSave wg s
  | .pageMap c b => Sys2Proof.Machine.execPageMap c b s
  | .pageUnmap c b => Sys2Proof.Machine.execPageUnmap c b s
  | .pageProt c b => Sys2Proof.Machine.execPageProt c b s
  | .pageEvict c b => Sys2Proof.Machine.execPageEvict c b s
  | .pageMigrate c b => Sys2Proof.Machine.execPageMigrate c b s
  | .pageQuery c b => Sys2Proof.Machine.execPageQuery c b s
  | .demandFill c va => Sys2Proof.Machine.execDemandFill c va s
  | .tlbMissWalk c core va => Sys2Proof.Machine.execTlbMissWalk c core va s
  | .linkRead p => Sys2Proof.Machine.execLinkRead p s
  | .linkWrite p => Sys2Proof.Machine.execLinkWrite p s
  | .linkAtomic p => Sys2Proof.Machine.execLinkAtomic p s
  | .linkReply p => Sys2Proof.Machine.execLinkReply p s
  | .linkAck p => Sys2Proof.Machine.execLinkAck p s
  | .linkRpart p => Sys2Proof.Machine.execLinkRpart p s
  | .linkControl p m => Sys2Proof.Machine.execLinkControl p m s
  | .gangAbortReceived c gangid gen missing => Sys2Proof.Machine.execGangAbortReceived c gangid gen missing s
  | .retransmitTimeout dst seq => Sys2Proof.Machine.execRetransmitTimeout dst seq s
  | .peerUnreachable dst => Sys2Proof.Machine.execPeerUnreachable dst s
  | .lightDetected port => Sys2Proof.Machine.execLightDetected port s
  | .portTrained port slot => Sys2Proof.Machine.execPortTrained port slot s
  | .trainTimeout port => Sys2Proof.Machine.execTrainTimeout port s
  | .flitCrcFail port => Sys2Proof.Machine.execFlitCrcFail port s
  | .lossOfLight port => Sys2Proof.Machine.execLossOfLight port s
  | .portRetrain port => Sys2Proof.Machine.execPortRetrain port s
  | .lnkKeyld addr => Sys2Proof.Machine.execLnkKeyld addr s
  | .keyExhaustTimeout peer => Sys2Proof.Machine.execKeyExhaustTimeout peer s
  | .ptpMessage offset => Sys2Proof.Machine.execPtpMessage offset s
  | .gangInstant c => Sys2Proof.Machine.execGangInstant c s
  | .gangGraceExpiry c => Sys2Proof.Machine.execGangGraceExpiry c s
  | .ctxFqWrite c x => Sys2Proof.Machine.execCtxFqWrite c x s
  | .hostRegisterWrite off x => Sys2Proof.Machine.execHostRegisterWrite off x s
  | .hostMemoryWrite addr bytes => Sys2Proof.Machine.execHostMemoryWrite addr bytes s
  | .hostMemoryRead addr n => Sys2Proof.Machine.execHostMemoryRead addr n s
  | .mgmtIdent signed => Sys2Proof.Machine.execMgmtIdent signed s
  | .mgmtSetid signed id => Sys2Proof.Machine.execMgmtSetid signed id s
  | .mgmtReset signed b => Sys2Proof.Machine.execMgmtReset signed b s
  | .powerUp b => Sys2Proof.Machine.execPowerUp b s
  | .perst b => Sys2Proof.Machine.execPerst b s
  | .hotReset b => Sys2Proof.Machine.execHotReset b s
  | .functionLevelReset b => Sys2Proof.Machine.execFunctionLevelReset b s
  | .fwWatchdogExpiry die => Sys2Proof.Machine.execFwWatchdogExpiry die s
  | .pkgOverChange above => Sys2Proof.Machine.execPkgOverChange above s
  | .softError at_ => Sys2Proof.Machine.execSoftError at_ s
  | .scrubbing at_ => Sys2Proof.Machine.execScrubbing at_ s
  | .feedValueArrival wg tix => Sys2Proof.Machine.execFeedValueArrival wg tix s
  | .pdirOn => Sys2Proof.Machine.execPdirOn s
  | .pdirOff => Sys2Proof.Machine.execPdirOff s
  | .distributorPass => Sys2Proof.Machine.execDistributorPass s
  | .rotorSlot => Sys2Proof.Machine.execRotorSlot s
  | .ptpLockAchieved => Sys2Proof.Machine.execPtpLockAchieved s
  | .ptpLockLost => Sys2Proof.Machine.execPtpLockLost s
  | .holdoverExpiry => Sys2Proof.Machine.execHoldoverExpiry s
  | .thermalWarning => Sys2Proof.Machine.execThermalWarning s
  | .thermalTrip => Sys2Proof.Machine.execThermalTrip s
  | .d3hotEntry => Sys2Proof.Machine.execD3hotEntry s
  | .d0Return => Sys2Proof.Machine.execD0Return s
  | .firmwareUpdate => Sys2Proof.Machine.execFirmwareUpdate s
  | .powerLoss => Sys2Proof.Machine.execPowerLoss s

end Sys2Proof.Machine
end

