-- ==== Sys2Proof/Machine/Step.lean ====
section
/-! DEFINITION. One step of the package, and how one instruction is placed where the next step runs it. -/
namespace Sys2Proof.Machine

/-- One step: the next action of the agenda takes place, or, with none left, what the package itself does next; then time passes. -/
def step (s : State) : Host.Outcome State Fault Refusal :=
  passed (match s.agenda with
    | i :: rest => exec i { s with agenda := rest }
    | [] =>
      match s.pick with
      | (s1, .instr i) => settled (exec i s1)
      | (_, .state s2) => .next s2.idle)

/-- The instruction whose bits are `w`, the bits above `nbits` zero, where the next step fetches it. -/
def State.withFetchWord (s : State) (nbits w : Nat) : State := s.placeCode (leBytes 16 (w % 2 ^ nbits))

end Sys2Proof.Machine
end

