-- ==== Sys2Proof/Safety.lean ====
section
/-! DEFINITION. What a safe step and a safe run are, what holds of every state that a run reaches, and the terms in which the
statements speak of an issue. -/
namespace Sys2Proof

open Machine

/-- A step goes on: it neither stops with a fault nor is refused. -/
def stepSafe (s : State) : Prop := ∃ t, step s = .next t

/-- Every step of the first `n` goes on. -/
def runSafe : Nat → State → Prop
  | 0, _ => True
  | n + 1, s => ∃ t, step s = .next t ∧ runSafe n t

end Sys2Proof

namespace Sys2Proof.Machine

/-- The invariant of the package: its memories are in canonical form; `SYS_BOOT.PKG` reads 0xFF until SETID and an ID of 0 to 191
after it (R444); the counters of `SYS_MEMERR` stop at their greatest value (R218); GEN is never 0 (R332); the clock is in one of its
three modes (R378); and a boot shows ROM, READY or FAILED between two steps (R445). -/
structure State.Inv (s : State) : Prop where
  dram : spWf 0 s.dram = true
  hostMem : spWf 0 s.hostMem = true
  reqBytes : spWf 0 s.reqBytes = true
  pkg : if s.idSet then s.pkg ≤ 191 else s.pkg = 0xFF
  memCe : s.memCe ≤ 2 ^ 32 - 1
  memUe : s.memUe ≤ 65535
  featGen : s.featGen ≠ 0
  clock : s.clockMode ≤ 2
  stage : s.bootStage ≤ 4 ∨ s.bootStage = 7

/-! The terms of an issue (R160). -/

/-- A team issues a portable instruction at its lead PC, with no fault held for delivery and no acknowledgement awaited. -/
structure Issuing (s : State) (w : Workgroup) (t : Team) (pc : Nat) : Prop where
  issuer : s.issuer = some (w, t)
  lead : t.leadPc = some pc
  noFaults : t.pendFaults = []
  portable : t.nat.started = false ∧ t.nat.deferring = false
  noAwait : t.awaits = none

/-- The streams that an instruction reads meet no range lock: it names none, or no core holds a lock of written bytes (R235). -/
def streamsFree (s : State) (e : Enc) : Prop :=
  (noStream e.a = true ∧ noStream e.b = true ∧ noStream e.c = true) ∨ ∀ k ∈ s.cores, ∀ l ∈ k.locks, l.write = false

/-- The lines of a core's L1, and those that `n` bytes at a physical address touch, fit its share of the pool (R193, R199). -/
def State.roomFor (s : State) (core pa n : Nat) : Prop :=
  ∀ k, s.getCore core = some k → 128 * (k.l1Lines.length + ((pa + n - 1) / 128 - pa / 128 + 1)) ≤ k.l1Share

/-- The issue of a portable instruction as it starts. -/
def starts (s : State) (w : Workgroup) (t : Team) (pc : Nat) (e : Enc) : Run := beginIssue s w t pc (lenOf e) e.g e.gn

/-- A source operand of thread `i` as a team holds it, with the team after the read: only a stream register changes by being read, and
only one with an element fetched without a fault can be read (R61 to R64, R123, R214). -/
def Team.source (t : Team) (i : Nat) (o : Operand) (ty w k : Nat) (pair : Bool) : Option (Nat × Team) :=
  match o with
  | .v n => some (if pair then pairVal (t.vGet i n.toNat) (t.vGet i (n.toNat + 1)) else selSrc w k (t.vGet i n.toNat).toNat, t)
  | .s n => some (if pair then pairVal (t.sGet n.toNat) (t.sGet (n.toNat + 1)) else selSrc w k (t.sGet n.toNat).toNat, t)
  | .zero => some (0, t)
  | .p n => some (if t.pGet i n.toNat then 1 else 0, t)
  | .imm n => some (immVal ty n, t)
  | .bar n => some (n.toNat, t)
  | .ring n => some (n.toNat, t)
  | .vt n => some (n.toNat, t)
  | .tk n => some (n.toNat, t)
  | .q n =>
    let q := t.stream n.toNat
    match q.buf with
    | [] => none
    | x :: r =>
      if q.bound ∧ q.write = false ∧ x.fault = none then
        some (streamVal ty q.esz x.val, t.setStream n.toNat { q with buf := r, pos := q.pos + 1 })
      else none

/-- The team after a result of thread `i` is written to a destination that is no stream register (R72, R123). -/
def Team.result (t : Team) (i : Nat) (o : Operand) (w k : Nat) (pair : Bool) (x : Nat) : Team :=
  match o with
  | .v n =>
    if pair then (t.vSet i n.toNat (BitVec.ofNat 32 x)).vSet i (n.toNat + 1) (BitVec.ofNat 32 (x / 2 ^ 32))
    else t.vSet i n.toNat (BitVec.ofNat 32 (selDst w k (t.vGet i n.toNat).toNat x))
  | .s n =>
    if pair then (t.sSet n.toNat (BitVec.ofNat 32 x)).sSet (n.toNat + 1) (BitVec.ofNat 32 (x / 2 ^ 32))
    else t.sSet n.toNat (BitVec.ofNat 32 (selDst w k (t.sGet n.toNat).toNat x))
  | .p n => t.pSet i n.toNat (x % 2 = 1)
  | _ => t

/-- What one part of an arithmetic instruction reads and computes: A, B and C are read in that order (R63, R123 to R125). -/
def aluRead (op : Nat) (e : Enc) (f : Nat → Nat → Nat → AluOut) (t : Team) (i : Nat) : Option (Team × AluOut) :=
  let ts := readTypes op e
  let ws := Legal.selWidths op e
  let ps := Legal.pairs op e
  let u := usedFields op e
  (if u.2.1 then t.source i e.a ts.1 ws.2.1 e.selA.toNat ps.2.1 else some (0, t)).bind (fun a =>
  (if u.2.2.1 then a.2.source i e.b ts.2.1 ws.2.2.1 e.selB.toNat ps.2.2.1 else some (0, a.2)).bind (fun b =>
  (if u.2.2.2 then b.2.source i e.c ts.2.2 ws.2.2.2 e.selC.toNat ps.2.2.2 else some (0, b.2)).bind (fun c =>
    some (c.2, f a.1 b.1 c.1))))

/-- The team after one part of an arithmetic instruction: D is written, then the predicate C where the operation gives it a value, and
the flags are added. -/
def aluPart (op : Nat) (e : Enc) (f : Nat → Nat → Nat → AluOut) (t : Team) (i : Nat) : Option Team :=
  (aluRead op e f t i).bind (fun y =>
    let t1 := y.1.result i e.d (Legal.selWidths op e).1 e.selD.toNat (Legal.pairs op e).1 y.2.d
    let t2 := { t1 with fstat := t1.fstat ||| y.2.fl }
    some (match y.2.pc, e.c with
      | some b, .p n => t2.pSet i n.toNat b
      | _, _ => t2))

/-- The team after all parts of an arithmetic instruction, in their order. -/
def aluParts (op : Nat) (e : Enc) (f : Nat → Nat → Nat → AluOut) : List (Nat × BitVec 32) → Team → Option Team
  | [], t => some t
  | x :: r, t => (aluPart op e f t x.1).bind (aluParts op e f r)

/-- The arithmetic instructions: major opcode, fields, and what D, C and the flags become from the values of A, B and C. The dot
products take the rule set in force on the core (R44). -/
def aluOf (s : State) (w : Workgroup) : Instr → Option (Nat × Enc × (Nat → Nat → Nat → AluOut))
  | .mov e => some (0x000, e, aluMov e)
  | .add e => some (0x002, e, aluAdd e)
  | .sub e => some (0x003, e, aluSub e)
  | .addc e => some (0x004, e, aluAddc e)
  | .subb e => some (0x005, e, aluSubb e)
  | .mul e => some (0x006, e, aluMul e)
  | .mulhi e => some (0x007, e, aluMulhi e)
  | .mad e => some (0x008, e, aluMad e)
  | .madhi e => some (0x009, e, aluMadhi e)
  | .div e => some (0x00A, e, aluDiv e)
  | .rem e => some (0x00B, e, aluRem e)
  | .neg e => some (0x00C, e, aluNeg e)
  | .abs e => some (0x00D, e, aluAbs e)
  | .min e => some (0x00E, e, aluMin e)
  | .max e => some (0x00F, e, aluMax e)
  | .clamp e => some (0x010, e, aluClamp e)
  | .sad e => some (0x011, e, aluSad e)
  | .and e => some (0x012, e, aluAnd e)
  | .or e => some (0x013, e, aluOr e)
  | .xor e => some (0x014, e, aluXor e)
  | .not e => some (0x015, e, aluNot e)
  | .andn e => some (0x016, e, aluAndn e)
  | .shl e => some (0x017, e, aluShl e)
  | .shr e => some (0x018, e, aluShr e)
  | .sar e => some (0x019, e, aluSar e)
  | .rotl e => some (0x01A, e, aluRotl e)
  | .rotr e => some (0x01B, e, aluRotr e)
  | .clz e => some (0x01C, e, aluClz e)
  | .ctz e => some (0x01D, e, aluCtz e)
  | .popc e => some (0x01E, e, aluPopc e)
  | .brev e => some (0x01F, e, aluBrev e)
  | .bfe e => some (0x020, e, aluBfe e)
  | .bfi e => some (0x021, e, aluBfi e)
  | .sel e => some (0x022, e, aluSel e)
  | .setp e => some (0x023, e, aluSetp e)
  | .lea e => some (0x024, e, aluLea e)
  | .fadd e => some (0x040, e, aluFadd e)
  | .fsub e => some (0x041, e, aluFsub e)
  | .fmul e => some (0x042, e, aluFmul e)
  | .fma e => some (0x043, e, aluFma e)
  | .fmin e => some (0x044, e, aluFmin e)
  | .fmax e => some (0x045, e, aluFmax e)
  | .fabs e => some (0x046, e, aluFabs e)
  | .fneg e => some (0x047, e, aluFneg e)
  | .fsgn e => some (0x048, e, aluFsgn e)
  | .fsetp e => some (0x049, e, aluFsetp e)
  | .fclass e => some (0x04A, e, aluFclass e)
  | .frnd e => some (0x04B, e, aluFrnd e)
  | .frcp e => some (0x04C, e, aluFrcp e)
  | .frsq e => some (0x04D, e, aluFrsq e)
  | .fsqrt e => some (0x04E, e, aluFsqrt e)
  | .fdiv e => some (0x04F, e, aluFdiv e)
  | .fexp2 e => some (0x050, e, aluFexp2 e)
  | .flog2 e => some (0x051, e, aluFlog2 e)
  | .fsin e => some (0x052, e, aluFsin e)
  | .fcos e => some (0x053, e, aluFcos e)
  | .ftanh e => some (0x054, e, aluFtanh e)
  | .fscale e => some (0x055, e, aluFscale e)
  | .fexpo e => some (0x056, e, aluFexpo e)
  | .cvt e => some (0x080, e, aluCvt e)
  | .pack e => some (0x081, e, aluPack e)
  | .prm e => some (0x082, e, aluPrm e)
  | .dot2 e => some (0x083, e, aluDot2 e (s.nbvOn w.core w.ctx))
  | .dot4 e => some (0x084, e, aluDot4 e (s.nbvOn w.core w.ctx))
  | .dot8 e => some (0x085, e, aluDot8 e (s.nbvOn w.core w.ctx))
  | .lcdec e => some (0x086, e, aluLcdec e)
  | _ => none

/-- The two retired operations that still execute, with their slots of `SYS_LADDER` (R94, R95, R98). -/
def ladderOf : Instr → Option (Nat × Nat × Enc × (Nat → Nat → Nat → AluOut))
  | .mad24 e => some (1, 0x03E, e, aluMad24 e)
  | .frcpa e => some (0, 0x07D, e, aluFrcpa e)
  | _ => none

/-- An exact result wrapped to an integer type (R125). -/
def wrapAt (ty : Nat) (x : Int) : Int :=
  if tySigned ty then (x + 2 ^ (Legal.tyWidth ty - 1)) % 2 ^ Legal.tyWidth ty - 2 ^ (Legal.tyWidth ty - 1) else x % 2 ^ Legal.tyWidth ty

/-! The wide formats by their bits (R27), written apart from the formats the model computes with. -/

/-- Exponent bits, mantissa bits and canonical NaN of a floating-point type. -/
def fltBits (ty : Nat) : Nat × Nat × Nat :=
  if ty = 10 ∨ ty = 14 then (5, 10, 0x7E00) else if ty = 11 ∨ ty = 15 then (8, 7, 0x7FC0)
  else if ty = 12 then (8, 23, 0x7FC00000) else (11, 52, 0x7FF8000000000000)

/-- Elements of an operand of a floating-point type (R137), their width, and element `k`. -/
def fltCount (ty : Nat) : Nat := if 14 ≤ ty then 2 else 1
def fltWidth (ty : Nat) : Nat := 1 + (fltBits ty).1 + (fltBits ty).2.1
def fltElem (ty x k : Nat) : Nat := x / 2 ^ (fltWidth ty * k) % 2 ^ fltWidth ty

/-- An element is a NaN; a signalling one. -/
def fltNaN (ty x : Nat) : Bool := x / 2 ^ (fltBits ty).2.1 % 2 ^ (fltBits ty).1 = 2 ^ (fltBits ty).1 - 1 && x % 2 ^ (fltBits ty).2.1 ≠ 0
def fltSig (ty x : Nat) : Bool := fltNaN ty x && x / 2 ^ ((fltBits ty).2.1 - 1) % 2 = 0

/-- Sign and magnitude bits of an element as a number that orders the values, with −0 below +0. -/
def fltKey (ty x : Nat) : Int :=
  if x / 2 ^ (fltWidth ty - 1) % 2 = 1 then -((x % 2 ^ (fltWidth ty - 1) : Nat) : Int) - 1 else (x % 2 ^ (fltWidth ty - 1) : Nat)

/-- What becomes of each element of a result and of the flags: element `k` as `f` says of the elements of A and B, and NV where `sig` accepts one. -/
def fltGives (ty : Nat) (f : Nat → Nat → Nat) (sig : Nat → Nat → Bool) (a b : Nat) (x : AluOut) : Prop :=
  (∀ k, k < fltCount ty → fltElem ty x.d k = f (fltElem ty a k) (fltElem ty b k)) ∧
  x.fl = if (List.range (fltCount ty)).any (fun k => sig (fltElem ty a k) (fltElem ty b k)) then 1 else 0

/-- An arithmetic instruction issues: each participant in ascending order reads A, B and C and writes what `P` says of their values; with every
operand read, the instruction completes. -/
def Computes (i : Instr) (P : Nat → Nat → Nat → AluOut → Prop) : Prop :=
  ∀ (s : State) (w : Workgroup) (t : Team) (pc : Nat), Issuing s w t pc →
    ∃ op e f, aluOf s w i = some (op, e, f) ∧ (∀ a b c, P a b c (f a b c)) ∧
      ∀ t', noStream e.d = true → streamsFree s e → aluParts op e f ((starts s w t pc e).units (uniform op e)) (starts s w t pc e).t = some t' →
        exec i s = .next { starts s w t pc e with t := t' }.finish

/-! What an instruction leaves alone. -/

/-- A team's state beside its threads, its s registers, its flags, its stream registers and what every issue changes (its status, the lead
selection, the watchdog, the issue clock, `TEAM_FMASK`, what it awaits; a value of `PFMT` still in its shadow is there, R118). -/
structure Team.Beside (t u : Team) : Prop where
  tix : u.tix = t.tix
  lane : u.lane = t.lane
  slot : u.slot = t.slot
  masks : u.masks = t.masks
  loops : u.loops = t.loops
  prsFstat : u.prsFstat = t.prsFstat
  pfmt : u.pfmt = t.fmtSettled.pfmt ∧ u.pfmtLater = t.fmtSettled.pfmtLater
  phases : u.heldPhase = t.heldPhase ∧ u.passed = t.passed
  nest : u.nest = t.nest ∧ u.nrows = t.nrows
  tokens : u.tokens = t.tokens ∧ u.links = t.links
  feed : u.feedPos = t.feedPos ∧ u.feedBuf = t.feedBuf
  faults : u.pendFaults = t.pendFaults
  fabric : u.comb = t.comb ∧ u.remote = t.remote ∧ u.unacked = t.unacked ∧ u.fetched = t.fetched ∧ u.streamBlocks = t.streamBlocks
  release : u.relPend = t.relPend
  halting : u.halting = t.halting
  brkNext : u.brkNext = t.brkNext
  native : u.nat = t.nat ∧ u.commit = t.commit

/-- A thread's state beside its v registers, its predicates, and its status and PC. -/
structure Thread.Beside (h k : Thread) : Prop where
  ret : k.ret = h.ret
  lane : k.lane = h.lane
  held : k.held = h.held
  native : k.a = h.a ∧ k.results = h.results

/-- Every thread keeps every register. -/
def Team.SameRegs (t u : Team) : Prop :=
  u.s = t.s ∧ u.threads.length = t.threads.length ∧
  ∀ i, (u.thread i).v = (t.thread i).v ∧ (u.thread i).p = (t.thread i).p ∧ (t.thread i).Beside (u.thread i)

/-- A register `n` that a destination operand names: the register, and the next for a pair. -/
def names (o : Operand) (pair : Bool) (isV : Bool) (n : Nat) : Prop :=
  match o with
  | .v m => isV = true ∧ (n = m.toNat ∨ (pair = true ∧ n = m.toNat + 1))
  | .s m => isV = false ∧ (n = m.toNat ∨ (pair = true ∧ n = m.toNat + 1))
  | _ => False

/-- The PC of each thread after an issue that completes for all its participants and sends none elsewhere (R160). -/
def Team.Advanced (t u : Team) (pc len : Nat) : Prop :=
  ∀ i, i < t.threads.length → (u.thread i).pc = if (t.thread i).st = .run ∧ (t.thread i).pc = pc then pc + len else (t.thread i).pc

/-- Every register, flag and stream register of a team stays, and everything beside them but the threads' status and PC. -/
def Team.Still (t u : Team) : Prop := t.SameRegs u ∧ t.Beside u ∧ u.fstat = t.fstat ∧ u.streams = t.streams

/-- A team with each of its threads changed. -/
def Team.mapThreads (t : Team) (f : Nat → Thread → Thread) : Team := { t with threads := Machine.mapThreads f 0 t.threads }

/-- A fresh issue: no thread replays or has still to execute, and the threads are those a team can have (R76, R177, R179). -/
structure Fresh (t : Team) : Prop where
  noReplay : t.fmask = 0
  noPend : t.pend = none
  few : t.threads.length ≤ 32

/-- The PC of each thread after an issue that sends the threads of a list elsewhere (R160). -/
def Team.Sent (t u : Team) (pc len : Nat) (ms : List Nat) (goal : Nat → Nat) : Prop :=
  ∀ j, j < t.threads.length → (u.thread j).pc =
    if j ∈ ms then goal j else if (t.thread j).st = .run ∧ (t.thread j).pc = pc then pc + len else (t.thread j).pc

/-- The address of a direct transfer (R166, R167). -/
def branchTarget (pc : Nat) (o : Operand) : Nat := (((pc : Int) + 8 * immOf o) % 2 ^ 57).toNat

/-- The threads that a transfer moves (R160). -/
def moversOf (s : State) (w : Workgroup) (t : Team) (pc op : Nat) (e : Enc) : List Nat := ((starts s w t pc e).movers (uniform op e)).map Prod.fst

/-- The team that issues, as an issue starts. -/
def Team.begun (t : Team) : Team := { t.fmtSettled with yieldAt := none, pend := none, awaits := none, savedWait := none, st := .ready }

/-- The package after a context-fatal fault at the instruction that a team issues (R367, R368, R371). -/
def faultedAt (s : State) (w : Workgroup) (t : Team) (pc : Nat) (mask : BitVec 32) (cls sub : Nat) : State :=
  (s.putWg (w.putTeam t.begun)).teamFatal w t.begun mask { mkFault cls sub 0 with ppc := pc }

/-- The team instructions (R163). -/
def teamInstrOf : Instr → Option Enc
  | .mpush e => some e
  | .minv e => some e
  | .mpop e => some e
  | .bzm e => some e
  | .loop e => some e
  | .endloop e => some e
  | _ => none

/-- A team instruction can issue: the team is converged, and its guard is true in every active thread (R163). -/
def TeamReady (s : State) (w : Workgroup) (t : Team) (pc : Nat) (e : Enc) : Prop :=
  (starts s w t pc e).converged = true ∧ (starts s w t pc e).parts = maskList ((starts s w t pc e).cands &&& t.top) t.threads.length

/-- A thread is not in EXIT. -/
def Team.livesAt (t : Team) (j : Nat) : Prop := j < t.threads.length ∧ (t.thread j).st ≠ .exit

/-- The trap stubs (R73, R91, R92): the words, the sub-code, and the slot of `SYS_LADDER` that the issue counts in. -/
def stubOf : Instr → Option (Option (BitVec 64) × Nat × Option Nat)
  | .trapStubIssue _ x => some (x, 0, none)
  | .ldsh _ x => some (x, 1, some 2)
  | .pmma _ x => some (x, 2, some 15)
  | .bwt _ x => some (x, 2, some 15)
  | _ => none

/-- The exchange instructions (R184): major opcode, fields, the carry before the first iteration, and the iteration, from the operands as
the issue finds them. -/
def exchOf : Instr → Option (Nat × Enc × (Gathered → Nat) × (Gathered → Iteration))
  | .xprev e => some (0x0C0, e, fun _ => 0, fun _ => plainIter prevOf)
  | .xnext e => some (0x0C1, e, fun _ => 0, fun _ => plainIter nextsOf)
  | .xbcast e => some (0x0C2, e, fun _ => 0, fun _ => plainIter bcastOf)
  | .xscan e => some (0x0C3, e, fun g => seedAt e.ty.toNat (Gathered.b g 0), fun _ => scanIter e.ty.toNat (e.var.toNat % 4) (e.var.toNat ≥ 4))
  | .xred e => some (0x0C4, e, fun _ => 0, redIter e.ty.toNat (e.var.toNat % 4))
  | .ballot e => some (0x0C5, e, fun _ => 0, fun _ => plainIter (fun g _ => maskWhere (fun a => a = 1) g))
  | .vote e => some (0x0C6, e, fun _ => 0, fun _ => plainIter (fun g _ => if voteOf e.var.toNat g then 1 else 0))
  | .xmatch e => some (0x0C7, e, fun _ => 0, fun _ => plainIter (matchOf e.ty.toNat))
  | _ => none

/-- A plain operand's value in thread `j`, 0 for a field that the operation does not use. -/
def Team.valueOf (t : Team) (used : Bool) (j : Nat) (o : Operand) (ty w k : Nat) (pair : Bool) : Nat :=
  if used then ((t.source j o ty w k pair).map Prod.fst).getD 0 else 0

/-- The operands A and B of each participant of an exchange. -/
def gathered (op : Nat) (e : Enc) (ps : List Nat) (t : Team) : Gathered :=
  ps.map (fun j =>
    (j, t.valueOf (usedFields op e).2.1 j e.a (readTypes op e).1 (Legal.selWidths op e).2.1 e.selA.toNat (Legal.pairs op e).2.1,
        t.valueOf (usedFields op e).2.2.1 j e.b (readTypes op e).2.1 (Legal.selWidths op e).2.2.1 e.selB.toNat (Legal.pairs op e).2.2.1))

/-- The operands as an iteration finds them (R7): those that are s registers in the team `u` as it stands then, the others in the team `t` as
the issue found it. -/
def gatheredNow (op : Nat) (e : Enc) (ps : List Nat) (t u : Team) : Gathered :=
  ps.map (fun j =>
    (j, (if isScalar e.a then u else t).valueOf (usedFields op e).2.1 j e.a (readTypes op e).1 (Legal.selWidths op e).2.1 e.selA.toNat (Legal.pairs op e).2.1,
        (if isScalar e.b then u else t).valueOf (usedFields op e).2.2.1 j e.b (readTypes op e).2.1 (Legal.selWidths op e).2.2.1 e.selB.toNat (Legal.pairs op e).2.2.1))

/-- The team after the iterations of an exchange in ascending order, from place `k` of the participants with a carry. -/
def exchanged (op : Nat) (e : Enc) (f : Iteration) (ps : List Nat) (t : Team) : Nat → List Nat → Nat → Team → Team
  | _, [], _, u => u
  | k, j :: rest, c, u =>
    let y := f (gatheredNow op e ps t u) k c
    let u1 := u.result j e.d (Legal.selWidths op e).1 e.selD.toNat (Legal.pairs op e).1 y.1
    exchanged op e f ps t (k + 1) rest y.2.1 { u1 with fstat := u1.fstat ||| y.2.2 }

/-- The carry before place `n`, where no iteration changes an operand. -/
def carryAt (f : Iteration) (g : Gathered) (seed : Nat) : Nat → Nat
  | 0 => seed
  | n + 1 => (f g n (carryAt f g seed n)).2.1

/-- An operand of the fold of R184: the value after the carry has met the first `n` participants. -/
def carryAfter (ty op seed : Nat) (g : Gathered) (n : Nat) : Nat := (g.take n).foldl (fun c x => (combine ty op c x.2.1).1) seed

/-! Memory, byte by byte. -/

/-- The canonical form of a sparse memory of bytes: addresses strictly rise, and no entry is zero. -/
def Memory.wf (m : SparseB) : Bool := spWf 0 m

/-- The memory in which a local place stands for an agent: none where the place is another package's, a doorbell or a migrating page, or
does not exist. -/
def State.bytesOf (s : State) (ag : Agent) : Place → Option SparseB
  | .lane _ => ((s.getWg ag.wg).bind (fun w => w.getTeam ag.tix)).bind (fun t =>
      if ag.thread < t.threads.length then some (t.thread ag.thread).lane else none)
  | .scratch u _ => (s.getWg u).map Workgroup.scratch
  | .dieq _ => (s.getCtx ag.ctx).map Context.dieq
  | .phys _ => (s.getCore ag.core).map (fun _ => s.dram)
  | .host _ => some s.hostMem
  | _ => none

/-- One of `n` bytes from a place of one agent is the byte at a place of another: `.lane` bytes are a thread's, `.die` bytes a context's, and a
physical byte is the one that a core sees (R194, R198, R199). -/
def Place.holds (ag : Agent) (p : Place) (n : Nat) (ag' : Agent) (q : Place) : Prop :=
  match p, q with
  | .lane a, .lane b => ag.wg = ag'.wg ∧ ag.tix = ag'.tix ∧ ag.thread = ag'.thread ∧ a ≤ b ∧ b < a + n
  | .scratch u a, .scratch v b => u = v ∧ a ≤ b ∧ b < a + n
  | .dieq a, .dieq b => ag.ctx = ag'.ctx ∧ a % 2 ^ 32 ≤ b % 2 ^ 32 ∧ b % 2 ^ 32 < a % 2 ^ 32 + n
  | .phys a, .phys b => ag.core = ag'.core ∧ a ≤ b ∧ b < a + n
  | .host a, .host b => a ≤ b ∧ b < a + n
  | _, _ => False

/-- A place is one of `n` physical bytes from another, for whichever core. -/
def Place.sameByte (p : Place) (n : Nat) (q : Place) : Prop :=
  match p, q with
  | .phys a, .phys b => a ≤ b ∧ b < a + n
  | _, _ => False

/-- What one thread of a team is as an agent. -/
def agentOf (w : Workgroup) (t : Team) (j : Nat) : Agent := { ctx := w.ctx, core := w.core, wg := w.uid, tix := t.tix, thread := j }

/-- The access instructions of one address: major opcode, fields, and the address of the participant of rank `k` that is thread `j`
(R191, R204 to R206, R208). -/
def memOf (t : Team) (j k : Nat) (i : Instr) : Option (Nat × Enc × Int) :=
  let glb := fun (e : Enc) => decide (Legal.space e = 4)
  let base := fun (e : Enc) => ((t.valueOf true j e.a (if glb e then 1 else 0) 64 0 (glb e) : Nat) : Int)
  let form := fun (e : Enc) (off : Int) => if Legal.space e = 4 then (base e + off) % 2 ^ 64 else base e + off
  let off := fun (e : Enc) => sVal 32 (t.valueOf true j e.b 4 32 0 false)
  let rank := fun (e : Enc) => ((t.valueOf true j e.b 8 32 0 false + k : Nat) : Int)
  match i with
  | .ld e => some (0x0D0, e, form e (off e))
  | .st e => some (0x0D1, e, form e (off e))
  | .ldg e => some (0x0D2, e, form e (off e * accessBytes e.ty.toNat))
  | .stsc e => some (0x0D3, e, form e (off e * accessBytes e.ty.toNat))
  | .cst e => some (0x0D4, e, form e (rank e * accessBytes e.ty.toNat))
  | .exl e => some (0x0D5, e, form e (rank e * accessBytes e.ty.toNat))
  | .atom e => some (0x0D6, e, form e 0)
  | .red e => some (0x0D7, e, form e 0)
  | _ => none

def isLoad : Instr → Bool
  | .ld _ => true
  | .ldg _ => true
  | .exl _ => true
  | _ => false

def isStore : Instr → Bool
  | .st _ => true
  | .stsc _ => true
  | .cst _ => true
  | _ => false

/-- No operand of an access is a stream register. -/
def plainAccess (e : Enc) : Bool := noStream e.a && noStream e.b && noStream e.d

/-- A gather, a scatter or a compressed access (R206). -/
def isIndexed : Instr → Bool
  | .ldg _ => true
  | .stsc _ => true
  | .cst _ => true
  | .exl _ => true
  | _ => false

/-- The package as an access of a team begins: with `.rel`, `.ar` or `.sc` what it releases has been released, and `.sc` has acquired (R224,
R228, R229). -/
def accessStart (s : State) (w : Workgroup) (t : Team) (e : Enc) : State :=
  (if isRel e then
    (if e.var = 4 then (s.release w.core w.ctx (actScope e)).acquire w.core w.uid t.tix (actScope e) else s.release w.core w.ctx (actScope e))
  else s).putWg (w.putTeam t.begun)

/-- A release has nothing to wait for: no combining entry of the team, and no remote store of the context outstanding (R239, R241, R422). -/
def freeToRelease (s : State) (w : Workgroup) (t : Team) : Prop := t.comb = [] ∧ s.ctxUnacked w.ctx = false ∧ t.unacked = []

/-- A leaf stands in a context's tree or is cached (R398, R402). -/
def State.knows (s : State) (c : Nat) (l : Leaf) : Prop :=
  (∃ x, s.getCtx c = some x ∧ l ∈ x.pages) ∨ (∃ k ∈ s.cores, ∃ e ∈ k.tlb, e.leaf = l) ∨ ∃ e ∈ s.dieTlb, e.2.leaf = l

/-- A checked access that performs here: the address is good, no range lock covers it, the bytes stand at a local place, no unit
of them has bad check bits, the page has no mirror, the L1 has room, no release of a fence is still to perform, and the thread holds no
address (R191, R205, R207, R217, R227, R235, R424). -/
structure Reaches (s : State) (w : Workgroup) (t : Team) (j : Nat) (e : Enc) (a : Int) (acc : Acc) (p : Place) (m : SparseB) : Prop where
  located : s.locate (agentOf w t j) (Legal.space e) a (accessBytes e.ty.toNat) (accessBytes e.ty.toNat) acc = .at_ p
  unlocked : s.lockMet (agentOf w t j) (Legal.space e) p a.toNat (accessBytes e.ty.toNat) (acc ≠ .load) = none
  here : s.bytesOf (agentOf w t j) p = some m
  canonical : Memory.wf m = true
  sound : ∀ u ∈ unitsOf (agentOf w t j) p (accessBytes e.ty.toNat), s.bad.contains u = false
  unmirrored : ∀ l, s.knows w.ctx l → l.covers a.toNat = true → l.mir = false
  room : ∀ pa, p = .phys pa → s.roomFor w.core pa (accessBytes e.ty.toNat)
  settled : t.relPend = none
  unheld : (t.thread j).held = none

/-- What a state shares with another beside memory, caches, translations, team registers and the counts that nothing shows. -/
structure SameElse (s s' : State) (w : Workgroup) (t : Team) : Prop where
  engines : s'.ops = s.ops ∧ s'.queues = s.queues ∧ s'.nodes = s.nodes ∧ s'.objects = s.objects ∧ s'.codePages = s.codePages
  link : s'.sendStore = s.sendStore ∧ s'.peers = s.peers ∧ s'.ports = s.ports
  package : s'.out = s.out ∧ s'.tai = s.tai ∧ s'.cc = s.cc ∧ s'.regions = s.regions
  teams : ∀ v k, (v, k) ≠ (w.uid, t.tix) → (s'.getWg v).bind (fun x => x.getTeam k) = (s.getWg v).bind (fun x => x.getTeam k)

/-- The issuing team after an issue. -/
def State.teamNow (s : State) (w : Workgroup) (t : Team) : Option Team := (s.getWg w.uid).bind (fun x => x.getTeam t.tix)

/-! The instructions that act once for a team (R265, R286, R303). -/

/-- A value written to a destination in each thread of a list. -/
def Team.gives (t : Team) (ps : List Nat) (o : Operand) (pair : Bool) (x : Nat) : Team := ps.foldl (fun u j => u.result j o 32 0 pair x) t

/-- The package after an issue that changes the issuing team to what `u` still is, in a state beside it. -/
def Ends (i : Instr) (s s1 : State) (w : Workgroup) (t1 t : Team) (pc len : Nat) : Prop :=
  ∃ u, exec i s = .next (s1.putWg (w.putTeam u)) ∧ t1.Still u ∧ t.Advanced u pc len

/-- The team waits at the instruction with all its participants. -/
def WaitsAt (i : Instr) (s : State) (w : Workgroup) (t : Team) (pc len : Nat) (ps : List Nat) (why : Stall) : Prop :=
  ∃ s' u, exec i s = .next s' ∧ s'.teamNow w t = some u ∧ s'.ops = s.ops ∧ t.Still u ∧ u.st = .stall why ∧ t.Sent u pc len ps (fun _ => pc)

/-- The instruction discards the context with a fault of a class and sub-code. -/
def Discards (i : Instr) (s : State) (w : Workgroup) (t : Team) (pc : Nat) (ps : List Nat) (cls sub addr : Nat) : Prop :=
  ∃ s1 : State, exec i s = .next (s1.teamFatal w t.begun (listMask ps) { mkFault cls sub addr with ppc := pc }) ∧ s1.ops = s.ops ∧ s1.contexts = s.contexts ∧
    s1.getWg w.uid = some (w.putTeam t.begun)

/-- The operation that a token names (R247). -/
def State.opOf (s : State) (t : Team) (k : Nat) : Option Op := (t.token k).bind s.getOp

/-- The token's operation has ended, or it names none. -/
def State.tokenFree (s : State) (t : Team) (k : Nat) : Prop := ∀ o, s.opOf t k = some o → o.st.isBusy = false ∧ o.st ≠ .saved

/-- The operation that an issue creates on a token (R247, R268, R286). -/
def opFor (s : State) (w : Workgroup) (t : Team) (pc k : Nat) (st : OpSt) (scope : Nat) (body : OpBody) : Op :=
  { id := s.nextId, ctx := w.ctx, wg := w.uid, tix := t.tix, tk := k, core := w.core, st := st, scope := scope, link := t.link k, ppc := pc,
    waits := [], got := [], unacked := [], keyWait := none, body := body }

/-- The operations after one more on a token, whose former operation is forgotten. -/
def State.opsWith (s : State) (t : Team) (k : Nat) (o : Op) : List Op := s.ops.filter (fun (y : Op) => some y.id ≠ t.token k) ++ [o]

/-- The team with a token naming an operation, its pending link consumed (R308). -/
def Team.tokened (t : Team) (k id : Nat) : Team := { t with tokens := tabSet k id t.tokens, links := tabDel k t.links }

/-- The copy instructions with a command block: kind, token and the field that names the block's address (R286). -/
def copyOf : Instr → Option (Nat × Enc)
  | .cpyt e => some (1, e)
  | .cpyg e => some (2, e)
  | .ringpush e => some (3, e)
  | .kvpatch e => some (4, e)
  | .rerot e => some (5, e)
  | _ => none

/-- The `vat` instructions: what they do, and their fields (R271, R272). -/
def vatOf : Instr → Option (VatOp × Enc)
  | .vld e => some (.load, e)
  | .vst e => some (.store, e)
  | .vacc e => some (.acc, e)
  | _ => none

/-! The native form. -/

/-- A move between registers, or of an immediate or a literal into one, of 32 bits, into `rf` (R102, R103, R105). -/
def plainMove (m : Move) : Bool :=
  (m.sport = 0 || m.sport = 9 || m.sport = 10 || 11 ≤ m.sport.toNat) && m.dport = 0 && m.sel = 0 && m.w = 0

/-- The 32 bits that a plain move reads in thread `i`. -/
def moveVal (t : Team) (b : Bundle) (i : Nat) (m : Move) : Word :=
  if m.sport = 0 then t.aGet i m.sidx.toNat
  else if m.sport = 9 then (if t.pGet i m.sidx.toNat then 1 else 0)
  else if m.sport = 10 then t.gGet m.sidx.toNat
  else if m.ssub = 0 then m.sidx.signExtend 32
  else BitVec.ofNat 32 (bundleLit b (m.sidx.toNat % 8))

/-- The last move of a bundle into register `n` whose guard is true in thread `i`. -/
def lastMove (t : Team) (b : Bundle) (i n : Nat) : Option Move :=
  ((movesOf 0 (bundleSlots b)).filter (fun m => m.didx.toNat = n && t.guardTrue m.grd m.gn i)).getLast?

/-! What the host, the queue processor and the link meet. -/

/-- READY, powered, and no firmware recovering: what the host writes takes effect at once (R442, R446). -/
def State.serves (s : State) : Prop := s.bootStage = 4 ∧ s.power = .d0 ∧ s.recovering = []

/-- The state after one step has this queue, and every other as before. -/
def State.onlyQueue (s s' : State) (k : Nat) (q : Queue) : Prop := s'.getQueue k = some q ∧ ∀ j, j ≠ k → s'.getQueue j = s.getQueue j

/-- The parser meets a whole packet at RIDX of a queue that it may serve (R337, R344, R345). -/
structure Parses (s : State) (q : Queue) (pk : List Byte) : Prop where
  queue : s.getQueue q.id = some q
  active : q.st = .active
  ready : s.bootStage = 4
  turn : s.parseTurn q = true
  room : ∃ x, s.getCtx q.ctx = some x ∧ x.st = .running ∧ s.poolUsed q.ctx < x.quota ∧ s.poolNodes < 16384
  units : 1 ≤ fieldAt pk 1 1 ∧ fieldAt pk 1 1 ≤ 16 ∧ q.ridx % 2 ^ q.log2sz + 64 * fieldAt pk 1 1 ≤ 2 ^ q.log2sz
  kicked : q.ridx + 64 * fieldAt pk 1 1 ≤ q.widx
  bytes : s.memGet q.ctx (q.base + q.ridx % 2 ^ q.log2sz) (64 * fieldAt pk 1 1) = some pk
  kept : q.withdrawn.any (fun y => y.1 = q.ridx) = false

/-- The instruction that parses a packet of a type (R337). -/
def parserOf (ty q : Nat) : Instr :=
  if ty = 0 then .parsePad q else if ty = 1 then .parseLaunch q else if ty = 2 then .parseLoad q else if ty = 3 then .parseUnload q else .parseJoin q

/-- The instruction of a context request (R363). -/
def requestOf (code c : Nat) (r : Request) : Instr :=
  match code with
  | 1 => .ctxCreate c r
  | 2 => .ctxDestroy c r
  | 3 => .ctxPreempt c r
  | 4 => .ctxResume c r
  | 5 => .qcreate c r
  | 6 => .qdestroy c r
  | 7 => .qreset c r
  | 8 => .readsave c r
  | 9 => .gangrec c r
  | 10 => .dbgcont c r
  | _ => .rearm c r

/-- The states in which the table of R363 allows a request other than CREATE. -/
def requestAllowed (code : Nat) (st : CtxSt) : Prop :=
  code = 2 ∨ code = 5 ∨ code = 6 ∨ code = 7 ∨ ((code = 3 ∨ code = 10) ∧ st = .running) ∨ (code = 4 ∧ st = .saved) ∨
  (code = 8 ∧ (st = .saved ∨ st = .faulted)) ∨ (code = 9 ∧ (st = .running ∨ st = .saved)) ∨ (code = 11 ∧ st = .faulted)

/-- A packet for this package that is next in its source's order, well formed and not confidential, from a package met before, with nothing held or owed (R413 to R417). -/
structure Arrives (s : State) (p : Packet) : Prop where
  power : s.power = .d0
  here : p.dst = s.pkg ∧ s.pkg < 192 ∧ p.src < 192 ∧ p.src ≠ s.pkg
  plain : p.wellFormed = true ∧ p.conf = false
  next : p.seq = (s.peer p.src).rxSeq.toNat
  met : (s.peer p.src).granted = true ∧ (s.peer p.src).early = []
  open_ : s.heldReqs = [] ∧ s.owed = [] ∧ s.homeWaits = []
  alone : ∀ x, s.getCtx p.ctx = some x → x.gang = false

/-- A page of a context resident here, with no mirror, whose physical byte for an address is `pa` (R398, R401). -/
structure HomedHere (s : State) (c va : Nat) (l : Leaf) (pa : Nat) : Prop where
  leaf : ∃ x, s.getCtx c = some x ∧ x.walk va = some l
  ready : l.res = true ∧ l.mig = false ∧ l.home = s.pkg ∧ l.mir = false
  place : pa = (l.frame + (va - l.va)) % 2 ^ 42
  canonical : Memory.wf s.dram = true
  sound : s.bad = []

/-- The packet instructions (R414). -/
def packetInstr (ty : PktType) (p : Packet) : Instr :=
  match ty with
  | .read => .linkRead p
  | .write => .linkWrite p
  | .atomic => .linkAtomic p
  | .reply => .linkReply p
  | .ack => .linkAck p
  | .rpart => .linkRpart p
  | .control m => .linkControl p m

/-- One answer of this package to a request: its type and payload (R413, R419 to R421). -/
def Answers (s s' : State) (p : Packet) (ty : PktType) (bs : List Byte) : Prop :=
  ∃ o : OutPkt, s'.sendStore = s.sendStore ++ [o] ∧ o.type = ty ∧ o.p.dst = p.src ∧ o.p.src = s.pkg ∧ o.p.ctx = p.ctx ∧ o.p.rid = p.rid ∧ o.p.payload = bs ∧
    o.p.seq = (s.peer p.src).txSeq.toNat ∧ o.sentAt = none

/-- Fields of an instruction with no guard, no select and no hint (R59, R60, R65). -/
def plainEnc (ty : BitVec 4) (var : BitVec 3) (ext : Bool) (d a b c : Operand) : Enc :=
  { ty := ty, var := var, g := 15, gn := false, ext := ext, d := d, a := a, b := b, c := c, selA := 0, selB := 0, selC := 0, selD := 0,
    hint := 0 }

end Sys2Proof.Machine
end

