-- ==== Sys2Proof/Certificates/Slice0/Obligations.lean ====
section
/-! DEFINITION. The statements for the provers. -/
open Sys2Proof Sys2Proof.Machine

/-! The package as a whole. -/

/-- R449, R444, R430, R218: what a reset leaves, before the stokers run. Nothing the package holds for its contexts exists; `SYS_MEMERR` is 0;
stacked DRAM reads 0 at every address; `SYS_BOOT` shows stage 0 and package ID 0xFF; every port is DOWN. The model's choices here: log entry 82. -/
def Obligations.ResetState : Prop :=
  State.reset.contexts = [] ∧ State.reset.queues = [] ∧ State.reset.nodes = [] ∧ State.reset.wgs = [] ∧ State.reset.ops = [] ∧
  State.reset.objects = [] ∧ (∀ a, spGet 0 State.reset.dram a = 0) ∧ State.reset.memCe = 0 ∧ State.reset.memUe = 0 ∧
  State.reset.bootStage = 0 ∧ State.reset.pkg = 0xFF ∧ State.reset.idSet = false ∧ State.reset.ctxMade = false ∧ State.reset.peers = [] ∧
  State.reset.ports.length = 16 ∧ (∀ p ∈ State.reset.ports, p.st = 0 ∧ p.crcf = 0)

/-- The state after reset meets the invariant. -/
def Obligations.ResetMeetsInvariant : Prop := State.reset.Inv

/-- Every step keeps the invariant: the memories stay in canonical form, the package ID stays as R444 says, the counters of `SYS_MEMERR` stop at
their greatest value (R218), GEN never becomes 0 (R332), and the clock stays in a mode of R378. -/
def Obligations.StepKeepsInvariant : Prop := ∀ s t : State, s.Inv → step s = .next t → t.Inv

/-- R378, R391: no step takes TAI backwards. The model's choices here: log entries 6 and 81. -/
def Obligations.TaiNeverDecreases : Prop := ∀ s t : State, s.Inv → step s = .next t → s.tai ≤ t.tai

/-- Every step goes on: it neither faults nor is refused, save that an instruction of the agenda that only a team can issue stops where no team
issues. The model's choices here: log entries 1 and 2. -/
def Obligations.StepGoesOn : Prop := ∀ s : State, s.agenda = [] → stepSafe s

/-- A step runs the instruction that the agenda holds. With no team named, a step runs one of the actions that the units can take, or an instruction
of a team that can issue. Then time passes. The model's choices here: log entries 1, 2 and 6. -/
def Obligations.StepRunsAgendaOrChoice : Prop :=
  (∀ (s : State) (i : Instr) (rest : List Instr), s.agenda = i :: rest → step s = passed (exec i { s with agenda := rest })) ∧
  (∀ (s s1 : State), s.agenda = [] → s.named = none →
     (∀ i, s.idle.choose = (some (.act i), s1) → step s = passed (settled (exec i s1)) ∧ Choice.act i ∈ s.idle.choices) ∧
     (∀ u k, s.idle.choose = (some (.team u k), s1) → Choice.team u k ∈ s.idle.choices) ∧
     (s.idle.choose = (none, s1) → step s = passed (.next s1.idle)))

/-- A step runs the portable instruction that its bytes at the lead PC decode to, where the object that holds the PC is portable (R2, R58, R160); a
direct transfer to an address that begins no instruction is a trap stub (R73). Where the code has been found to hold a reserved code, the step takes
CODE_INTEGRITY, sub-code 2 (R90, R322). After it no team is named to issue next, and time passes. The model's choices here: log entries 1, 6, 108 and 121. -/
def Obligations.StepRunsPortable : Prop :=
  ∀ (s : State) (w : Workgroup) (t : Team) (pc : Nat) (o : CodeObj) (bs rest : List Byte) (i : Instr),
    s.agenda = [] → s.named = some (w, t) → t.leadPc = some pc → s.objAt w.ctx pc = some o → o.native = false →
    (s.foundReserved o pc = false → s.fetchInstr o (pc - o.text) = .bytes bs → decode bs = some (i, rest) →
      (o.directOk pc i = true → step s = passed (settled (exec i s))) ∧
      (∀ w0 x, o.directOk pc i = false → encodeWords i = some (w0, x) → step s = passed (settled (exec (.trapStubIssue w0 x) s)))) ∧
    (s.foundReserved o pc = true → step s = passed (.next (s.teamFatal w t (t.atLead pc) { mkFault clsIntegrity 2 0 with ppc := pc }).idle))

/-- A step runs the clause header at the lead PC of a native team, and then the bundles of the clause one by one (R99); after each no team is named
to issue next, and time passes. The model's choices here: log entries 1 and 6. -/
def Obligations.StepRunsNative : Prop :=
  ∀ (s : State) (w : Workgroup) (t : Team) (pc : Nat) (o : CodeObj) (hb : List Byte),
    s.agenda = [] → s.named = some (w, t) → t.leadPc = some pc → s.objAt w.ctx pc = some o → o.native = true →
    s.fetchBytes o (pc - o.text) 16 = .bytes hb →
    (t.nat.started = false → step s = passed (settled (exec (.clauseStart (headerOf (bytesNat hb))) s))) ∧
    (∀ bb, t.nat.started = true → s.fetchBytes o (pc - o.text + 16 + 32 * t.nat.bundle) 32 = .bytes bb →
      step s = passed (settled (exec (.bundleIssue (bundleOf (bytesNat bb))) s)))

/-! Decoding and encoding. -/

/-- Every well-formed portable instruction is read back from its words, whatever follows them (R58 to R66). -/
def Obligations.PortableRoundTrip : Prop :=
  ∀ (i : Instr) (rest : List Byte), i.wf = true → (encodeWords i).isSome = true → decode (encode i ++ rest) = some (i, rest)

/-- Every portable word, with an extension word where X is set, decodes to a well-formed instruction, and that instruction's words are the ones read:
no bit of an encoding is dropped, and no two encodings give one instruction. -/
def Obligations.WordsRoundTrip : Prop :=
  ∀ (w0 : BitVec 64) (x : Option (BitVec 64)), wfWords w0 x = true →
    (decodeWords w0 x).wf = true ∧ encodeWords (decodeWords w0 x) = some (w0, x)

/-- Clause headers and bundles are read back from their bits (R99, R102, R103). -/
def Obligations.NativeRoundTrip : Prop :=
  (∀ h : ClauseHeader, headerOf (headerBits h) = h) ∧ (∀ x, x < 2 ^ 128 → headerBits (headerOf x) = x) ∧
  (∀ b : Bundle, bundleOf (bundleBits b) = b)

/-- R58 to R66, R73, R74, R91: words written out from the encoding tables are the instructions they stand for, one of each family; and a code that
names no operation and a guard field 15 with GN set are trap stubs of their own length; the codes of the trapped and removed operations are theirs
whatever their other bits. The model's choices here: log entry 28. -/
def Obligations.DecodedAndRejectedWords : Prop :=
  decodeWords 0x5800780000000000 none = .nop (plainEnc 0 0 false (.v 0) (.v 0) (.v 0) (.v 0)) ∧
  decodeWords 0x2061140050007FFD none = .fadd { plainEnc 12 1 false (.v 5) (.v 1) (.imm 0x1FFFD) (.v 0) with g := 2, gn := true } ∧
  decodeWords 0x21F0F81700009009 (some 0x0001100000C04004) =
    .fma { plainEnc 14 0 true (.v 70000) (.v 2) (.s 9) (.v 4) with selA := 1, selC := 3 } ∧
  decodeWords 0x0440F80010001006 (some 1) = .mad (plainEnc 8 0 true (.v 1) (.v 0) (.s 6) (.v 1)) ∧
  decodeWords 0x0088F90080000000 (some 0x0000010400000000) = .movi (plainEnc 1 0 true (.s 8) (.v 0) (.v 0) (.v 0)) 0x0000010400000000 ∧
  decodeWords 0x1F20F80070004002 (some 3) = .mad24 (plainEnc 4 0 true (.v 7) (.v 1) (.v 2) (.v 3)) ∧
  decodeWords 0x7F04780010000004 none = .ldsh 0x7F04780010000004 none ∧
  decodeWords 0x4080F800A000C004 (some 0x361B) = .pack (plainEnc 0 0 true (.v 10) (.v 3) (.v 4) (.imm 0x61B)) ∧
  decodeWords 0x530078000401300A none = .loop (plainEnc 0 0 false (.v 0) (.s 4) (.imm 10) (.v 0)) ∧
  decodeWords 0x61C0780020003000 none = .xscan (plainEnc 8 0 false (.v 2) (.v 0) (.imm 0) (.v 0)) ∧
  decodeWords 0x6841F8004000B010 (some 0x302C) = .ld (plainEnc 8 1 true (.v 4) (.v 2) (.imm 16) (.imm 44)) ∧
  decodeWords 0x6B03F80060020009 (some 0x31F4) = .atom (plainEnc 0 3 true (.v 6) (.v 8) (.v 9) (.imm 500)) ∧
  decodeWords 0x908178000C005014 none = .nestw (plainEnc 0 1 false (.v 0) (.imm 1) (.s 20) (.v 0)) ∧
  decodeWords 0x8005FA103003800A (some 0x3004) = .cpy (plainEnc 0 5 true (.tk 3) (.v 14) (.v 10) (.imm 4)) ∧
  decodeWords 0xA08079003811F001 none = .barr (plainEnc 0 0 false (.s 3) (.bar 7) (.imm 1) (.v 0)) ∧
  decodeWords 0xA80878004C207001 none = .srd (plainEnc 1 0 false (.v 4) (.imm 0x81) (.imm 1) (.v 0)) ∧
  (∀ (w0 : BitVec 64) (x : Option (BitVec 64)) (op : Nat), Legal.opField w0.toNat = op →
      (op ∉ [0x001, 0x0FE, 0x13E, 0x14F] → ctorOf op = none → decodeWords w0 x = .trapStubIssue w0 x) ∧
      (op ∉ [0x0FE, 0x13E, 0x14F] → Legal.bits 46 42 w0.toNat = 31 → decodeWords w0 x = .trapStubIssue w0 x) ∧
      (op = 0x0FE → decodeWords w0 x = .ldsh w0 x) ∧ (op = 0x13E → decodeWords w0 x = .pmma w0 x) ∧ (op = 0x14F → decodeWords w0 x = .bwt w0 x))

/-! Arithmetic. -/

/-- R160, R63, R123 to R125: an arithmetic instruction completes where its operands can be read, one part after another; and they can, where none is
a stream register. The destination here is no stream register. -/
def Obligations.ArithmeticCompletes : Prop :=
  ∀ (s : State) (w : Workgroup) (t : Team) (pc : Nat) (i : Instr) (op : Nat) (e : Enc) (f : Nat → Nat → Nat → AluOut),
    Issuing s w t pc → aluOf s w i = some (op, e, f) → noStream e.d = true →
    (∀ t', streamsFree s e → aluParts op e f ((starts s w t pc e).units (uniform op e)) (starts s w t pc e).t = some t' →
      exec i s = .next { starts s w t pc e with t := t' }.finish) ∧
    (noStream e.a = true → noStream e.b = true → noStream e.c = true →
      ∃ t', aluParts op e f ((starts s w t pc e).units (uniform op e)) (starts s w t pc e).t = some t')

/-- What an arithmetic instruction leaves alone: all of the package beside the issuing team; every register of every thread but the destination in
the participants, and the carry predicate of `addc` and `subb`; flags are only added; every candidate goes to the next instruction (R41, R60, R123,
R160). A team is DONE after it only where every thread had exited before (R154). -/
def Obligations.ArithmeticFrame : Prop :=
  ∀ (s : State) (w : Workgroup) (t t' : Team) (pc : Nat) (i : Instr) (op : Nat) (e : Enc) (f : Nat → Nat → Nat → AluOut),
    Issuing s w t pc → t.fmask = 0 → aluOf s w i = some (op, e, f) → noStream e.d = true → streamsFree s e →
    aluParts op e f ((starts s w t pc e).units (uniform op e)) (starts s w t pc e).t = some t' →
    ∃ u, exec i s = .next (if u.st = .done then (s.putWg (w.putTeam u)).teamEnded w.uid t.tix else s.putWg (w.putTeam u)) ∧
      (u.st = .done ↔ ∀ j, j < t.threads.length → (t.thread j).st = .exit) ∧ t.Beside u ∧ u.threads.length = t.threads.length ∧
      (∀ j, (t.thread j).Beside (u.thread j)) ∧
      (∀ j n, ¬(j ∈ (starts s w t pc e).parts ∧ names e.d (Legal.pairs op e).1 true n) → u.vGet j n = t.vGet j n) ∧
      (∀ n, ¬names e.d (Legal.pairs op e).1 false n → u.sGet n = t.sGet n) ∧
      (∀ j n, ¬(j ∈ (starts s w t pc e).parts ∧ ((∃ m, e.d = .p m ∧ m.toNat = n) ∨ ((op = 0x004 ∨ op = 0x005) ∧ ∃ m, e.c = .p m ∧ m.toNat = n))) →
        n < 16 → u.pGet j n = t.pGet j n) ∧
      (∀ q, e.a ≠ .q q → e.b ≠ .q q → e.c ≠ .q q → u.stream q.toNat = t.stream q.toNat) ∧
      u.fstat ||| t.fstat = u.fstat ∧
      (t.pend = none → t.threads.length ≤ 32 → t.Advanced u pc (lenOf e))

/-- R215, R177: an arithmetic instruction that a stream source has no element for yet waits, and neither the participant that met it nor any after it
has done anything. R214: with a write stream as destination, the one participant of an arithmetic instruction appends its result: an ordinary store
of the element's low bytes at the record's next address, after which the stream has moved on by one. The model's choices here: log entries 9 and 25. -/
def Obligations.ArithmeticWaitsAndAppends : Prop :=
  (∀ (s : State) (w : Workgroup) (t : Team) (pc : Nat) (i : Instr) (op : Nat) (e : Enc) (f : Nat → Nat → Nat → AluOut) (q : BitVec 4)
     (j : Nat) (m : BitVec 32) (l : List (Nat × BitVec 32)),
     Issuing s w t pc → aluOf s w i = some (op, e, f) → (starts s w t pc e).units (uniform op e) = (j, m) :: l →
     (usedFields op e).2.1 = true → e.a = .q q → (t.stream q.toNat).bound = true → (t.stream q.toNat).write = false →
     (t.stream q.toNat).buf = [] → (t.stream q.toNat).pos < (t.stream q.toNat).total →
     exec i s = .next { starts s w t pc e with halt := .stall (.stream q.toNat), pend := m ||| (l.map Prod.snd).foldl (· ||| ·) 0 }.finish) ∧
  (∀ (s : State) (w : Workgroup) (t tr : Team) (pc : Nat) (i : Instr) (op : Nat) (e : Enc) (f : Nat → Nat → Nat → AluOut) (q : BitVec 4)
     (j : Nat) (m : BitVec 32) (x : AluOut) (rec : List Byte) (p : Place),
     Issuing s w t pc → aluOf s w i = some (op, e, f) → (starts s w t pc e).units (uniform op e) = [(j, m)] →
     aluRead op e f (starts s w t pc e).t j = some (tr, x) → e.d = .q q → streamsFree s e → t.relPend = none →
     s.streamRecord w q.toNat = some rec → (tr.stream q.toNat).bound = true → (tr.stream q.toNat).write = true →
     (tr.stream q.toNat).pos < (tr.stream q.toNat).total → x.pc = none →
     let r : Run := { starts s w t pc e with t := tr }
     let a := elemAddr rec (tr.stream q.toNat).base (tr.stream q.toNat).pos
     r.check j (fieldAt rec 4 1) a (2 ^ (tr.stream q.toNat).esz) (2 ^ (tr.stream q.toNat).esz) .weak = .ok p → (∀ l va, p ≠ .remote l va) →
     let r1 := r.writeAt j (fieldAt rec 4 1) a.toNat p (natBytes (2 ^ (tr.stream q.toNat).esz) x.d)
     exec i s = .next ((({ r1 with t := r1.t.setStream q.toNat { tr.stream q.toNat with pos := (tr.stream q.toNat).pos + 1 } } : Run).mayRoll).flags
       x.fl).finish)

/-- R66, R135: `movi` writes its literal to the destination of every participant. R94, R95, R98: the retired operations that still run complete as
the arithmetic ones do, and an issue with an active thread counts once in the operation's slot of `SYS_LADDER`; a count at its greatest value stays
(R97). -/
def Obligations.MoviAndRetiredComplete : Prop :=
  (∀ (s : State) (w : Workgroup) (t : Team) (pc : Nat) (e : Enc) (lit : BitVec 64), Issuing s w t pc → noStream e.d = true →
     exec (.movi e lit) s = .next { beginIssue s w t pc 16 e.g e.gn with
       t := ((beginIssue s w t pc 16 e.g e.gn).units (e.g = 15 && uniformOpd true e.d)).foldl
         (fun (t : Team) (x : Nat × BitVec 32) => t.result x.1 e.d 32 0 (e.ty = 1) (if e.ty = 1 then lit.toNat else lit.toNat % 2 ^ 32)) (beginIssue s w t pc 16 e.g e.gn).t }.finish) ∧
  ((∀ (s : State) (w : Workgroup) (t t' : Team) (pc : Nat) (i : Instr) (slot op : Nat) (e : Enc) (f : Nat → Nat → Nat → AluOut),
     Issuing s w t pc → ladderOf i = some (slot, op, e, f) → noStream e.d = true → streamsFree s e →
     aluParts op e f ((starts s w t pc e).units (uniform op e)) (starts s w t pc e).t = some t' →
     exec i s = .next { starts s w t pc e with t := t', s := if (starts s w t pc e).active && !(starts s w t pc e).resumed then s.ladderUse w.ctx slot
       else s }.finish) ∧
   (∀ (s : State) (c slot k n : Nat) (x : Context), s.getCtx c = some x → slot < x.ladder.length → x.ladder.getD slot 0 = n →
     ∃ y, (s.ladderUse c slot).getCtx c = some y ∧ y.ladder.getD slot 0 = min (n + 1) (2 ^ 64 - 1) ∧
       (k ≠ slot → y.ladder.getD k 0 = x.ladder.getD k 0)))

/-! What the integer instructions compute. `A`, `B` and `C` are the operands at the type; R125's `wrap` and `sat`. -/

/-- R128, R129, R130, and what R127 computes: `add`, `sub`, `neg` and `abs` compute exactly and wrap or saturate, `addc` and `subb` carry through a
predicate; the multiplications take the full product, wrapped, saturated or its high half; division truncates towards zero, by zero it gives −1, or
all ones unsigned, with the dividend as remainder, and no flag is raised; `min`, `max`, `clamp` and `sad`. -/
def Obligations.IntegerResults : Prop :=
  (∀ e : Enc, e.ty.toNat ≤ 9 →
     let ty := e.ty.toNat
     let W := Legal.tyWidth ty
     let given := fun (x : Int) (d : Nat) => intAt ty d = if e.var.toNat % 2 = 1 then satAt ty x else wrapAt ty x
     Computes (.add e) (fun a b _ x => given (intAt ty a + intAt ty b) x.d ∧ x.pc = none) ∧
     Computes (.sub e) (fun a b _ x => given (intAt ty a - intAt ty b) x.d ∧ x.pc = none) ∧
     Computes (.neg e) (fun a _ _ x => given (-(intAt ty a)) x.d ∧ x.pc = none) ∧
     Computes (.abs e) (fun a _ _ x => given ((intAt ty a).natAbs : Int) x.d ∧ x.pc = none) ∧
     Computes (.addc e) (fun a b c x => x.d = (a % 2 ^ W + b % 2 ^ W + c % 2) % 2 ^ W ∧ x.pc = some (decide (2 ^ W ≤ a % 2 ^ W + b % 2 ^ W + c % 2))) ∧
     Computes (.subb e) (fun a b c x => (x.d : Int) = ((a % 2 ^ W : Nat) - (b % 2 ^ W : Nat) - (c % 2 : Nat) : Int) % 2 ^ W ∧
       x.pc = some (decide (a % 2 ^ W < b % 2 ^ W + c % 2)))) ∧
  (∀ e : Enc, e.ty.toNat ≤ 9 →
     let ty := e.ty.toNat
     let high := fun a b => intAt ty a * intAt ty b / 2 ^ Legal.tyWidth ty
     Computes (.mul e) (fun a b _ x => intAt ty x.d = if e.var.toNat % 2 = 1 then satAt ty (intAt ty a * intAt ty b) else wrapAt ty (intAt ty a * intAt ty b)) ∧
     Computes (.mulhi e) (fun a b _ x => intAt ty x.d = high a b) ∧
     Computes (.mad e) (fun a b c x => intAt ty x.d = wrapAt ty (intAt ty a * intAt ty b + intAt ty c)) ∧
     Computes (.madhi e) (fun a b c x => intAt ty x.d = wrapAt ty (high a b + intAt ty c))) ∧
  (∀ e : Enc, e.ty.toNat ≤ 9 →
     let ty := e.ty.toNat
     let W := Legal.tyWidth ty
     let quo := fun (a b : Nat) => if intAt ty b = 0 then (if tySigned ty then (-1 : Int) else 2 ^ W - 1)
       else if tySigned ty = true ∧ intAt ty a = -(2 ^ (W - 1)) ∧ intAt ty b = -1 then intAt ty a else (intAt ty a).tdiv (intAt ty b)
     let rem := fun (a b : Nat) => if intAt ty b = 0 then intAt ty a
       else if tySigned ty = true ∧ intAt ty a = -(2 ^ (W - 1)) ∧ intAt ty b = -1 then 0 else intAt ty a - (intAt ty a).tdiv (intAt ty b) * intAt ty b
     Computes (.div e) (fun a b _ x => intAt ty x.d = quo a b ∧ x.fl = 0) ∧ Computes (.rem e) (fun a b _ x => intAt ty x.d = rem a b ∧ x.fl = 0)) ∧
  (∀ e : Enc, e.ty.toNat ≤ 9 →
     let ty := e.ty.toNat
     Computes (.min e) (fun a b _ x => intAt ty x.d = if intAt ty a ≤ intAt ty b then intAt ty a else intAt ty b) ∧
     Computes (.max e) (fun a b _ x => intAt ty x.d = if intAt ty b ≤ intAt ty a then intAt ty a else intAt ty b) ∧
     Computes (.clamp e) (fun a b c x =>
       let m := if intAt ty b ≤ intAt ty a then intAt ty a else intAt ty b
       intAt ty x.d = (if m ≤ intAt ty c then m else intAt ty c) ∧ (intAt ty c < intAt ty b → intAt ty x.d = intAt ty c)) ∧
     Computes (.sad e) (fun a b c x => (x.d : Int) = (((intAt ty a - intAt ty b).natAbs : Int) + (c % 2 ^ 32 : Nat)) % 2 ^ 32) ∧
     (readTypes 0x011 e).2.2 = 8 ∧ (ty ∈ [2, 3, 4, 6, 7, 8] → (Legal.pairs 0x011 e).1 = false ∧ (Legal.pairs 0x011 e).2.2.2 = false))

/-- R131: the logical instructions, shifts and rotations on raw bits; the count is B's 32 bits, so an immediate −1 counts 2^32 − 1. R132: `clz`,
`ctz` and `popc` give a 32-bit count, of zero the width, and `brev` reverses the bits. R133: `bfe` takes a field out, extended as the type, and `bfi`
puts one in. -/
def Obligations.BitResults : Prop :=
  (∀ e : Enc, e.ty.toNat ≤ 1 →
     let W := Legal.tyWidth e.ty.toNat
     let gives := fun (d : Nat) (y : BitVec W) => d = y.toNat
     let v := fun (x : Nat) => BitVec.ofNat W x
     Computes (.and e) (fun a b _ x => gives x.d (v a &&& v b)) ∧ Computes (.or e) (fun a b _ x => gives x.d (v a ||| v b)) ∧
     Computes (.xor e) (fun a b _ x => gives x.d (v a ^^^ v b)) ∧ Computes (.andn e) (fun a b _ x => gives x.d (v a &&& ~~~v b)) ∧
     Computes (.not e) (fun a _ _ x => gives x.d (~~~v a)) ∧
     Computes (.shl e) (fun a b _ x => gives x.d (v a <<< (b % 2 ^ 32))) ∧ Computes (.shr e) (fun a b _ x => gives x.d (v a >>> (b % 2 ^ 32))) ∧
     Computes (.sar e) (fun a b _ x => gives x.d ((v a).sshiftRight (min (b % 2 ^ 32) (W - 1)))) ∧
     Computes (.rotl e) (fun a b _ x => gives x.d ((v a).rotateLeft (b % 2 ^ 32 % W))) ∧
     Computes (.rotr e) (fun a b _ x => gives x.d ((v a).rotateRight (b % 2 ^ 32 % W))) ∧
     (∀ op, 0x017 ≤ op → op ≤ 0x01B → (readTypes op e).2.1 = 8 ∧ (Legal.pairs op e).2.2.1 = false) ∧ immVal 8 (BitVec.ofInt 17 (-1)) = 2 ^ 32 - 1) ∧
  (∀ e : Enc, e.ty.toNat ≤ 1 →
     let W := Legal.tyWidth e.ty.toNat
     Computes (.clz e) (fun a _ _ x => x.d ≤ W ∧ (∀ k, k < x.d → a.testBit (W - 1 - k) = false) ∧ (x.d < W → a.testBit (W - 1 - x.d) = true)) ∧
     Computes (.ctz e) (fun a _ _ x => x.d ≤ W ∧ (∀ k, k < x.d → a.testBit k = false) ∧ (x.d < W → a.testBit x.d = true)) ∧
     Computes (.popc e) (fun a _ _ x => x.d = (List.range W).countP (fun k => a.testBit k)) ∧
     Computes (.brev e) (fun a _ _ x => x.d < 2 ^ W ∧ ∀ k, k < W → x.d.testBit (W - 1 - k) = a.testBit k) ∧
     (Legal.pairs 0x01C e).1 = false ∧ (Legal.pairs 0x01D e).1 = false ∧ (Legal.pairs 0x01E e).1 = false ∧ (Legal.pairs 0x01F e).1 = decide (e.ty = 1)) ∧
  (∀ e : Enc, e.ty.toNat ≤ 9 →
     let ty := e.ty.toNat
     let W := Legal.tyWidth ty
     Computes (.bfe e) (fun a b c x =>
       let pos := min (b % 256) W
       let len := min (c % 256) (W - pos)
       let f := a % 2 ^ W / 2 ^ pos % 2 ^ len
       intAt ty x.d = if len = 0 then 0 else if tySigned ty = true ∧ f.testBit (len - 1) = true then (f : Int) - 2 ^ len else f) ∧
     Computes (.bfi e) (fun a b c x =>
       let pos := min (c % 256) W
       let len := min (c / 256 % 256) (W - pos)
       x.d < 2 ^ W ∧ ∀ k, k < W → x.d.testBit k = if pos ≤ k ∧ k < pos + len then a.testBit (k - pos) else b.testBit k) ∧
     (readTypes 0x020 e).2.1 = 8 ∧ (readTypes 0x020 e).2.2 = 8 ∧ (readTypes 0x021 e).2.2 = 8)

/-- R140: `fabs`, `fneg` and `fsgn` change the sign alone; a NaN in A gives the canonical NaN, and NV comes from a signalling NaN operand alone.
R139: `fmin` and `fmax` order −0 below +0; without `.num` a NaN gives the canonical NaN, with it the other operand; a signalling NaN raises NV and
nothing else raises a flag. -/
def Obligations.SignAndMinMaxResults : Prop :=
  (∀ e : Enc, 10 ≤ e.ty.toNat →
     let ty := e.ty.toNat
     let m := 2 ^ (fltWidth ty - 1)
     let canon := (fltBits ty).2.2
     Computes (.fabs e) (fun a b _ x => fltGives ty (fun y _ => if fltNaN ty y then canon else y % m) (fun y _ => fltSig ty y) a b x) ∧
     Computes (.fneg e) (fun a b _ x => fltGives ty (fun y _ => if fltNaN ty y then canon else (y + m) % (2 * m)) (fun y _ => fltSig ty y) a b x) ∧
     Computes (.fsgn e) (fun a b _ x => fltGives ty (fun y z => if fltNaN ty y then canon else y % m + z / m * m) (fun y z => fltSig ty y || fltSig ty z) a b x)) ∧
  (∀ e : Enc, 10 ≤ e.ty.toNat →
     let ty := e.ty.toNat
     let canon := (fltBits ty).2.2
     let num := e.var.toNat % 2 = 1
     let pick := fun (low : Bool) (y z : Nat) =>
       if fltNaN ty y && fltNaN ty z then canon
       else if fltNaN ty y then (if num then z else canon)
       else if fltNaN ty z then (if num then y else canon)
       else if fltKey ty y ≤ fltKey ty z then (if low then y else z) else (if low then z else y)
     Computes (.fmin e) (fun a b _ x => fltGives ty (pick true) (fun y z => fltSig ty y || fltSig ty z) a b x) ∧
     Computes (.fmax e) (fun a b _ x => fltGives ty (pick false) (fun y z => fltSig ty y || fltSig ty z) a b x))

/-! Control and divergence. -/

/-- R167, R160: a direct branch sends its participants, or every candidate where it executes once for the team, to PC + 8·A, and changes nothing
else. -/
def Obligations.BranchResults : Prop :=
  ∀ (s : State) (w : Workgroup) (t : Team) (pc : Nat) (e : Enc), Issuing s w t pc → Fresh t →
    ∃ u, exec (.bra e) s = .next (s.putWg (w.putTeam u)) ∧ t.Still u ∧
      t.Sent u pc (lenOf e) (moversOf s w t pc 0x0A0 e) (fun _ => branchTarget pc e.a)

/-- R167, R160: `call` pushes the return address in every thread it sends; `ret` pops an address that begins an instruction of loaded code and goes
there. R164, R167: the first thread of a `call` that holds 64 return addresses, or of a `ret` that holds none, faults the context with STACK_OVF
before any part of the instruction takes effect. The model's choices here: log entries 9 and 107. -/
def Obligations.CallReturnAndItsFaults : Prop :=
  (∀ (s : State) (w : Workgroup) (t : Team) (pc : Nat) (e : Enc), Issuing s w t pc → Fresh t →
     ((∀ j ∈ moversOf s w t pc 0x0A2 e, (t.thread j).ret.length < 64) →
       ∃ u, exec (.call e) s = .next (s.putWg (w.putTeam u)) ∧
         (t.mapThreads (fun j h => if j ∈ moversOf s w t pc 0x0A2 e then { h with ret := (pc + lenOf e) :: h.ret } else h)).Still u ∧
         t.Sent u pc (lenOf e) (moversOf s w t pc 0x0A2 e) (fun _ => branchTarget pc e.a)) ∧
     (∀ back : Nat → Nat, (∀ j ∈ moversOf s w t pc 0x0A4 e, (t.thread j).ret.head? = some (back j) ∧ s.codeTarget w.ctx (back j) = true) →
       ∃ u, exec (.ret e) s = .next (s.putWg (w.putTeam u)) ∧
         (t.mapThreads (fun j h => if j ∈ moversOf s w t pc 0x0A4 e then { h with ret := h.ret.tail } else h)).Still u ∧
         t.Sent u pc (lenOf e) (moversOf s w t pc 0x0A4 e) back)) ∧
  (∀ (s : State) (w : Workgroup) (t : Team) (pc j : Nat) (l : List Nat) (e : Enc), Issuing s w t pc →
     (moversOf s w t pc 0x0A2 e = j :: l → 64 ≤ (t.thread j).ret.length →
       exec (.call e) s = .next (faultedAt s w t pc (bit32 j) clsStack 3)) ∧
     (moversOf s w t pc 0x0A4 e = j :: l → (t.thread j).ret = [] → exec (.ret e) s = .next (faultedAt s w t pc (bit32 j) clsStack 4)) ∧
     (∀ a r, moversOf s w t pc 0x0A4 e = j :: l → (t.thread j).ret = a :: r → s.codeTarget w.ctx a = false →
       exec (.ret e) s = .next (faultedAt s w t pc (bit32 j) clsIllegal 3)))

/-- R167, R316: an indirect transfer of one thread to the beginning of an instruction of a translated function goes there; the node has then entered
the function's object (R331). A target that begins no instruction faults with ILLEGAL_ENCODING, sub-code 3. The model's choices here: log entry 107. -/
def Obligations.IndirectTransfers : Prop :=
  ∀ (s : State) (w : Workgroup) (t : Team) (pc j : Nat) (e : Enc) (o : CodeObj), Issuing s w t pc → Fresh t → noStream e.a = true →
    let a := ((starts s w t pc e).pairAt j e.a)
    s.trampAt w.ctx a = none →
    (s.codeTarget w.ctx a = true → s.objAt w.ctx a = some o → (s.nodeEnter w.node o.handle).translated o a = true →
      (moversOf s w t pc 0x0A1 e = [j] →
        ∃ u, exec (.brx e) s = .next ((s.nodeEnter w.node o.handle).putWg (w.putTeam u)) ∧ t.Still u ∧ t.Sent u pc (lenOf e) [j] (fun _ => a)) ∧
      (moversOf s w t pc 0x0A3 e = [j] → (t.thread j).ret.length < 64 →
        ∃ u, exec (.callx e) s = .next ((s.nodeEnter w.node o.handle).putWg (w.putTeam u)) ∧
          (t.modThread j (fun h => { h with ret := (pc + lenOf e) :: h.ret })).Still u ∧ t.Sent u pc (lenOf e) [j] (fun _ => a))) ∧
    (s.codeTarget w.ctx a = false → moversOf s w t pc 0x0A1 e = [j] → exec (.brx e) s = .next (faultedAt s w t pc (bit32 j) clsIllegal 3))

/-- R153, R162, R167: `exit` takes its participants to EXIT, clears their bits in every entry of the mask stack, and moves no PC of theirs; the
team's end is taken where no thread is left (R154). No remote store is held back here. -/
def Obligations.ExitCompletes : Prop :=
  ∀ (s : State) (w : Workgroup) (t : Team) (pc : Nat) (e : Enc), Issuing s w t pc → Fresh t → t.comb = [] →
    let ps := (starts s w t pc e).parts
    ∃ u, exec (.exit e) s = .next (if u.st = .done then (s.putWg (w.putTeam u)).teamEnded w.uid t.tix else s.putWg (w.putTeam u)) ∧
      (∃ ms, ({ t with masks := ms } : Team).Still u ∧ ms.length = t.masks.length ∧
        ∀ k j, k < t.masks.length → j < 32 → hasBit (ms.getD k 0) j = (hasBit (t.masks.getD k 0) j && !ps.contains j)) ∧
      (∀ j ∈ ps, (u.thread j).st = .exit) ∧ (∀ j, j ∉ ps → ((u.thread j).st = .exit ↔ (t.thread j).st = .exit)) ∧
      (u.st = .done ↔ ∀ j, j < t.threads.length → (u.thread j).st = .exit) ∧ t.Sent u pc (lenOf e) ps (fun j => (t.thread j).pc)

/-- R165: the mask stack under `mpush`, `minv`, `mpop` and `bzm`. -/
def Obligations.MaskStack : Prop :=
  ∀ (s : State) (w : Workgroup) (t : Team) (pc : Nat) (e : Enc), Issuing s w t pc → Fresh t → TeamReady s w t pc e →
    (∀ p, e.a = .p p → t.depth < 15 → ∃ u m, exec (.mpush e) s = .next (s.putWg (w.putTeam u)) ∧ ({ t with masks := m :: t.masks } : Team).Still u ∧
      (∀ j, t.livesAt j → hasBit m j = (hasBit t.top j && (t.pGet j p.toNat != (decide (e.var.toNat % 2 = 1))))) ∧ t.Advanced u pc (lenOf e)) ∧
    (15 ≤ t.depth → exec (.mpush e) s = .next (faultedAt s w t pc (starts s w t pc e).cands clsStack 0)) ∧
    (∀ m below rest, t.masks = m :: below :: rest →
      (∃ u m2, exec (.minv e) s = .next (s.putWg (w.putTeam u)) ∧ ({ t with masks := m2 :: below :: rest } : Team).Still u ∧
        (∀ j, t.livesAt j → hasBit m2 j = (hasBit below j && !hasBit m j)) ∧ t.Advanced u pc (lenOf e)) ∧
      (∃ u, exec (.mpop e) s = .next (s.putWg (w.putTeam u)) ∧ ({ t with masks := below :: rest } : Team).Still u ∧ t.Advanced u pc (lenOf e))) ∧
    (t.masks.length ≤ 1 → exec (.minv e) s = .next (faultedAt s w t pc (starts s w t pc e).cands clsStack 1) ∧
      exec (.mpop e) s = .next (faultedAt s w t pc (starts s w t pc e).cands clsStack 1)) ∧
    ((∀ j, t.livesAt j → hasBit t.top j = false) → ∃ u, exec (.bzm e) s = .next (s.putWg (w.putTeam u)) ∧ t.Still u ∧
      t.Sent u pc (lenOf e) (maskList (t.candidates pc) t.threads.length) (fun _ => branchTarget pc e.a)) ∧
    ((∃ j, t.livesAt j ∧ hasBit t.top j = true) → ∃ u, exec (.bzm e) s = .next (s.putWg (w.putTeam u)) ∧ t.Still u ∧ t.Advanced u pc (lenOf e))

/-- R163, R164: a team instruction faults where the team is not converged or its guard is mixed, and is skipped where the guard is false in every
active thread. -/
def Obligations.TeamInstructionGuards : Prop :=
  ∀ (s : State) (w : Workgroup) (t : Team) (pc : Nat) (i : Instr) (e : Enc), Issuing s w t pc → Fresh t → teamInstrOf i = some e →
    let r := starts s w t pc e
    let act := maskList (r.cands &&& t.top) t.threads.length
    (r.converged = false → exec i s = .next (faultedAt s w t pc r.cands clsStack 2)) ∧
    (r.converged = true → r.parts.length ≠ act.length → r.parts ≠ [] → exec i s = .next (faultedAt s w t pc r.cands clsStack 2)) ∧
    (r.converged = true → r.parts.length ≠ act.length → r.parts = [] →
      ∃ u, exec i s = .next (s.putWg (w.putTeam u)) ∧ t.Still u ∧ t.Advanced u pc (lenOf e))

/-- R168: `loop` opens a loop or skips its body, and faults with 16 open; `endloop` counts down and goes back, or closes the top loop. -/
def Obligations.LoopStack : Prop :=
  ∀ (s : State) (w : Workgroup) (t : Team) (pc : Nat) (e : Enc), Issuing s w t pc → Fresh t → TeamReady s w t pc e →
    (∀ n, t.source 0 e.a 8 32 0 false = some (n, t) → noStream e.a = true → t.loops.length < 16 →
      (n ≠ 0 → ∃ u, exec (.loop e) s = .next (s.putWg (w.putTeam u)) ∧
        ({ t with loops := { count := n, head := pc + lenOf e, last := branchTarget pc e.b } :: t.loops } : Team).Still u ∧ t.Advanced u pc (lenOf e)) ∧
      (n = 0 → ∃ u, exec (.loop e) s = .next (s.putWg (w.putTeam u)) ∧ t.Still u ∧ t.Sent u pc (lenOf e) (maskList (t.candidates pc) t.threads.length)
        (fun _ => branchTarget pc e.b + s.lenAt w.ctx (branchTarget pc e.b)))) ∧
    (16 ≤ t.loops.length → exec (.loop e) s = .next (faultedAt s w t pc (starts s w t pc e).cands clsStack 5)) ∧
    (∀ l rest, t.loops = l :: rest →
      (l.count ≠ 1 → 0 < l.count → ∃ u, exec (.endloop e) s = .next (s.putWg (w.putTeam u)) ∧
        ({ t with loops := { l with count := l.count - 1 } :: rest } : Team).Still u ∧
        t.Sent u pc (lenOf e) (maskList (t.candidates pc) t.threads.length) (fun _ => l.head)) ∧
      (l.count = 1 → ∃ u, exec (.endloop e) s = .next (s.putWg (w.putTeam u)) ∧ ({ t with loops := rest } : Team).Still u ∧ t.Advanced u pc (lenOf e))) ∧
    (t.loops = [] → exec (.endloop e) s = .next (faultedAt s w t pc (starts s w t pc e).cands clsStack 6))

/-- R88, R171 to R173, R175: `nop` changes nothing but PCs; `yield` also makes the next lead selection start above the PC past it and clears the
watchdog; `reconv` holds the threads that stand at it, masked off or not, while a thread of the team in RUN or PARK is below, `rjoin` while a thread is
parked, and both pass at once otherwise. The model's choices here: log entry 124. -/
def Obligations.YieldAndJoins : Prop :=
  ∀ (s : State) (w : Workgroup) (t : Team) (pc : Nat) (e : Enc), Issuing s w t pc → Fresh t →
    let ps := (starts s w t pc e).parts
    let all := maskList (t.candidates pc) t.threads.length
    let low := t.threads.any (fun h => (h.st = .run || h.st = .park) && decide (h.pc < pc))
    (∃ u, exec (.nop e) s = .next (s.putWg (w.putTeam u)) ∧ t.Still u ∧ t.Advanced u pc (lenOf e)) ∧
    (∃ u, exec (.yield e) s = .next (s.putWg (w.putTeam u)) ∧ t.Still u ∧ t.Advanced u pc (lenOf e) ∧
      (ps ≠ [] → u.yieldAt = some (pc + lenOf e) ∧ u.wdog = 0 ∧ u.wdogExp = false) ∧ (ps = [] → u.yieldAt = none)) ∧
    (∃ u, exec (.reconv e) s = .next (s.putWg (w.putTeam u)) ∧ t.Still u ∧
      (low = true → t.Sent u pc (lenOf e) all (fun _ => pc) ∧ ∀ j ∈ all, (u.thread j).st = .hold) ∧ (low = false → t.Advanced u pc (lenOf e))) ∧
    (∃ u, exec (.rjoin e) s = .next (s.putWg (w.putTeam u)) ∧ t.Still u ∧
      (t.split = true → t.Sent u pc (lenOf e) all (fun _ => pc) ∧ ∀ j ∈ all, (u.thread j).st = .hold) ∧ (t.split = false → t.Advanced u pc (lenOf e)))

/-- R180, R181: `dqpop.pop` takes the next value of the team's feed once per issue, `.test` asks whether one is left; past the feed's end both give
0; with the value not arrived the team waits. The model's choices here: log entry 9. -/
def Obligations.DecisionQueue : Prop :=
  ∀ (s : State) (w : Workgroup) (t : Team) (pc : Nat) (e : Enc), Issuing s w t pc → noStream e.d = true →
    let r := starts s w t pc e
    let gives := fun (x : Nat) (u : Team) => r.parts.foldl (fun u i => u.result i e.d 32 0 false x) u
    r.parts ≠ [] →
    (s.feedLen w ≤ t.feedPos → exec (.dqpop e) s = .next { r with t := gives 0 t.begun }.finish) ∧
    (t.feedPos < s.feedLen w → ∀ v rest, t.feedBuf = v :: rest →
      (e.var = 0 → exec (.dqpop e) s = .next { r with t := gives v.toNat { t.begun with feedBuf := rest, feedPos := t.feedPos + 1 } }.finish) ∧
      (e.var ≠ 0 → exec (.dqpop e) s = .next { r with t := gives 1 t.begun }.finish)) ∧
    (t.feedPos < s.feedLen w → t.feedBuf = [] → exec (.dqpop e) s = .next { r with halt := .stall .feed, pend := listMask r.parts }.finish)

/-- R169, R370: `trap` faults the context with its code; `brk` with breakpoints enabled writes a record of class 18 and stops the team at it, and is
a `nop` with them disabled. R73, R91, R92, R98, R451: a trap stub with an active thread raises ILLEGAL_ENCODING at its own address whatever its
guard, with sub-code 0 for a malformed or unassigned code, 1 for `ldsh` and 2 for `pmma` and `bwt`; the issue of a retired code is counted first. The
model's choices here: log entries 28 and 29. -/
def Obligations.TrapsAndBreak : Prop :=
  (∀ (s : State) (w : Workgroup) (t : Team) (pc : Nat) (e : Enc) (x : Context), Issuing s w t pc → Fresh t → s.getCtx w.ctx = some x →
     let r := starts s w t pc e
     let code := (immOf e.a).toNat
     let f : FaultInfo := { mkFault clsTrap code 0 with code := code, ppc := pc }
     (r.parts ≠ [] → exec (.trap e) s = .next ((s.putWg (w.putTeam t.begun)).teamFatal w t.begun (listMask r.parts) f)) ∧
     (r.parts = [] → ∃ u, exec (.trap e) s = .next (s.putWg (w.putTeam u)) ∧ t.Still u ∧ t.Advanced u pc (lenOf e)) ∧
     (x.brk = false → ∃ u, exec (.brk e) s = .next (s.putWg (w.putTeam u)) ∧ t.Still u ∧ t.Advanced u pc (lenOf e)) ∧
     (x.brk = true → r.parts ≠ [] →
       let rec_ := teamRecord s w t.begun (listMask r.parts) { mkFault clsBreak code 0 with code := code, ppc := pc }
       exec (.brk e) s = .next { r with s := s.fqBreak w.ctx rec_, t := { t.begun with brkNext := some (pc + lenOf e) }, halt := .stall .brk,
                                        pend := r.cands }.finish)) ∧
  (∀ (s : State) (w : Workgroup) (t : Team) (pc : Nat) (i : Instr) (x : Option (BitVec 64)) (sub : Nat) (slot : Option Nat),
     Issuing s w t pc → Fresh t → stubOf i = some (x, sub, slot) →
     let m := t.candidates pc &&& t.top
     (m ≠ 0 → exec i s = .next (faultedAt (match slot with
       | some k => s.ladderUse w.ctx k
       | none => s) w t pc m clsIllegal sub)) ∧
     (m = 0 → ∃ u, exec i s = .next (s.putWg (w.putTeam u)) ∧ t.Still u ∧ t.Advanced u pc (if x.isSome then 16 else 8)))

/-- R368, R371: taking a context-fatal fault discards the context as a whole: it is FAULTED with the fault's record as its cause, the record stands
in the next place of its fault queue, its interrupt goes out, no other context changes, and of its work nothing is left but copies that end an element
they have started, with the regions they stand in (R281). -/
def Obligations.ContextFaultEntry : Prop :=
  ∀ (s : State) (w : Workgroup) (t : Team) (m : BitVec 32) (f : FaultInfo) (x : Context), s.getCtx w.ctx = some x → x.st.live = true →
    f.cls ≠ clsMemUe → x.fqFull = false →
    let r := teamRecord s w t m f
    let s' := s.teamFatal w t m f
    ∃ y, s'.getCtx w.ctx = some y ∧ y.st = .faulted ∧ y.cause = some r ∧ y.fqHead = (x.fqHead + 1) % 128 ∧
      tabGet (x.fqHead % 64) y.fq = some { r with dropBrk := min x.dropBrk 65535 } ∧
      (∀ v ∈ s'.wgs, v.ctx = w.ctx → v.st = .done ∧ v.teams = [] ∧ ∃ o ∈ s'.ops, o.wg = v.uid) ∧
      (∀ o ∈ s'.ops, o.ctx = w.ctx → o.st = .killed ∧ o.link = { wait := none, arr := none } ∧
        ∃ o0 ∈ s.ops, o0.id = o.id ∧ o0.st.isBusy = true ∧ (o0.waits ≠ [] ∨ o0.unacked ≠ [])) ∧
      (Output.msix x.fqvec) ∈ s'.out ∧
      (∀ c, c ≠ w.ctx → (s'.getCtx c) = s.getCtx c) ∧
      (r.cls = f.cls ∧ r.sub = f.sub ∧ r.ppc = f.ppc ∧ r.addr = f.addr ∧ r.tmask = m ∧ r.core = w.core ∧ r.lane = t.lane ∧ r.tslot = t.slot)

/-! Exchange and messages. -/

/-- R7, R182, R184: an exchange reads the operands of all its participants, then its iterations take place in ascending order, each writing its
participant's result before the next: an s register that an earlier one has written is read anew; where every operand is plain it completes. The
model's choices here: log entries 31 and 32. -/
def Obligations.ExchangeCompletes : Prop :=
  ∀ (s : State) (w : Workgroup) (t : Team) (pc : Nat) (i : Instr) (op : Nat) (e : Enc) (seed : Gathered → Nat) (f : Gathered → Iteration),
    Issuing s w t pc → exchOf i = some (op, e, seed, f) → noStream e.a = true → noStream e.b = true → noStream e.d = true →
    let r := starts s w t pc e
    let g := gathered op e r.parts t.begun
    exec i s = .next { r with t := exchanged op e (f g) r.parts t.begun 0 r.parts (seed g) t.begun }.finish

/-- R184: what each participant of an exchange receives, where no iteration changes an operand. Participant `k` of the list has index `x.1`, A
`x.2.1` and B `x.2.2`. -/
def Obligations.ExchangeResults : Prop :=
  ∀ (e : Enc) (g : Gathered) (k : Nat) (x : Nat × Nat × Nat), (g.map Prod.fst).Nodup → g[k]? = some x → (∀ y ∈ g, y.1 < 32) →
    let gets := fun (i : Instr) (P : Nat → Prop) => ∃ op seed f, exchOf i = some (op, e, seed, f) ∧ P (f g g k (carryAt (f g) g (seed g) k)).1
    let W := Legal.tyWidth e.ty.toNat
    let T := e.ty.toNat
    gets (.xprev e) (fun d => (k = 0 → d = x.2.2) ∧ ∀ y, 0 < k → g[k - 1]? = some y → d = y.2.1) ∧
    gets (.xnext e) (fun d => (g[k + 1]? = none → d = x.2.2) ∧ ∀ y, g[k + 1]? = some y → d = y.2.1) ∧
    gets (.xbcast e) (fun d => (∀ y ∈ g, y.1 = x.2.2 % 2 ^ 32 → d = y.2.1) ∧ ((∀ y ∈ g, y.1 ≠ x.2.2 % 2 ^ 32) → d = 0)) ∧
    gets (.xscan e) (fun d => ∀ z, g.head? = some z →
      d = carryAfter T (e.var.toNat % 4) (seedAt T z.2.2) g (if 4 ≤ e.var.toNat then k else k + 1)) ∧
    (∀ b, T ≤ 9 → intAt T (seedAt T b) = intAt T b) ∧ (∀ b, 10 ≤ T → T ≤ 13 → seedAt T b = b % 2 ^ W) ∧
    gets (.xred e) (fun d => d = carryAfter T (e.var.toNat % 4) (identityOf T (e.var.toNat % 4)) g g.length) ∧
    gets (.ballot e) (fun d => ∀ u, d.testBit u = g.any (fun y => y.1 = u && y.2.1 = 1)) ∧
    gets (.vote e) (fun d => d = if (match e.var.toNat with
      | 0 => g.all (fun y => y.2.1 = 1)
      | 1 => g.any (fun y => y.2.1 = 1)
      | _ => g.all (fun y => y.2.1 = 1) || g.all (fun y => y.2.1 = 0)) then 1 else 0) ∧
    gets (.xmatch e) (fun d => ∀ u, d.testBit u = g.any (fun y => y.1 = u && y.2.1 % 2 ^ W = x.2.1 % 2 ^ W))

/-- R185: `tidx` writes an identity value in each participant, `actc` a count of the participants. -/
def Obligations.IdentityResults : Prop :=
  ∀ (s : State) (w : Workgroup) (t : Team) (pc : Nat) (e : Enc), Issuing s w t pc → noStream e.d = true →
    let r := starts s w t pc e
    let ident := fun (j : Nat) => match e.var.toNat with
      | 0 => j
      | 1 => t.tix
      | 2 => t.lane
      | 3 => w.wgx % 2 ^ 32
      | 4 => w.nbPosX + 256 * w.nbPosY
      | 5 => w.nbx % 2 ^ 32
      | 6 => t.tix * w.teamSize + j
      | _ => w.teamSize
    let count := fun (j : Nat) => match e.var.toNat with
      | 0 => r.parts.length
      | 1 => r.parts.countP (fun i => decide (i < j))
      | _ => r.parts.headD 0
    exec (.tidx e) s = .next { r with t := r.parts.foldl (fun u j => u.result j e.d 32 e.selD.toNat false (ident j)) t.begun }.finish ∧
    exec (.actc e) s = .next { r with t := r.parts.foldl (fun u j => u.result j e.d 32 e.selD.toNat false (count j)) t.begun }.finish

/-- R187, R188: one entry is appended to a channel of the member workgroup at the displacement, and one is taken from the own channel; a full or
empty channel makes the team wait, and a displacement without a member faults with ILLEGAL_ENCODING, sub-code 3. With `.rel` the earlier accesses
have performed first, here none being held back. The model's choices here: log entry 9. -/
def Obligations.MessagesComplete : Prop :=
  ∀ (s : State) (w m : Workgroup) (t : Team) (pc j : Nat) (b : BitVec 32) (e : Enc) (d : Int × Int), Issuing s w t pc →
    let r := starts s w t pc e
    let s1 := if e.var.toNat % 2 = 1 then s.release w.core w.ctx nbhScope else s
    let c := Legal.raw12 e.c
    let v := BitVec.ofNat 32 (t.valueOf true j e.a 0 32 0 false)
    (noStream e.a = true → (e.var.toNat % 2 = 1 → freeToRelease s w t) → r.units (uniform 0x153 e) = [(j, b)] →
      (s1.putWg (w.putTeam t.begun)).displacement w pc (Legal.raw12 e.b) = some d →
      ((s1.putWg (w.putTeam t.begun)).memberAt w d.1 d.2 = some m →
        (m.uid ≠ w.uid → m.st ≠ .done → (m.chans.getD c []).length < 32 →
          exec (.nsend e) s = .next { r with s := s1.putWg (m.chanPush c v) }.finish) ∧
        (m.uid = w.uid → (w.chans.getD c []).length < 32 → exec (.nsend e) s = .next { r with s := s1, w := w.chanPush c v }.finish) ∧
        (m.uid ≠ w.uid → m.st ≠ .done → 32 ≤ (m.chans.getD c []).length →
          exec (.nsend e) s = .next { r with s := s1, halt := .stall (.chanSend m.uid c), pend := b }.finish)) ∧
      ((s1.putWg (w.putTeam t.begun)).memberAt w d.1 d.2 = none →
        exec (.nsend e) s = .next (faultedAt s1 w t pc b clsIllegal 3))) ∧
    (∀ x rest, noStream e.d = true → r.units (uniform 0x154 e) = [(j, b)] → w.chans.getD (Legal.raw12 e.a) [] = x :: rest →
      exec (.nrecv e) s = .next { r with w := { w with chans := modNth (fun _ => rest) w.chans (Legal.raw12 e.a) },
                                         t := t.begun.result j e.d 32 0 false x.toNat,
                                         s := if e.var.toNat % 2 = 1 then s.acquire w.core w.uid t.tix nbhScope else s }.finish) ∧
    (r.units (uniform 0x154 e) = [(j, b)] → w.chans.getD (Legal.raw12 e.a) [] = [] →
      exec (.nrecv e) s = .next { r with halt := .stall (.chanRecv (Legal.raw12 e.a)), pend := b }.finish)

/-! Memory. -/

/-- R3, R190, R194, R198, R199: bytes written to a local place read back there, its memory stays in canonical form, and every other byte that any
agent reads at a local place stays, where the core's L1 has room. -/
def Obligations.PlaceBytes : Prop :=
  ∀ (s : State) (ag : Agent) (p : Place) (bs : List Byte) (m : SparseB), s.bytesOf ag p = some m → Memory.wf m = true →
    (∀ pa, p = .phys pa → s.roomFor ag.core pa bs.length) →
    (s.writePlace ag p bs).readPlace ag p bs.length = bs ∧
    (∃ m', (s.writePlace ag p bs).bytesOf ag p = some m' ∧ Memory.wf m' = true) ∧
    (∀ ag' q, (s.bytesOf ag' q).isSome = true → ¬ Place.holds ag p bs.length ag' q → (s.writePlace ag p bs).readPlace ag' q 1 = s.readPlace ag' q 1)

/-- R202 to R206, R229: a load of one participant at a good local address writes the bytes there, extended as its type, to D, and no byte that any
core sees changes; an acquire at `.nbh` or wider reads past the core's clean copies. The team has no store of another team still to see (R221). The
model's choices here: log entries 12 and 125. -/
def Obligations.LoadsComplete : Prop :=
  ∀ (s : State) (w : Workgroup) (t : Team) (pc j op : Nat) (b : BitVec 32) (i : Instr) (e : Enc) (a : Int) (p : Place) (m : SparseB),
    Issuing s w t pc → Fresh t → isLoad i = true → memOf t j 0 i = some (op, e, a) → e.var.toNat ∈ [0, 1, 4] → (e.var = 4 → freeToRelease s w t) →
    plainAccess e = true → (starts s w t pc e).units (uniform op e) = [(j, b)] → Reaches (accessStart s w t e) w t j e a .load p m →
    (∀ x ∈ s.stale, ¬ (x.wg = w.uid ∧ x.tix = t.tix)) →
    let acq := decide (e.var ≠ 0 ∧ 3 ≤ actScope e)
    let seen := if acq then (accessStart s w t e).acquireAt w.core 3 else accessStart s w t e
    let x := bytesNat (seen.readPlace (agentOf w t j) p (accessBytes e.ty.toNat))
    let value := if tySigned e.ty.toNat ∧ Legal.tyWidth e.ty.toNat < 32 then toBits 32 (sVal (Legal.tyWidth e.ty.toNat) x) else x
    ∃ u cs ds ms fr dr st bd, exec i s = .next { s.putWg (w.putTeam u) with cores := cs, dieTlb := ds, misses := ms, free := fr, dram := dr, stale := st, bad := bd } ∧
      (t.result j e.d 32 0 (Legal.ty64 e.ty.toNat) value).Still u ∧ t.Advanced u pc (lenOf e) ∧
      (e.var ≠ 4 → dr = s.dram) ∧ (∀ c q, ({ s with cores := cs, dram := dr } : State).viewByte c q =
        if acq = true ∧ c = w.core then ((accessStart s w t e).acquireAt w.core 3).viewByte c q else (accessStart s w t e).viewByte c q)

/-- R202 to R207, R229: a store of one participant at a good local address puts the low bytes of its value there and nowhere else; a release at
`.nbh` or wider leaves them at the point of coherence, after the core's earlier ones. The model's choices here: log entry 12. -/
def Obligations.StoresComplete : Prop :=
  ∀ (s : State) (w : Workgroup) (t : Team) (pc j op : Nat) (b : BitVec 32) (i : Instr) (e : Enc) (a : Int) (p : Place) (m : SparseB),
    Issuing s w t pc → Fresh t → isStore i = true → memOf t j 0 i = some (op, e, a) → (e.var = 0 ∨ (e.var = 2 ∨ e.var = 4) ∧ freeToRelease s w t) →
    plainAccess e = true → (starts s w t pc e).units (uniform op e) = [(j, b)] →
    Reaches (accessStart s w t e) w t j e a (if e.var = 0 then .weak else .store) p m →
    let n := accessBytes e.ty.toNat
    let bs := natBytes n (t.valueOf true j e.d e.ty.toNat 32 0 (Legal.ty64 e.ty.toNat))
    let t1 := match p with
      | .lane o => t.modThread j (fun h => { h with lane := spPut 0 h.lane o bs })
      | _ => t
    ∃ s' u, exec i s = .next s' ∧ s'.teamNow w t = some u ∧ t1.Still u ∧ t.Advanced u pc (lenOf e) ∧ SameElse s s' w t ∧
      s'.readPlace (agentOf w t j) p n = bs ∧
      (∀ ag q, (s.bytesOf ag q).isSome = true → ¬ Place.holds (agentOf w t j) p n ag q → (e.var ≠ 0 → 3 ≤ actScope e → ¬ p.sameByte n q) →
        s'.readPlace ag q 1 = (accessStart s w t e).readPlace ag q 1) ∧
      (e.var ≠ 0 → 3 ≤ actScope e → ∀ pa k, p = .phys pa → k < n → spGet 0 s'.dram (pa + k) = bs.getD k 0)

/-- R208, R209, R229: an atomic operation of one participant at a good local address reads the old value, puts the new one there and nowhere else,
raises its flags, and gives `atom` the old value in D. The model's choices here: log entry 12. -/
def Obligations.AtomicsComplete : Prop :=
  ∀ (s : State) (w : Workgroup) (t : Team) (pc j op : Nat) (b : BitVec 32) (i : Instr) (e : Enc) (a : Int) (p : Place) (m : SparseB),
    Issuing s w t pc → Fresh t → (i = .atom e ∨ i = .red e) → memOf t j 0 i = some (op, e, a) → e.var.toNat ≤ 4 →
    (e.var.toNat ≤ 1 ∨ freeToRelease s w t) → plainAccess e = true → (starts s w t pc e).units (uniform op e) = [(j, b)] →
    Reaches (accessStart s w t e) w t j e a .atomic p m →
    let n := accessBytes e.ty.toNat
    let pair := Legal.ty64 e.ty.toNat
    let ag := agentOf w t j
    let seen := match p with
      | .phys pa => if 3 ≤ actScope e then ((accessStart s w t e).l1Clean w.core (fun y => pa ≤ y && y < pa + n)).l1Drop w.core (fun y => pa ≤ y && y < pa + n)
          else accessStart s w t e
      | _ => accessStart s w t e
    let old := bytesNat (seen.readPlace ag p n)
    let y := atomNew (Legal.aopOf e) e.ty.toNat old (t.valueOf true j e.b e.ty.toNat 32 0 pair)
      (if i = .atom e then t.valueOf true j e.d e.ty.toNat 32 0 pair else 0)
    let t1 := match p with
      | .lane o => t.modThread j (fun h => { h with lane := spPut 0 h.lane o (natBytes n y.1) })
      | _ => t
    let t2 := if i = .atom e then t1.result j e.d 32 0 pair old else t1
    ∃ s' u, exec i s = .next s' ∧ s'.teamNow w t = some u ∧ ({ t2 with fstat := t.fstat ||| y.2 } : Team).Still u ∧ t.Advanced u pc (lenOf e) ∧
      SameElse s s' w t ∧ s'.readPlace ag p n = natBytes n y.1 ∧
      (∀ ag' q, (s.bytesOf ag' q).isSome = true → ¬ Place.holds ag p n ag' q → (3 ≤ actScope e → ¬ p.sameByte n q) →
        (∀ pb, q = .phys pb → isAcq e = true → 3 ≤ actScope e → ag'.core ≠ w.core) → s'.readPlace ag' q 1 = (accessStart s w t e).readPlace ag' q 1)

/-- R210, R225, R227 to R229: `fence` with a participant and nothing to wait for. `.sc` releases and acquires; `.acq` and `.ar` acquire, at `.nbh` and
wider dropping the core's clean bytes; the release of `.rel` and `.ar` performs before the team's next store, and not before its loads. No register
changes; with no participant nothing does. R211: `pf` changes nothing that any core sees. R212: `cwb` and `cinv` of one participant act on the lines
that overlap [A, A + B): at `.nbh` and wider the dirty bytes that any core holds of them are written back, and `cinv` leaves none of them in any L1; a
length of 0 does nothing, and an end beyond the canonical space faults. The model's choices here: log entries 12 and 126. -/
def Obligations.FencesPrefetchAndCache : Prop :=
  (∀ (s : State) (w : Workgroup) (t : Team) (pc : Nat) (e : Enc), Issuing s w t pc → Fresh t →
     let sc := Legal.scopeOf e
     let s1 := if e.var = 4 then s.release w.core w.ctx sc else s
     let s2 := if isAcq e then s1.acquire w.core w.uid t.tix sc else s1
     let t1 : Team := { t with relPend := if e.var = 4 then none else if isRel e then some (max (t.relPend.getD 0) sc) else t.relPend }
     ((starts s w t pc e).parts ≠ [] → (isRel e = true → t.comb = []) → (e.var = 4 → freeToRelease s w t) →
       ∃ u, exec (.fence e) s = .next (s2.putWg (w.putTeam u)) ∧ t1.Still u ∧ t.Advanced u pc (lenOf e)) ∧
     ((starts s w t pc e).parts = [] → ∃ u, exec (.fence e) s = .next (s.putWg (w.putTeam u)) ∧ t.Still u ∧ t.Advanced u pc (lenOf e)) ∧
     (∀ k, s2.getCore w.core = some k → 3 ≤ sc → (isAcq e = true → ∀ b ∈ k.l1, b.dirty = true) ∧ (e.var = 4 → k.l1 = [])) ∧
     (∀ k b, s.getCore w.core = some k → (k.l1.map L1Byte.addr).Nodup → Memory.wf s.dram = true → b ∈ k.l1 → 3 ≤ sc → e.var = 4 →
       spGet 0 s2.dram b.addr = if b.dirty then b.val else spGet 0 s.dram b.addr) ∧
     (∀ rel j b op a p m,
       let t' : Team := { t with relPend := none }
       let s' := (s.release w.core w.ctx rel).putWg (w.putTeam t')
       t.relPend = some rel → (rel < 6 ∨ s.ctxUnacked w.ctx = false) → plainAccess e = true → (starts s w t pc e).units (uniform 0x0D1 e) = [(j, b)] → e.var = 0 →
       memOf t j 0 (.st e) = some (op, e, a) → Reaches (accessStart s' w t' e) w t' j e a .weak p m → exec (.st e) s = exec (.st e) s') ∧
     (noStream e.a = true → noStream e.b = true → (∀ pa, s.roomFor w.core (128 * pa) 128) →
       ∃ u cs fr, exec (.pf e) s = .next { s.putWg (w.putTeam u) with cores := cs, free := fr } ∧ t.Still u ∧
       t.Advanced u pc (lenOf e) ∧ ∀ c q, ({ s with cores := cs } : State).viewByte c q = s.viewByte c q)) ∧
  (∀ (s : State) (w : Workgroup) (t : Team) (pc j : Nat) (b : BitVec 32) (i : Instr) (e : Enc) (x : Context) (k : Core),
     Issuing s w t pc → Fresh t → s.getCtx w.ctx = some x → s.getCore w.core = some k → (s.cores.map Core.id).Nodup →
     (∀ y ∈ s.cores, (y.l1.map L1Byte.addr).Nodup) → Memory.wf s.dram = true →
     (i = .cinv e ∨ i = .cwb e) → Legal.space e = 4 → noStream e.a = true → noStream e.b = true →
     (starts s w t pc e).units (uniform (if i = .cinv e then 0x0DA else 0x0DB) e) = [(j, b)] →
     let a := t.valueOf true j e.a 1 64 0 true
     let n := t.valueOf true j e.b 8 32 0 false % 2 ^ 32
     let lines := fun (pa : Nat) => ∃ l ∈ x.pages, l.res = true ∧ l.home = s.pkg ∧ ∃ va, l.covers va = true ∧ pa = pa42 l.frame + (va - l.va) ∧
       a / 128 ≤ va / 128 ∧ va / 128 ≤ (a + n - 1) / 128
     let dirtyIn := fun (q : Nat) (y : Core) => ∃ z, y.l1Byte q = some z ∧ z.dirty = true
     (n = 0 → ∃ u, exec i s = .next (s.putWg (w.putTeam u)) ∧ t.Still u ∧ t.Advanced u pc (lenOf e)) ∧
     (0 < n → 2 ^ 57 ≤ a + n - 1 → ∃ s', exec i s = .next s' ∧
       s' = (s.putWg (w.putTeam t.begun)).teamFatal w t.begun b { mkFault clsAddress 2 (if 2 ^ 57 ≤ a then a else a + n - 1) with ppc := pc }) ∧
     (0 < n → a + n - 1 < 2 ^ 57 → k.locks = [] →
       ∃ u cs dr bd, exec i s = .next { s.putWg (w.putTeam u) with cores := cs, dram := dr, bad := bd } ∧ t.Still u ∧ t.Advanced u pc (lenOf e) ∧
         (∀ q, 3 ≤ actScope e → lines q →
           (∀ y ∈ s.cores, ∀ z, y.l1Byte q = some z → z.dirty = true → (∀ y' ∈ s.cores, y'.id ≠ y.id → ¬ dirtyIn q y') → spGet 0 dr q = z.val) ∧
           ((∀ y ∈ s.cores, ¬ dirtyIn q y) → spGet 0 dr q = spGet 0 s.dram q)) ∧
         (∀ c q, 3 ≤ actScope e → lines q → i = .cinv e → ({ s with cores := cs, dram := dr } : State).viewByte c q = spGet 0 dr q) ∧
         (∀ q, (3 ≤ actScope e → ¬ lines q) → spGet 0 dr q = spGet 0 s.dram q ∧ ∀ c, ({ s with cores := cs, dram := dr } : State).viewByte c q = s.viewByte c q)))

/-- R213, R214: `sbind` reads the base from the record's s register, sets the position to element 0 and discards what was fetched; `sclose` discards
what is unread and unbinds, after a write stream's elements have performed; a stream register that no record names makes either a trap stub. The model's
choices here: log entry 26. -/
def Obligations.StreamsBind : Prop :=
  ∀ (s : State) (w : Workgroup) (t : Team) (pc : Nat) (e : Enc) (n : BitVec 4), Issuing s w t pc → Fresh t → e.a = .q n →
    let q := n.toNat
    let r := starts s w t pc e
    let st := t.stream q
    (∀ k o, st.copy = some k → s.getOp k = some o → o.st.isBusy = false) → r.parts ≠ [] →
    (∀ rec, s.streamRecord w q = some rec →
      let base := (t.sGet (fieldAt rec 8 4)).toNat + if fieldAt rec 4 1 = 4 then 2 ^ 32 * (t.sGet (fieldAt rec 8 4 + 1)).toNat else 0
      let s1 := if st.bound && st.write then s.release w.core w.ctx (widest (fieldAt rec 4 1)) else s
      (∃ u, exec (.sbind e) s = .next (s.putWg (w.putTeam u)) ∧ t.Advanced u pc (lenOf e) ∧
        ((t.dropBlocks q).setStream q { bound := true, base := base, pos := 0, buf := [], copy := none, total := recTotal rec, write := fieldAt rec 1 1 = 1, esz := fieldAt rec 2 1 }).Still u) ∧
      (freeToRelease s w t → ∃ u, exec (.sclose e) s = .next (s1.putWg (w.putTeam u)) ∧ t.Advanced u pc (lenOf e) ∧
        ((t.dropBlocks q).setStream q { st with bound := false, buf := [], copy := none }).Still u)) ∧
    (∀ x ∈ (t.dropBlocks q).streamBlocks, x.1 ≠ q) ∧
    (s.streamRecord w q = none → r.active = true →
      exec (.sbind e) s = .next (faultedAt s w t pc (r.cands &&& t.top) clsIllegal 0) ∧
      exec (.sclose e) s = .next (faultedAt s w t pc (r.cands &&& t.top) clsIllegal 0))

/-- R177, R191, R207, R241, R335, R401, R419: an access of one participant that does not perform in local bytes. On a page that is not resident the
participant stays at the instruction in FAULT and the team replays, an indexed access holding its rank and address; a bad address discards the
context; a plain store to a page of another package enters the combining buffer, and a load from one sends a READ; a store to the doorbell page kicks
its queue. The model's choices here: log entries 1 and 9. -/
def Obligations.AccessesElsewhere : Prop :=
  ∀ (s : State) (w : Workgroup) (t : Team) (pc j op : Nat) (b : BitVec 32) (i : Instr) (e : Enc) (a : Int),
    Issuing s w t pc → Fresh t → memOf t j 0 i = some (op, e, a) → e.var = 0 → plainAccess e = true → (starts s w t pc e).units (uniform op e) = [(j, b)] →
    t.relPend = none → (t.thread j).held = none →
    let n := accessBytes e.ty.toNat
    let acc := if isLoad i then Acc.load else if isStore i then Acc.weak else Acc.atomic
    let s1 := accessStart s w t e
    let bs := natBytes n (t.valueOf true j e.d e.ty.toNat 32 0 (Legal.ty64 e.ty.toNat))
    let t1 := if isIndexed i then t.modThread j (fun h => { h with held := some { rank := 0, addr := some ((a % 2 ^ 64).toNat) } }) else t
    (∀ va c, s1.locate (agentOf w t j) (Legal.space e) a n n acc = .replay va c →
      ∃ s' u, exec i s = .next s' ∧ s'.teamNow w t = some u ∧ SameElse s s' w t ∧ t1.Still u ∧ u.st = .replay (.page va) ∧ u.fmask = b ∧
        (∀ k, hasBit b k = true → (u.thread k).st = .fault) ∧ t.Sent u pc (lenOf e) (maskList b t.threads.length) (fun _ => pc) ∧
        ∀ ag q, (s.bytesOf ag q).isSome = true → s'.readPlace ag q 1 = s.readPlace ag q 1) ∧
    (∀ f, isIndexed i = false → s1.locate (agentOf w t j) (Legal.space e) a n n acc = .bad f →
      ∃ s2, exec i s = .next (s2.teamFatal w t.begun b { f with ppc := pc }) ∧ SameElse s1 s2 w t ∧ s2.contexts = s.contexts) ∧
    (∀ l va, s1.locate (agentOf w t j) (Legal.space e) a n n acc = .at_ (.remote l va) → s1.lockMet (agentOf w t j) 4 (.remote l va) a.toNat n (acc ≠ .load) = none →
      t.comb = [] → l.conf = false → s.reachable l.home = true → s.sendFlits < 2 ^ 24 → (∀ x, s.getCtx w.ctx = some x → x.gangQuiet = false) →
      (i = .st e → ∃ s' u, exec i s = .next s' ∧ s'.teamNow w t = some u ∧ SameElse s s' w t ∧ t.SameRegs u ∧ t.Advanced u pc (lenOf e) ∧
        ∃ c, u.comb = [c] ∧ c.thread = j ∧ c.block = va / 64 * 64 ∧ c.mask = byteMask (va % 64) n ∧ spTake 0 c.bytes (va % 64) n = bs) ∧
      (i = .ld e → ∃ s' u p x, exec i s = .next s' ∧ s'.teamNow w t = some u ∧ t.SameRegs u ∧
        s'.sendStore = s.sendStore ++ [{ type := .read, p := p, sentAt := none, firstAt := s.tai }] ∧ p.dst = l.home ∧ p.addr = va ∧ p.ctx = w.ctx ∧
        p.mask = BitVec.ofNat 64 (2 ^ j) ∧ p.seq = (s.peer l.home).txSeq.toNat ∧ u.remote = t.remote ++ [x] ∧ x.threads = bit32 j ∧ x.d = e.d ∧ x.peer = l.home ∧
        x.req = s.nextId ∧ (u.st = .stall .remote ∨ (u.thread j).st = .park))) ∧
    (∀ va, i = .st e → s1.locate (agentOf w t j) (Legal.space e) a n n acc = .at_ (.bell va) → s1.lockMet (agentOf w t j) 4 (.bell va) a.toNat n true = none →
      ∃ s' u, exec i s = .next s' ∧ s'.teamNow w t = some u ∧ t.Still u ∧ t.Advanced u pc (lenOf e) ∧
        s'.queues = if n = 8 then (s.kick ((va - ((s.getCtx w.ctx).map Context.doorbell).getD 0) / 8) (bytesNat bs) (some w.ctx)).queues else s.queues)

/-! Copies and the press. -/

/-- R231, R279, R286, R287: `cpy` with nothing to wait for creates a BUSY operation on its token with a read lock on its source and a write lock on
its destination, or with length 0 a DONE one; an interval beyond the canonical space faults, and a token whose operation has not ended makes the team
wait. R282 to R286, R288, R296, R431: a copy with a command block that the team can read is REJECTED with the reason of the first check of R283 that
it fails; one that passes them all and whose intervals lie in their spaces is BUSY with its locks. `rpart` is issued the same way. The model's
choices here: log entry 104. -/
def Obligations.CopiesIssue : Prop :=
  (∀ (s : State) (w : Workgroup) (t : Team) (pc j : Nat) (rest : List Nat) (e : Enc) (c : Core), Issuing s w t pc → Fresh t → freeToRelease s w t →
      (starts s w t pc e).parts = j :: rest → noStream e.a = true → noStream e.b = true → noStream e.c = true → s.getCore w.core = some c →
      let k := tkNo e.d
      let dst := t.valueOf true j e.a 1 64 0 true
      let src := t.valueOf true j e.b 1 64 0 true
      let len := t.valueOf true j e.c 8 32 0 false
      let o := fun (st : OpSt) => opFor s w t pc k st e.var.toNat
        (.copy { kind := 0, block := [], dst := if len = 0 then 0 else dst, src := if len = 0 then 0 else src, len := len, idx := 0, total := len, bytes := 0, flags := 0, why := 0 })
      let lk := fun (a : Nat) (wr : Bool) => ({ space := 4, tag := w.ctx, lo := a, hi := a + len - 1, write := wr, op := s.nextId, tk := k } : Lock)
      (t.link k).wait = none → t.relPend = none →
      (s.tokenFree t k → s.rackerHeld w.core < 64 → (len = 0 ∨ c.locks.length ≤ 62) →
        (0 < len → src + len ≤ 2 ^ 57 → dst + len ≤ 2 ^ 57 →
          ∃ s' u, exec (.cpy e) s = .next s' ∧ s'.teamNow w t = some u ∧ (t.tokened k s.nextId).Still u ∧ t.Advanced u pc (lenOf e) ∧
            s'.ops = s.opsWith t k (o .busy) ∧ (∃ c', s'.getCore w.core = some c' ∧ c'.locks = c.locks ++ [lk src false, lk dst true]) ∧
            ∀ ag q, (s.bytesOf ag q).isSome = true → s'.readPlace ag q 1 = (s.releaseAt w.core e.var.toNat).readPlace ag q 1) ∧
        (len = 0 → (t.link k).arr = none → s.getOp s.nextId = none → ∃ s' u, exec (.cpy e) s = .next s' ∧ s'.teamNow w t = some u ∧ (t.tokened k s.nextId).Still u ∧
          t.Advanced u pc (lenOf e) ∧ s'.ops = s.opsWith t k (o .done)) ∧
        (0 < len → 2 ^ 57 < src + len → Discards (.cpy e) s w t pc (j :: rest) clsAddress 2 ((src + len - 1) % 2 ^ 64)) ∧
        (0 < len → src + len ≤ 2 ^ 57 → 2 ^ 57 < dst + len → Discards (.cpy e) s w t pc (j :: rest) clsAddress 2 ((dst + len - 1) % 2 ^ 64))) ∧
      (¬ s.tokenFree t k → WaitsAt (.cpy e) s w t pc (lenOf e) (j :: rest) (.token k)) ∧
      (s.tokenFree t k → 64 ≤ s.rackerHeld w.core → WaitsAt (.cpy e) s w t pc (lenOf e) (j :: rest) .rackerFull)) ∧
  (∀ (s : State) (w : Workgroup) (t : Team) (pc j kind : Nat) (rest : List Nat) (i : Instr) (e : Enc) (c : Core) (r1 : Run) (b : List Byte),
      Issuing s w t pc → Fresh t → freeToRelease s w t → (copyOf i = some (kind, e) ∨ i = .rpart e ∧ kind = 6) →
      (starts s w t pc e).parts = j :: rest → noStream e.a = true → s.getCore w.core = some c →
      let k := tkNo e.d
      let a := t.valueOf true j e.a 1 64 0 true
      let rel := if kind = 6 then 6 else (starts s w t pc e).peekScope j a
      let r0 : Run := { starts s w t pc e with s := s.release w.core w.ctx rel }
      (t.link k).wait = none → t.relPend = none → (t.link k).arr = none → s.tokenFree t k → s.rackerHeld w.core < 64 → c.locks.length ≤ 60 → r0.readBlock j a = (r1, b) → r1.halt = .go →
      let why := if headReason kind b ≠ 0 then headReason kind b else if kind = 6 then 0 else bodyReason w kind b
      let stream := decide (kind = 1 ∧ fieldAt b 11 1 = 15)
      (why ≠ 0 → s.getOp s.nextId = none → ∃ s' u o, exec i s = .next s' ∧ s'.teamNow w t = some u ∧ t.SameRegs u ∧ t.Advanced u pc (lenOf e) ∧ u.tokens = tabSet k s.nextId t.tokens ∧
        s'.ops = s.opsWith t k o ∧ o.id = s.nextId ∧ o.st = .rejected ∧ (∃ c', s'.getCore w.core = some c' ∧ c'.locks = c.locks) ∧
        (match o.body with
          | .copy x => x.why = why ∧ kind ≠ 6
          | .rpart x => x.why = why ∧ kind = 6
          | .press _ => False)) ∧
      (why = 0 → kind ≠ 6 → (∀ x ∈ rangesOf w kind b, r1.interval j x.sp x.lo x.hi = none) → (stream = true → r1.streamTaken (fieldAt b 12 1) = false) →
        (kind = 3 → fieldAt b 24 4 * fieldAt b 28 4 ≤ s.ringFree w (fieldAt b 9 1)) →
        ∃ s' u, exec i s = .next s' ∧ s'.teamNow w t = some u ∧ t.SameRegs u ∧ t.Advanced u pc (lenOf e) ∧ u.tokens = tabSet k s.nextId t.tokens ∧
          s'.ops = s.opsWith t k (opFor s w t pc k .busy (min (fieldAt b 4 1) (widest (copyDest kind b)))
            (.copy { kind := kind, block := b, dst := 0, src := 0, len := 0, idx := 0, total := copyTotal kind b, bytes := 0, flags := 0, why := 0 })) ∧
          (∃ c', s'.getCore w.core = some c' ∧ c'.locks = c.locks ++ ((rangesOf w kind b).flatMap (fun x => lockFor w x.sp x.lo x.hi x.write)).map
            (fun l => { l with op := s.nextId, tk := k })) ∧
          (stream = true → ∃ q, tabGet (fieldAt b 12 1) u.streams = some q ∧ q.bound = true ∧ q.copy = some s.nextId ∧ q.pos = 0 ∧ q.total = cpytTotal b)) ∧
      (why = 0 → kind = 6 → (∀ x ∈ rpRanges b, r1.interval j x.sp x.lo x.hi = none) →
        ∃ s' u, exec i s = .next s' ∧ s'.teamNow w t = some u ∧ t.SameRegs u ∧ t.Advanced u pc (lenOf e) ∧ u.tokens = tabSet k s.nextId t.tokens ∧
          s'.ops = s.opsWith t k (opFor s w t pc k .busy (fieldAt b 4 1) (.rpart { block := b, stage := 0, bounds := [], hist := [], cnts := [], recs := [], recv := 0,
                                                                                      kept := false, why := 0 }))))

/-- R232, R247, R269, R270, R293, R294: `cwait` and `pwait` hold the team while the token's operation has not ended; the status of a token reads 0
where it names no operation. A wait that passes, and a status that reads DONE, acquire at the operation's scope. The model's choices here: log entry
92. -/
def Obligations.TokensWait : Prop :=
  ∀ (s : State) (w : Workgroup) (t : Team) (pc : Nat) (e : Enc), Issuing s w t pc → Fresh t → (starts s w t pc e).parts ≠ [] → noStream e.d = true →
    let k := tkNo e.a
    let ps := (starts s w t pc e).parts
    let code := match s.opOf t k with
      | some o => (match o.st with
        | .queued => 1 | .active => 1 | .busy => 1 | .saved => 1 | .killed => 1 | .done => 2 | .faulted => 3 | .rejected => 4 | .overflow => 5)
      | none => 0
    let seen := match s.opOf t k with
      | some o => if o.st = .done ∨ o.st = .overflow then s.acquire w.core w.uid t.tix o.scope else s
      | none => s
    (s.tokenFree t k → Ends (.cwait e) s seen w t t pc (lenOf e) ∧ Ends (.pwait e) s seen w t t pc (lenOf e)) ∧
    (¬ s.tokenFree t k → WaitsAt (.cwait e) s w t pc (lenOf e) ps (.token k) ∧ WaitsAt (.pwait e) s w t pc (lenOf e) ps (.token k)) ∧
    (e.var = 0 → Ends (.cstat e) s seen w (t.gives ps e.d false code) t pc (lenOf e) ∧ Ends (.pstat e) s seen w (t.gives ps e.d false code) t pc (lenOf e)) ∧
    (∀ o b, s.opOf t k = some o → o.body = .copy b →
      (e.var = 1 → Ends (.cstat e) s s w (t.gives ps e.d false (min b.bytes (2 ^ 32 - 1))) t pc (lenOf e)) ∧
      (e.var = 2 → Ends (.cstat e) s s w (t.gives ps e.d false b.why) t pc (lenOf e)) ∧
      (e.var = 3 → Ends (.cstat e) s s w (t.gives ps e.d false b.flags.toNat) t pc (lenOf e))) ∧
    (∀ o b, s.opOf t k = some o → o.body = .press b → e.var ≠ 0 →
      Ends (.pstat e) s s w (t.gives ps e.d false (b.wbase + (List.range 64).countP (fun n => b.doneBits.getLsbD n))) t pc (lenOf e))

/-- R50, R250, R265 to R268, R273, R274: `fmt` and `nestw` set the team's press configuration; `pgo` captures it and creates a QUEUED operation, or
faults with ILLEGAL_FORMAT; `ringinit` empties a ring that no BUSY operation names, and `ringstat` reads one. -/
def Obligations.PressIssues : Prop :=
  ∀ (s : State) (w : Workgroup) (t : Team) (pc j : Nat) (rest : List Nat) (e : Enc) (c : Core), Issuing s w t pc → Fresh t →
    (starts s w t pc e).parts = j :: rest → noStream e.a = true → noStream e.b = true → noStream e.d = true → s.getCore w.core = some c →
    let ps := j :: rest
    let x := t.valueOf true j e.a 0 32 0 false
    Ends (.fmt e) s s w { t with pfmt := BitVec.ofNat 32 (x % 2 ^ 19), pfmtLater := [] } t pc (lenOf e) ∧
    (∀ n q, e.a = .imm n → n.toNat < 6 → e.b = .s q → t.nest.length ≤ 6 → e.var ≠ 2 → ∃ rows,
      Ends (.nestw e) s s w { t with nest := rows, nrows := if e.var = 1 then n.toNat + 1 else t.nrows } t pc (lenOf e) ∧
      rows[n.toNat]? = some ((List.range 8).map (fun m => t.sGet (q.toNat + m))) ∧ ∀ m, m ≠ n.toNat → m < t.nest.length → rows[m]? = t.nest[m]?) ∧
    (∀ rows, e.var = 2 → s.nestRows w.ctx pc (immOf e.a).toNat = some rows → rows.length ≤ 6 → t.nest.length ≤ 6 → ∃ all,
      Ends (.nestw e) s s w { t with nest := all, nrows := rows.length } t pc (lenOf e) ∧ ∀ m, m < rows.length → all[m]? = rows[m]?) ∧
    (freeToRelease s w t → t.relPend = none → s.tokenFree t (tkNo e.d) → (s.pressHeld w.core).length < 16 → c.direct = none → c.locks.length ≤ 62 →
      let p := t.fmtSettled.pfmt
      let rows := t.nest.take t.nrows
      (pgoCheck w p rows (ringNo e.a) (ringNo e.b) (vtNo e.c) = none →
        ∃ s' u, exec (.pgo e) s = .next s' ∧ s'.teamNow w t = some u ∧ (t.tokened (tkNo e.d) s.nextId).Still u ∧ t.Advanced u pc (lenOf e) ∧
          s'.ops = s.opsWith t (tkNo e.d) (opFor s w t pc (tkNo e.d) .queued 2 (.press
            { rows := rows, pfmt := p, cbase := vtNo e.c, ringA := ringNo e.a, ringB := ringNo e.b, headA := (w.ring (ringNo e.a)).head,
              headB := (w.ring (ringNo e.b)).head, popsA := 0, popsB := 0, next := 0, wbase := 0, doneBits := 0, started := [], total := rowsTotal rows }))) ∧
      (∀ sub, pgoCheck w p rows (ringNo e.a) (ringNo e.b) (vtNo e.c) = some sub → Discards (.pgo e) s w t pc ps clsFormat sub 0)) ∧
    ((∀ o ∈ s.ops, o.wg = w.uid → o.namesRing (ringNo e.d) = false) →
      let base := t.valueOf true j e.a 8 32 0 false
      let size := t.valueOf true j e.b 8 32 0 false
      (base % 256 = 0 → size ≠ 0 → size % 256 = 0 → base + size ≤ w.sw → Ends (.ringinit e) s s
        { w with rings := setNth w.rings (ringNo e.d) { base := base, size := size, head := 0, tail := 0 } } t t pc (lenOf e)) ∧
      ((base % 256 ≠ 0 ∨ size = 0 ∨ size % 256 ≠ 0 ∨ w.sw < base + size) → Discards (.ringinit e) s w t pc ps clsFormat 3 0)) ∧
    ((∃ o ∈ s.ops, o.wg = w.uid ∧ o.namesRing (ringNo e.d) = true) → WaitsAt (.ringinit e) s w t pc (lenOf e) ps (.ringIdle (ringNo e.d))) ∧
    (let g := w.ring (ringNo e.a)
     let occ := (g.tail + 2 * g.size - g.head) % (2 * g.size)
     let y := if e.var = 0 then g.head else if e.var = 1 then g.tail else if e.var = 2 then g.size - occ else g.size
     Ends (.ringstat e) s s w (t.gives ps e.d false y) t pc (lenOf e))

/-- R261, R262, R271, R272: `vclr` clears whole tiles and nothing else; `vld`, `vst` and `vacc` move, store and add the 4096 elements of a tile,
converted as their formats say, where every element lies in good local bytes of its own and the team has no store of another team still to see (R221). A range beyond the workgroup's tiles faults with
ILLEGAL_FORMAT, sub-code 2. The model's choices here: log entries 24 and 125. -/
def Obligations.VatInstructions : Prop :=
  ∀ (s : State) (w : Workgroup) (t : Team) (pc j : Nat) (rest : List Nat) (i : Instr) (op : VatOp) (e : Enc), Issuing s w t pc → Fresh t →
    (starts s w t pc e).parts = j :: rest → noStream e.a = true → noStream e.b = true →
    let wide := decide (4 ≤ e.var.toNat)
    let n := t.valueOf true j e.a 8 32 0 false
    let tiles := fun (n : Nat) => n * if wide then 2 else 1
    let ok := fun (n : Nat) => vtNo e.d + tiles n ≤ w.vt ∧ (wide = true → vtNo e.d % 2 = 0)
    (1 ≤ n → tiles n ≤ 128 → ok n → ∃ m bad, Ends (.vclr e) s { s with bad := bad } { w with vat := m } t t pc (lenOf e) ∧
      ∀ q, spGet 0 m q = if vtNo e.d * 4096 ≤ q ∧ q < (vtNo e.d + tiles n) * 4096 then 0 else spGet 0 w.vat q) ∧
    ((n = 0 ∨ 128 < tiles n ∨ ¬ ok n) → Discards (.vclr e) s w t pc (j :: rest) clsFormat 2 0) ∧
    (vatOf i = some (op, e) → ¬ ok 1 → Discards i s w t pc (j :: rest) clsFormat 2 0) ∧
    (∀ (place : Nat → Place), vatOf i = some (op, e) → ok 1 → Legal.space e = 1 →
      let esz := accessBytes e.ty.toNat
      let s1 := s.putWg (w.putTeam t.begun)
      let ag := agentOf w t j
      let addr := fun (k : Nat) => ((t.valueOf true j e.a 0 64 0 false : Nat) : Int) + sVal 32 (t.valueOf true j e.b 4 32 0 false) * ((k / 64 : Nat) : Int) + ((esz * (k % 64) : Nat) : Int)
      let mem := fun (k : Nat) => bytesNat (s1.readPlace ag (place k) esz)
      let old := fun (k : Nat) => w.vatGet wide (vtNo e.d) (k / 64) (k % 64)
      (∀ k, k < 4096 → s1.locate ag 1 (addr k) esz esz (if op = .store then .weak else .load) = .at_ (place k) ∧
        s1.lockMet ag 1 (place k) (addr k).toNat esz (op = .store) = none) →
      s.bad = [] → Memory.wf w.scratch = true → spWf 0 w.vat = true → t.relPend = none → (∀ x ∈ s.stale, ¬ (x.wg = w.uid ∧ x.tix = t.tix)) →
      (op ≠ .store → ∃ m fl, Ends i s s { w with vat := m } { t with fstat := t.fstat ||| fl, fetched := [] } t pc (lenOf e) ∧ spWf 0 m = true ∧
        (op = .load → fl = 0) ∧
        (∀ k, k < 4096 → ({ w with vat := m } : Workgroup).vatGet wide (vtNo e.d) (k / 64) (k % 64) =
          (if op = .load then (match vatFmt e.ty.toNat wide with
            | some (f, g) => (convert g f 0 (mem k)).1
            | none => mem k)
          else (vaccVal e.ty.toNat wide (e.var.toNat % 4) (old k) (mem k)).1) % 2 ^ (if wide then 64 else 32)) ∧
        ∀ q, (q < vtNo e.d * 4096 ∨ (vtNo e.d + tiles 1) * 4096 ≤ q) → spGet 0 m q = spGet 0 w.vat q) ∧
      (op = .store → (∀ k l, k < 4096 → l < 4096 → k ≠ l → addr k + esz ≤ addr l ∨ addr l + esz ≤ addr k) →
        ∃ s' u fl, exec i s = .next s' ∧ s'.teamNow w t = some u ∧ ({ t with fstat := t.fstat ||| fl, fetched := [] } : Team).Still u ∧ t.Advanced u pc (lenOf e) ∧
          (∀ k, k < 4096 → bytesNat (s'.readPlace ag (place k) esz) = (match vatFmt e.ty.toNat wide with
            | some (f, g) => (convert f g (e.var.toNat % 4) (old k)).1
            | none => old k) % 2 ^ (8 * esz)) ∧
          ∀ ag' q, (s.bytesOf ag' q).isSome = true → (∀ k, k < 4096 → ¬ Place.holds ag (place k) esz ag' q) → s'.readPlace ag' q 1 = s.readPlace ag' q 1))

/-! Barriers and the system instructions. -/

/-- R298, R302 to R309 on a core barrier: arming, arrival, wait, both at once, links, disarming and test, each with its faults of class BAR_MISUSE;
an arrival releases at `.wg`, and a wait that ends acquires there. The model's choices here: log entry 87. -/
def Obligations.CoreBarriers : Prop :=
  ∀ (s : State) (w : Workgroup) (t : Team) (pc j k : Nat) (rest : List Nat) (e : Enc) (n6 : BitVec 6) (b : CoreBar), Issuing s w t pc → Fresh t → freeToRelease s w t →
    (starts s w t pc e).parts = j :: rest → noStream e.b = true → noStream e.d = true → e.a = .bar n6 → k = n6.toNat → t.passed = none → t.heldPhase = none →
    let ps := j :: rest
    let n := t.valueOf true j e.b 8 32 0 false
    let len := lenOf e
    let done := fun (phase ph : Nat) => 1 ≤ (phase + 2 ^ 32 - ph % 2 ^ 32) % 2 ^ 32 ∧ (phase + 2 ^ 32 - ph % 2 ^ 32) % 2 ^ 32 ≤ 2 ^ 31
    let busy := b.count ≠ 0 ∨
      (∃ u ∈ (w.putTeam t.begun).teams, ∃ ph, (u.st = .stall (.phase (.core k) ph) ∨ (∀ x q, u.st ≠ .stall (.phase x q)) ∧ u.savedWait = some (.core k, ph)) ∧
        ¬ done b.phase.toNat ph) ∨
      ∃ o ∈ s.ops, o.ctx = w.ctx ∧ o.wg = w.uid ∧ o.linked (.core k) = true
    let live := (w.putTeam t.begun).liveTeams
    let b1 : CoreBar := if b.expect = 0 then { b with arr := b.arr ||| BitVec.ofNat 64 (2 ^ t.tix), count := b.count + 1 } else { b with count := b.count + n }
    let full := if b.expect = 0 then live ≠ 0 ∧ live &&& ~~~b1.arr = 0 else b1.count = b.expect
    let b2 : CoreBar := { b1 with phase := b.phase + 1, arr := 0, count := 0 }
    let rel := s.release w.core w.ctx 2
    let acq := fun (s : State) => s.acquire w.core w.uid t.tix 2
    let with_ := fun (x : CoreBar) => ({ w with bars := setNth w.bars k x } : Workgroup)
    let got := t.gives ps e.d false b.phase.toNat
    let fits := b.armed = true ∧ 1 ≤ n ∧ n ≤ 65535 ∧ (if b.expect = 0 then n = 1 ∧ b.arr.getLsbD t.tix = false else b.count + n ≤ b.expect)
    (w.bars[k]? = none → ∀ i ∈ [Instr.barr e, .bsync e], 1 ≤ n → n ≤ 65535 → Discards i s w t pc ps clsBarrier 0 0) ∧
    (w.bars[k]? = some b →
      (e.ty = 0 → n ≤ 65535 → ¬ busy → Ends (.binit e) s s (with_ { armed := true, expect := n, arr := 0, count := 0, phase := 0 }) t t pc len) ∧
      (e.ty = 0 → 65535 < n → Discards (.binit e) s w t pc ps clsBarrier 4 0) ∧
      (e.ty = 0 → n ≤ 65535 → busy → Discards (.binit e) s w t pc ps clsBarrier 3 0) ∧
      (fits → full → Ends (.barr e) s rel (with_ b2) got t pc len ∧ Ends (.bsync e) s (acq rel) (with_ b2) got t pc len) ∧
      (fits → ¬ full → Ends (.barr e) s rel (with_ b1) got t pc len ∧
        ∃ s' u, exec (.bsync e) s = .next s' ∧ s'.teamNow w t = some u ∧ (s'.getWg w.uid).map Workgroup.bars = some (setNth w.bars k b1) ∧
          ({ got with heldPhase := some (.core k, b.phase.toNat) } : Team).Still u ∧ u.st = .stall (.phase (.core k) b.phase.toNat) ∧
          t.Sent u pc len ps (fun _ => pc)) ∧
      (b.armed = false → 1 ≤ n → n ≤ 65535 → ∀ i ∈ [Instr.barr e, .bsync e], Discards i s w t pc ps clsBarrier 1 0) ∧
      (b.armed = true → 1 ≤ n → n ≤ 65535 → ¬ fits → ∀ i ∈ [Instr.barr e, .bsync e], Discards i s w t pc ps clsBarrier 2 0) ∧
      (b.armed = true → done b.phase.toNat n → Ends (.bwait e) s (acq s) w t t pc len) ∧
      (b.armed = true → ¬ done b.phase.toNat n → WaitsAt (.bwait e) s w t pc len ps (.phase (.core k) n)) ∧
      (b.armed = true → (e.var.toNat / 2 % 2 = 1 → b.expect ≠ 0) → Ends (.blink e) s s w
        { t with links := tabSet (tkNo e.d) { wait := if e.var.toNat % 2 = 1 then some (.core k, n) else (t.link (tkNo e.d)).wait,
                                              arr := if e.var.toNat / 2 % 2 = 1 then some (.core k) else (t.link (tkNo e.d)).arr } t.links } t pc len) ∧
      (b.armed = true → e.var.toNat / 2 % 2 = 1 → b.expect = 0 → Discards (.blink e) s w t pc ps clsBarrier 2 0) ∧
      (b.armed = true → ¬ busy → Ends (.binv e) s s (with_ { b with armed := false }) t t pc len) ∧
      (b.armed = true → busy → Discards (.binv e) s w t pc ps clsBarrier 3 0) ∧
      (b.armed = true → e.var = 0 → (done b.phase.toNat n → Ends (.btest e) s (acq s) w (t.gives ps e.d false 1) t pc len) ∧
        (¬ done b.phase.toNat n → Ends (.btest e) s s w (t.gives ps e.d false 0) t pc len)) ∧
      (b.armed = true → e.var = 1 → Ends (.btest e) s s w (t.gives ps e.d false b.phase.toNat) t pc len) ∧
      (b.armed = true → e.var = 2 → Ends (.btest e) s s w (t.gives ps e.d false b.count) t pc len) ∧
      (b.armed = false → ∀ i ∈ [Instr.bwait e, .blink e, .binv e, .btest e], Discards i s w t pc ps clsBarrier 1 0))

/-- R300 to R307 on a barrier object in this package's memory: its 64 bytes hold whether it is armed, its scope, EXPECT, COUNT and PHASE, and
`binit`, `barr`, `btest`, `binv`, `bsync`, `bwait` and `blink` act on them at the point of coherence. The model's choices here: log entry 35. -/
def Obligations.BarrierObjects : Prop :=
  ∀ (s : State) (w : Workgroup) (t : Team) (pc j : Nat) (rest : List Nat) (e : Enc) (p : Place), Issuing s w t pc → Fresh t → freeToRelease s w t →
    (starts s w t pc e).parts = j :: rest → noStream e.a = true → noStream e.b = true → noStream e.d = true → (∀ n, e.a ≠ .bar n) → t.passed = none → t.heldPhase = none →
    s.bad = [] → s.barWaits = [] → Memory.wf s.dram = true → Memory.wf s.hostMem = true → (∃ pa, p = .phys pa ∨ p = .host pa) →
    let a := t.valueOf true j e.a 1 64 0 true
    let n := t.valueOf true j e.b 8 32 0 false
    let s1 := s.putWg (w.putTeam t.begun)
    (∀ l, s.knows w.ctx l → l.covers a = true → l.mir = false ∧ l.home ∈ [255, s.pkg]) →
    (∀ acc, s1.locate (agentOf w t j) 4 a 64 64 acc = .at_ p) → (∀ acc sc, ((s.release w.core w.ctx sc).putWg (w.putTeam t.begun)).locate (agentOf w t j) 4 a 64 64 acc = .at_ p) →
    let now := fun (s : State) (o m : Nat) => fieldAt ((s.objFlush w.core p).cohGet p 64) o m
    let unmet := s.barBusy (fun v => v.ctx = w.ctx) w.ctx (.obj a) (now s 16 4) = false ∧ s1.barBusy (fun v => v.ctx = w.ctx) w.ctx (.obj a) (now s 16 4) = false
    let met := s1.barBusy (fun v => v.ctx = w.ctx) w.ctx (.obj a) (now s 16 4) = true
    let idle := now s 12 4 = 0 ∧ unmet
    let good := now s 0 4 = 1 ∧ 3 ≤ now s 4 1 ∧ now s 4 1 ≤ 6
    let gives := fun (i : Instr) (t1 : Team) (P : State → Prop) => ∃ s' u, exec i s = .next s' ∧ s'.teamNow w t = some u ∧ t1.Still u ∧ t.Advanced u pc (lenOf e) ∧ P s'
    (e.ty ≠ 0 → 3 ≤ e.var.toNat → e.var.toNat ≤ 6 → 1 ≤ n → n < 2 ^ 31 → unmet → (now s 0 4 = 1 → now s 12 4 = 0) →
      gives (.binit e) t (fun s' => now s' 0 4 = 1 ∧ now s' 4 1 = e.var.toNat ∧ now s' 8 4 = n ∧ now s' 12 4 = 0 ∧ now s' 16 4 = 0)) ∧
    (e.ty ≠ 0 → 3 ≤ e.var.toNat → e.var.toNat ≤ 6 → 1 ≤ n → n < 2 ^ 31 → met → Discards (.binit e) s w t pc (j :: rest) clsBarrier 3 0) ∧
    (good → met → Discards (.binv e) s w t pc (j :: rest) clsBarrier 3 0) ∧
    (good → 1 ≤ n → n ≤ 65535 → now s 12 4 + n < now s 8 4 →
      gives (.barr e) (t.gives (j :: rest) e.d false (now s 16 4)) (fun s' => now s' 12 4 = now s 12 4 + n ∧ now s' 16 4 = now s 16 4 ∧ now s' 8 4 = now s 8 4)) ∧
    (good → 1 ≤ n → n ≤ 65535 → now s 12 4 + n = now s 8 4 →
      gives (.barr e) (t.gives (j :: rest) e.d false (now s 16 4)) (fun s' => now s' 12 4 = 0 ∧ now s' 16 4 = (now s 16 4 + 1) % 2 ^ 32 ∧ now s' 8 4 = now s 8 4)) ∧
    (good → 1 ≤ n → n ≤ 65535 → now s 8 4 < now s 12 4 + n → Discards (.barr e) s w t pc (j :: rest) clsBarrier 2 0) ∧
    (good → e.var = 1 → gives (.btest e) (t.gives (j :: rest) e.d false (now s 16 4)) (fun s' => now s' 16 4 = now s 16 4 ∧ now s' 12 4 = now s 12 4)) ∧
    (good → e.var = 2 → gives (.btest e) (t.gives (j :: rest) e.d false (now s 12 4)) (fun s' => now s' 16 4 = now s 16 4 ∧ now s' 12 4 = now s 12 4)) ∧
    (good → idle → gives (.binv e) t (fun s' => now s' 0 4 = 0)) ∧
    (good → 1 ≤ n → n ≤ 65535 → now s 12 4 + n = now s 8 4 →
      gives (.bsync e) (t.gives (j :: rest) e.d false (now s 16 4)) (fun s' => now s' 12 4 = 0 ∧ now s' 16 4 = (now s 16 4 + 1) % 2 ^ 32)) ∧
    (good → phaseDone (now s 16 4) n = true → gives (.bwait e) t (fun s' => now s' 16 4 = now s 16 4)) ∧
    (good → phaseDone (now s 16 4) n = false → WaitsAt (.bwait e) s w t pc (lenOf e) (j :: rest) (.phase (.obj a) n)) ∧
    (let lnk : Link := { wait := if e.var.toNat % 2 = 1 then some (.obj a, n) else (t.link (tkNo e.d)).wait, arr := if e.var.toNat / 2 % 2 = 1 then some (.obj a) else (t.link (tkNo e.d)).arr }
     good → gives (.blink e) { t with links := tabSet (tkNo e.d) lnk t.links } (fun s' => now s' 16 4 = now s 16 4)) ∧
    (now s 0 4 ≠ 1 → ∀ i ∈ [Instr.btest e, .binv e], Discards i s w t pc (j :: rest) clsBarrier 1 0)

/-- R4, R389 to R394, R390: `srd` reads a register at an index within its range and 0 beyond it, `swr` writes what the register's access code lets
portable code write, and a field that only privileged code may write discards the context; `clk` reads a clock; `prof` reads the counts of the
translation that the team runs; `sleep` holds the team after the instruction; `wdraw` of tag 0 finds nothing; `halt` ends every team of the
workgroup that issues portable code. The model's choices here: log entries 34, 65, 75, 76 and 103. -/
def Obligations.SystemInstructions : Prop :=
  ∀ (s : State) (w : Workgroup) (t : Team) (pc j : Nat) (rest : List Nat) (e : Enc), Issuing s w t pc → Fresh t →
    (starts s w t pc e).parts = j :: rest → noStream e.a = true → noStream e.b = true → noStream e.d = true →
    let r := starts s w t pc e
    let ps := j :: rest
    let n := regNo e.a
    let ix := match e.b with
      | .tk k => k.toNat
      | o => t.valueOf true j o 8 32 0 false
    let x := t.valueOf true j e.d (if e.ty = 1 then 1 else 0) 64 0 (e.ty = 1)
    let reads := fun (v : Nat) => Ends (.srd e) s s w (t.gives ps e.d (e.ty = 1) v) t pc (lenOf e)
    (regHas n ix = false → reads 0 ∧ Ends (.swr e) s s w t t pc (lenOf e)) ∧
    (regHas n ix = true → reads (r.regGet n ix)) ∧
    (n = 0x022 → ix = 0 → reads t.fstat.toNat ∧ Ends (.swr e) s s w { t with fstat := t.fstat &&& ~~~(BitVec.ofNat 6 x) } t pc (lenOf e)) ∧
    (n = 0x030 → ix = 0 → reads t.fmtSettled.pfmt.toNat ∧ Ends (.swr e) s s w { t with pfmt := BitVec.ofNat 32 (x % 2 ^ 19), pfmtLater := [] } t pc (lenOf e)) ∧
    (n = 0x031 → ix = 0 → reads t.prsFstat.toNat ∧ Ends (.swr e) s s w { t with prsFstat := t.prsFstat &&& ~~~(BitVec.ofNat 6 x) } t pc (lenOf e)) ∧
    (∀ q, n = 0x051 → ix ≤ 4095 → s.getQueue ix = some q → q.ctx = w.ctx → Ends (.swr e) s (s.putQueue (q.statClear x)) w t t pc (lenOf e)) ∧
    (regHas n ix = true → regPriv n ix = true → r.privileged = false → Discards (.swr e) s w t pc ps clsIllegal 5 0) ∧
    (regHas n ix = true → n ∈ [0x000, 0x001, 0x002, 0x010, 0x011, 0x012, 0x013, 0x014, 0x015, 0x020, 0x021, 0x023, 0x032, 0x033, 0x034, 0x040, 0x061, 0x070, 0x080, 0x081, 0x082,
      0x0C0, 0x0C1, 0x0C2, 0x0C3, 0x0C5, 0x0C6] → Ends (.swr e) s s w t t pc (lenOf e)) ∧
    Ends (.clk e) s s w (t.gives ps e.d true ((if e.var = 0 then s.cc else s.tai) % 2 ^ 64)) t pc (lenOf e) ∧
    (s.entryAt w pc = none → Ends (.prof e) s s w (t.gives ps e.d true 0) t pc (lenOf e)) ∧
    (∀ d g, s.entryAt w pc = some (d, g) →
      (e.var = 0 → Ends (.prof e) s s w (t.gives ps e.d true (d.counts w.ctx g).nodes) t pc (lenOf e)) ∧
      (e.var = 1 → ∃ k, Ends (.prof e) s (({ s with free := s.free + 1 } : State).putDir { d with
        prof := { d.counts w.ctx g with samples := (d.counts w.ctx g).samples + k } :: d.prof.filter (fun y => !(y.ctx = w.ctx && y.gen = g)) })
        w (t.gives ps e.d true (4096 * ((d.counts w.ctx g).samples + k) % 2 ^ 64)) t pc (lenOf e)) ∧
      (e.var = 2 → Ends (.prof e) s s w (t.gives ps e.d true (d.counts w.ctx g).rollbacks) t pc (lenOf e)) ∧
      (e.var = 3 → Ends (.prof e) s s w (t.gives ps e.d true g) t pc (lenOf e))) ∧
    (let y := if e.ty = 1 then t.valueOf true j e.a 1 64 0 true else t.valueOf true j e.a 8 32 0 false
     ∃ u, exec (.sleep e) s = .next (s.putWg (w.putTeam u)) ∧ t.Still u ∧ t.Advanced u pc (lenOf e) ∧
       u.st = .stall (if e.ty = 1 then .sleepTai y else .sleepCc (s.cc + y))) ∧
    (t.valueOf true j e.a 0 32 0 false % 2 ^ 32 = 0 → (∀ c, s.getCtx w.ctx = some c → c.st = .running) →
      Ends (.wdraw e) s s w (t.gives ps e.d false 0) t pc (lenOf e)) ∧
    (∀ tag, tag = t.valueOf true j e.a 0 32 0 false % 2 ^ 32 → tag ≠ 0 → (∃ c, s.getCtx w.ctx = some c ∧ c.st = .running) →
      (∀ q ∈ s.queues, q.ctx = w.ctx → q.widx = q.ridx) → (∀ m ∈ s.nodes, m.tag = tag → m.succs = []) → ∃ s' u, exec (.wdraw e) s = .next s' ∧ s'.teamNow w t = some u ∧ t.Advanced u pc (lenOf e) ∧
        (t.gives ps e.d false (s.nodes.countP (fun m => m.ctx = w.ctx && m.tag = tag && 3 ≤ m.stage && m.stage ≤ 5))).Still u ∧
        ∀ m ∈ s'.nodes, m.ctx = w.ctx → m.tag = tag → ¬ (3 ≤ m.stage ∧ m.stage ≤ 5)) ∧
    (e.var = 1 → (∀ v ∈ s.wgs, ∀ u ∈ v.teams, u.pendFaults = [] ∧ s.inNative v u = false) → ∃ s', exec (.halt e) s = .next s' ∧
      (∀ v ∈ s'.wgs, v.node = w.node → ∀ u ∈ v.teams, u.st = .done) ∧ ∀ m ∈ s'.nodes, m.id = w.node → m.halted = true) ∧
    (e.var ≠ 1 → (∀ u ∈ w.teams, u.pendFaults = [] ∧ s.inNative w u = false) → ∃ s' v, exec (.halt e) s = .next s' ∧ s'.getWg w.uid = some v ∧ v.teams.length = w.teams.length ∧
      (∀ u ∈ v.teams, u.st = .done ∧ ∀ h ∈ u.threads, (∃ u0 ∈ w.teams, u0.tix = u.tix ∧ u0.st = .done) ∨ h.st = .exit) ∧
      ∀ ag q, ag.wg ≠ w.uid → (s.bytesOf ag q).isSome = true → s'.readPlace ag q 1 = s.readPlace ag q 1)

/-! The native form. -/

/-- R99, R102, R105, R107, R110, R113, R116, R117: a clause waits for its flags and then takes its threads and, with COMMIT or IDEM, their record; a
recorded fault that its WAIT names, or any at a STOP point, comes before it; a bundle of moves reads every source before it writes; a long-latency
operation whose latency is over writes its register and lowers its flag. The model's choices here: log entries 96 and 97. -/
def Obligations.NativeSteps : Prop :=
  ∀ (s : State) (w : Workgroup) (t : Team) (pc : Nat), s.issuer = some (w, t) → t.leadPc = some pc → t.pendFaults = [] → t.fmask = 0 →
    (∀ h : ClauseHeader, t.nat.direct = false → (∀ f, f < 12 → h.wait.getLsbD f = true → t.flagOf f = 0) →
      (t.nat.faults = [] → t.halting = false →
        ∃ s' u, exec (.clauseStart h) s = .next s' ∧ s'.teamNow w t = some u ∧ SameElse s s' w t ∧ u.st = .ready ∧ u.nat.started = true ∧ u.nat.bundle = 0 ∧ u.nat.subs = [] ∧
          u.nat.mask = t.candidates pc ∧ u.nat.gf = t.nat.gf ∧ u.nat.flags = t.nat.flags ∧ u.fstat = t.fstat ∧ u.masks = t.masks ∧
          (∀ i, (u.thread i).a = (t.thread i).a ∧ (u.thread i).p = (t.thread i).p ∧ (u.thread i).pc = (t.thread i).pc) ∧
          (h.commit = true → u.commit.pc = pc ∧ u.commit.gf = t.nat.gf ∧ u.commit.fstat = t.fstat ∧
            ∀ i, hasBit (t.candidates pc) i = true → ∃ k, tabGet i u.commit.threads = some k ∧ k.a = (t.thread i).a ∧ k.p = (t.thread i).p ∧ k.pc = (t.thread i).pc) ∧
          (h.commit = false → u.commit = t.commit) ∧ (h.idem = true → ∃ c, u.nat.region = some c ∧ c.pc = pc) ∧ (h.idem = false → u.nat.region = t.nat.region)) ∧
      (∀ x : NatFault, t.nat.faults = [x] → (h.stop = true ∨ ∃ f, x.flag = some f ∧ h.wait.getLsbD f = true) →
        (∀ f, x.why = .fatal f → exec (.clauseStart h) s =
          .next (s.teamFatal w t x.mask { f with ppc := originOf (s.sideAt w.ctx pc) t.commit.sidx x.flag f.ppc })) ∧
        (∀ y, x.why = .replay y → ∃ s' u, exec (.clauseStart h) s = .next s' ∧ s'.teamNow w t = some u ∧ SameElse s s' w t ∧ u.st = .replay y ∧ u.fmask = x.mask ∧
          ∀ i, i < t.threads.length → hasBit x.mask i = true → (u.thread i).st = .fault ∧
            ∀ k, tabGet i t.commit.threads = some k → (t.thread i).st ≠ .exit → (u.thread i).pc = k.pc ∧ (u.thread i).a = k.a ∧ (u.thread i).p = k.p))) ∧
    (∀ (h : ClauseHeader) f, f < 12 → h.wait.getLsbD f = true → t.flagOf f ≠ 0 → ∃ s' u m, exec (.clauseStart h) s = .next s' ∧ s'.teamNow w t = some u ∧
      SameElse s s' w t ∧ u.st = .stall (.flags m) ∧ m.testBit f = true ∧ u.nat = t.nat ∧ u.threads = t.threads) ∧
    (∀ (h : ClauseHeader) (b : Bundle), s.headerAt w.ctx pc = some h → t.nat.started = true → t.nat.occ = 0 →
      t.nat.bundle < h.nb.toNat → h.uni.getLsbD t.nat.bundle = false → (∀ m ∈ movesOf 0 (bundleSlots b), plainMove m = true) →
      ∃ s' u, exec (.bundleIssue b) s = .next s' ∧ s'.teamNow w t = some u ∧ SameElse s s' w t ∧ u.st = .ready ∧ u.nat.bundle = t.nat.bundle + 1 ∧ u.nat.occ = 0 ∧
        u.nat.gf = t.nat.gf ∧ u.fstat = t.fstat ∧
        (∀ i, i < t.threads.length → (u.thread i).p = (t.thread i).p ∧ (u.thread i).pc = (t.thread i).pc ∧
          ∀ n, u.aGet i n = (match hasBit (t.nat.mask &&& t.top &&& t.runMask &&& ~~~t.nat.stuck) i && decide (n ≠ 0), lastMove t b i n with
            | true, some m => moveVal t b i m
            | _, _ => t.aGet i n)) ∧
        ∀ ag q, (s.bytesOf ag q).isSome = true → s'.readPlace ag q 1 = s.readPlace ag q 1) ∧
    (∀ (k : Nat) (x : LongLat), t.nat.outstanding[k]? = some x →
      (s.cc < x.due → exec (.longLatencyComplete w.uid t.tix k) s = .next s) ∧
      (x.due ≤ s.cc → (x.rel = none ∨ t.unacked = []) →
      ∃ s' u, exec (.longLatencyComplete w.uid t.tix k) s = .next s' ∧ s'.teamNow w t = some u ∧ SameElse s s' w t ∧ u.nat.outstanding = t.nat.outstanding.eraseIdx k ∧
        (∀ f, u.flagOf f = if x.flag = some f then t.flagOf f - 1 else t.flagOf f) ∧
        (∀ i n, i < t.threads.length → n ≠ 0 → u.aGet i n = if x.thread = some i ∧ x.wreg ≠ 0 ∧ n = x.wreg then x.val
          else if x.thread = some i ∧ x.wreg ≠ 0 ∧ x.wide = true ∧ n = x.wreg + 1 then x.hi else t.aGet i n) ∧
        (∀ n, n ≠ 0 → u.gGet n = if x.thread = none ∧ x.wreg ≠ 0 ∧ n = x.wreg then x.val
          else if x.thread = none ∧ x.wreg ≠ 0 ∧ x.wide = true ∧ n = x.wreg + 1 then x.hi else t.gGet n)))

/-- R275 to R278: `pdir.on` completes where the press is empty and no other team holds direct mode, `pdir.off` where no micro-tile that `pdir.mt` has
started is still to retire, and `pdir.mt` where the team holds direct mode and its format, its tile, its offsets and its place in time are good: the
micro-tile stands in order on the core, started 2 cc after the issue. Elsewhere they wait, or discard the context with ILLEGAL_FORMAT. -/
def Obligations.DirectMode : Prop :=
  ∀ (s : State) (w : Workgroup) (t : Team) (pc j : Nat) (rest : List Nat) (c : Core), Issuing s w t pc → Fresh t → s.getCore w.core = some c →
    let e : Enc := { ty := 0, var := 0, g := 15, gn := false, ext := false, d := .zero, a := .zero, b := .zero, c := .zero, selA := 0, selB := 0, selC := 0, selD := 0, hint := 0 }
    (starts s w t pc e).parts = j :: rest →
    let me := some (w.uid, t.tix)
    (c.direct = none → s.pressHeld w.core = [] →
      ∃ u, exec .pdirOn s = .next ((s.modCore w.core (fun k => { k with direct := me })).putWg (w.putTeam u)) ∧
        ({ t with nat := { t.nat with direct := false } } : Team).Still u ∧ t.Advanced u pc 8) ∧
    (c.direct = me → ∃ u, exec .pdirOn s = .next (s.putWg (w.putTeam u)) ∧ t.Still u ∧ t.Advanced u pc 8) ∧
    (c.direct = none → s.pressHeld w.core ≠ [] → WaitsAt .pdirOn s w t pc 8 (j :: rest) .direct) ∧
    (∀ d, c.direct = some d → d ≠ (w.uid, t.tix) → WaitsAt .pdirOn s w t pc 8 (j :: rest) .direct) ∧
    (c.direct = me → c.directStarted = [] →
      ∃ u, exec .pdirOff s = .next ((s.modCore w.core (fun k => { k with direct := none })).putWg (w.putTeam u)) ∧ t.Still u ∧ t.Advanced u pc 8) ∧
    (c.direct ≠ me → ∃ u, exec .pdirOff s = .next (s.putWg (w.putTeam u)) ∧ t.Still u ∧ t.Advanced u pc 8) ∧
    (c.direct = me → c.directStarted ≠ [] → WaitsAt .pdirOff s w t pc 8 (j :: rest) .directRetire) ∧
    (∀ (tile : BitVec 7) (a b : BitVec 12), freeToRelease s w t →
      let off : BitVec 12 → Int := fun x =>
        if x.toNat / 1024 = 2 then (BitVec.ofNat 10 x.toNat).toInt else if x.toNat / 1024 = 0 then ((t.gGet (x.toNat % 256)).toNat : Int) else 0
      let p := t.fmtSettled.pfmt
      let slot := fun (x : BitVec 12) (n : Nat) => 0 ≤ off x ∧ off x % 256 = 0 ∧ off x + n ≤ w.sw
      let fits := slot a (slotA p).slotBytes ∧ slot b (slotB p).slotBytes
      let tileOk := tilesOk w (pfCF p = 1) tile.toNat 1 = true
      let inTime := ({ s with cc := s.cc + 2 } : State).startPlace w.core
      let d : DirectStart := { wg := w.uid, tix := t.tix, tile := tile.toNat, offA := (off a).toNat, offB := (off b).toNat, pfmt := p,
                               nbv := s.nbvOn w.core w.ctx, at_ := s.cc + 2 }
      let s1 := s.modCore w.core (fun k => { k.startAt (s.cc + 2) with directStarted := k.directStarted ++ [d] })
      (c.direct = me → pfmtOk p = true → tileOk → fits → inTime = true →
        (∃ u, exec (.pdirMt tile a b) s = .next (s1.putWg (w.putTeam u)) ∧ t.Still u ∧ t.Advanced u pc 8) ∧
        ∃ c', s1.getCore w.core = some c' ∧ c'.lastStart = some (s.cc + 2) ∧ c'.direct = me ∧ c'.directStarted = c.directStarted ++ [d]) ∧
      (c.direct ≠ me → Discards (.pdirMt tile a b) s w t pc (j :: rest) clsFormat 5 0) ∧
      (c.direct = me → pfmtOk p = false → Discards (.pdirMt tile a b) s w t pc (j :: rest) clsFormat 0 0) ∧
      (c.direct = me → pfmtOk p = true → ¬ tileOk → Discards (.pdirMt tile a b) s w t pc (j :: rest) clsFormat 2 0) ∧
      (c.direct = me → pfmtOk p = true → tileOk → ¬ fits → Discards (.pdirMt tile a b) s w t pc (j :: rest) clsFormat 3 0) ∧
      (c.direct = me → pfmtOk p = true → tileOk → fits → inTime = false → Discards (.pdirMt tile a b) s w t pc (j :: rest) clsFormat 4 0))

/-! What happens to a team, a workgroup and an operation without an instruction. -/

/-- R155, R175, R181, R213 to R215, R241, R394: a team's watchdog forces a yield and then faults; its sleep ends in time; feed values and stream
elements arrive in order; a combining entry whose time has come drains as one WRITE; a workgroup that is over leaves its core, its scratchpad last of
its neighbourhood's. The model's choices here: log entries 8, 34 and 73. -/
def Obligations.TeamEvents : Prop :=
  ∀ (s : State) (w : Workgroup) (t : Team), s.teamOf w.uid t.tix = some (w, t) →
    let now := fun (i : Instr) (u : Team) => ∃ s' : State, exec i s = .next s' ∧ s'.teamNow w t = some u ∧ SameElse s s' w t
    (t.wdog.toNat < 65536 → exec (.teamWatchdogExpiry w.uid t.tix) s = .next s) ∧
    (65536 ≤ t.wdog.toNat → t.wdogExp = false → now (.teamWatchdogExpiry w.uid t.tix) { t with wdog := 0, wdogExp := true, yieldAt := t.leadPc }) ∧
    (65536 ≤ t.wdog.toNat → t.wdogExp = true → exec (.teamWatchdogExpiry w.uid t.tix) s = .next (s.teamFatal w t t.runMask { mkFault 8 0 0 with ppc := (t.leadPc).getD 0 })) ∧
    (∀ n, t.st = .stall (.sleepCc n) → n ≤ s.cc → now (.sleepExpiry w.uid t.tix) { t with wdog := 0, wdogExp := false, st := .ready }) ∧
    (∀ n, t.st = .stall (.sleepCc n) → s.cc < n → exec (.sleepExpiry w.uid t.tix) s = .next s) ∧
    (∀ n, t.st = .stall (.sleepTai n) → n ≤ s.tai → now (.sleepExpiry w.uid t.tix) { t with wdog := 0, wdogExp := false, st := .ready }) ∧
    (∀ n, t.st = .stall (.sleepTai n) → s.tai < n → exec (.sleepExpiry w.uid t.tix) s = .next s) ∧
    (∀ (n : Node) (bs : List Byte), s.getNode w.node = some n → t.st ≠ .done → s.ctxRuns w.ctx = true → t.feedPos + t.feedBuf.length < fieldAt n.packet 64 4 →
      t.feedBuf.length < 64 →
      s.memGet w.ctx (fieldAt n.packet 56 8 + 4 * (fieldAt n.packet 64 4 * (if fieldAt n.packet 68 1 = 1 then w.wgx * w.teams.length + t.tix else 0) +
        (t.feedPos + t.feedBuf.length))) 4 = some bs →
      now (.feedValueArrival w.uid t.tix) { t with feedBuf := t.feedBuf ++ [BitVec.ofNat 32 (bytesNat bs)] }) ∧
    (∀ (q : Nat) (rec : List Byte) (p : Place) (m : SparseB),
      let st := t.stream q
      let n := 2 ^ st.esz
      let sp := fieldAt rec 4 1
      let a := elemAddr rec st.base (st.pos + st.buf.length)
      s.streamRecord w q = some rec → t.st ≠ .done → s.ctxRuns w.ctx = true → st.bound = true → st.write = false → st.copy = none → st.pos + st.buf.length < st.total →
      (st.buf.length + 1) * n ≤ 128 → (∀ el ∈ st.buf, el.fault = none) → s.locate (agentOf w t 0) sp a n n .load = .at_ p →
      s.bytesOf (agentOf w t 0) p = some m → Memory.wf m = true → (∀ u ∈ unitsOf (agentOf w t 0) p n, s.bad.contains u = false) →
      now (.streamElementArrival w.uid t.tix q)
        (t.setStream q { st with buf := st.buf ++ [{ val := bytesNat (s.readPlace (agentOf w t 0) p n), fault := none }] })) ∧
    (∀ (c : CombEntry), t.comb = [c] → t.st ≠ .done → t.clock < c.opened + 1024 → ((s.getCtx w.ctx).map Context.st) ≠ some .cutting →
      exec (.combiningDrainTimeout w.uid t.tix c.block) s = .next s) ∧
    (∀ (c : CombEntry) (l : Leaf) (d : Nat), t.comb = [c] → c.opened + 1024 ≤ t.clock → t.st ≠ .done → (s.getCtx w.ctx).bind (fun x => x.walk c.block) = some l →
      l.res = true → l.mig = false → l.home ≠ 255 → l.home ≠ s.pkg → l.dests s.pkg = [d] →
      l.conf = false → ((s.getCtx w.ctx).map Context.gangQuiet).getD false = false → s.sendBar d false c.payload.length = .open_ →
      ∃ (s' : State) (x : OutPkt), exec (.combiningDrainTimeout w.uid t.tix c.block) s = .next s' ∧
        s'.teamNow w t = some { t with comb := [], unacked := t.unacked ++ [{ req := s.nextId, peer := d, mir := l.mir, ppc := c.ppc, va := c.block }] } ∧
        s'.sendStore = s.sendStore ++ [x] ∧ x.type = .write ∧ x.p.dst = d ∧ x.p.src = s.pkg ∧ x.p.seq = (s.peer d).txSeq.toNat ∧ x.p.ctx = w.ctx ∧ x.p.addr = c.block ∧
        x.p.mask = c.mask ∧ x.p.payload = c.payload ∧ x.sentAt = none) ∧
    (s.wgOver w = false → exec (.workgroupDone w.uid) s = .next s) ∧
    (s.wgOver w = true → (∀ y ∈ s.wgs, y.nbId = w.nbId → y.ctx = w.ctx → y.uid = w.uid) →
      ∃ s' : State, exec (.workgroupDone w.uid) s = .next s' ∧ s'.getWg w.uid = none ∧ (∀ v, v ≠ w.uid → s'.getWg v = s.getWg v) ∧
        s'.ops = s.ops.filter (fun (o : Op) => o.wg ≠ w.uid) ∧ s'.passDue = true ∧
        (∀ n, s.getNode w.node = some n → s'.getNode w.node = some { n with running := n.running - 1 }) ∧
        (∀ k, s'.getCore w.core = some k → (∀ y ∈ s.wgs, y.core = w.core → y.uid = w.uid) → k.triple = none)) ∧
    (s.wgOver w = true → (∃ y ∈ s.wgs, y.nbId = w.nbId ∧ y.ctx = w.ctx ∧ y.uid ≠ w.uid ∧ y.st ≠ .done) →
      ∃ s' : State, exec (.workgroupDone w.uid) s = .next s' ∧ s'.getWg w.uid = some { w with st := .done, teams := [], bars := [], chans := [], vt := 0, vat := [] } ∧
        (∀ v, v ≠ w.uid → s'.getWg v = s.getWg v))

/-- R244 to R248, R257 to R260, R279, R290, R295, R434, R437: the steps of the engines. A queued operation becomes ACTIVE in its turn, unless a cut has
stopped the press; the micro-tile that starts next is the lowest ready step of the operation that follows the last one in rotation; it starts no sooner
than 64 cc after the last, and adds its products to its tile when it retires; a push fills a slot and advances
TAIL; a copy performs an element, and ends after the last with its locks gone; an `rpart` of one member announces its round, compares, and ends once
nothing is outstanding. The model's choices here: log entries 37, 105 and 110. -/
def Obligations.EngineEvents : Prop :=
  ∀ (s : State) (o : Op), s.getOp o.id = some o →
    let became := fun (i : Instr) (o' : Op) => ∃ s' : State, exec i s = .next s' ∧ s'.getOp o.id = some o' ∧ ∀ k, k ≠ o.id → s'.getOp k = s.getOp k
    (∀ b, o.body = .press b → o.st = .queued → o.link.wait = none → s.pressStopped o.wg = false → (s.pressActive o.core).length < 4 → (∀ x ∈ s.pressHeld o.core, x.st = .queued → o.id ≤ x.id) →
      became (.pressActivate o.id) { o with st := .active, body := .press { b with next := max b.next (min b.total (b.wbase + 64)) } }) ∧
    (∀ b, o.body = .press b → o.link.wait = none → 4 ≤ (s.pressActive o.core).length → exec (.pressActivate o.id) s = .next s) ∧
    (∀ b, o.body = .press b → o.link.wait = none → s.pressStopped o.wg = true → exec (.pressActivate o.id) s = .next s) ∧
    (∀ (k : Core) (i st : Nat), s.nextStart k = some (i, st) →
      (∃ x b, x ∈ s.ops ∧ x.id = i ∧ x.core = k.id ∧ x.st = .active ∧ x.body = .press b ∧ s.pressStopped x.wg = false ∧ st < b.next ∧ s.stepReady x b st = true ∧
        ∀ n, b.wbase ≤ n → n < st → s.stepReady x b n = false) ∧
      ∀ y ∈ s.pressActive k.id, (s.firstStep y).isSome = true → (k.lastOp < i → y.id ≤ k.lastOp ∨ i ≤ y.id) ∧ (i ≤ k.lastOp → i ≤ y.id ∧ y.id ≤ k.lastOp)) ∧
    (∀ b st, o.body = .press b → s.startPlace o.core = true → (s.getCore o.core).bind s.nextStart = some (o.id, st) →
      became (.microtileStart o.id st) { o with body := .press { b with started := b.started ++ [{ step := st, nbv := s.nbvOn o.core o.ctx, at_ := s.cc }] } } ∧
      ∃ (s' : State) (k : Core), exec (.microtileStart o.id st) s = .next s' ∧ s'.getCore o.core = some k ∧ k.lastStart = some s.cc ∧ k.lastOp = o.id) ∧
    (∀ k t st, s.getCore o.core = some k → k.lastStart = some t → s.cc < t + 64 → exec (.microtileStart o.id st) s = .next s) ∧
    (∀ b w x st, o.body = .press b → o.id ≠ 0 → s.getWg o.wg = some w → o.link.arr = none → s.bad = [] → spWf 0 w.vat = true → findBy (fun (y : Started) => y.step = st) b.started = some x →
      x.at_ + 80 ≤ s.cc → b.wbase ≤ st → st < b.wbase + 64 →
      let na := (slotA b.pfmt).slotBytes
      let nb := (slotB b.pfmt).slotBytes
      let bytesA := ringBytes w (w.ring b.ringA) (b.headA + (b.offA st).toNat * na) na
      let bytesB := ringBytes w (w.ring b.ringB) (b.headB + (b.offB st).toNat * nb) nb
      let wide : Bool := decide (pfCF b.pfmt = 1)
      ∃ (s' : State) (w' : Workgroup), exec (.microtileRetire o.id st) s = .next s' ∧ s'.getWg o.wg = some w' ∧
        (∀ m n, m < 64 → n < 64 → w'.vatGet wide (b.tile st) m n =
          (macElem b.pfmt x.nbv bytesA bytesB m n (w.vatGet wide (b.tile st) m n)).1 % 2 ^ (if wide then 64 else 32)) ∧
        (∀ i, i < b.tile st * 4096 ∨ (b.tile st + tileWidth b.pfmt) * 4096 ≤ i → spGet 0 w'.vat i = spGet 0 w.vat i)) ∧
    (∀ c w g s1 bs, o.body = .copy c → o.st = .busy → c.kind = 3 → c.idx < c.total → s.getWg o.wg = some w → s.pushTurn o (fieldAt c.block 9 1) = true →
      fieldAt c.block 9 1 < w.rings.length → w.ring (fieldAt c.block 9 1) = g → 0 < g.size → fieldAt c.block 24 4 ≤ g.size → Memory.wf w.scratch = true →
      s.engineRead o (fieldAt c.block 8 1) (fieldAt c.block 16 8 + c.idx * signedAt c.block 32 8) (fieldAt c.block 24 4) = .ok s1 bs →
      ∃ (s' : State) (w' : Workgroup), exec (.ringTailAdvance o.id) s = .next s' ∧ s'.getWg o.wg = some w' ∧
        w'.ring (fieldAt c.block 9 1) = { g with tail := (g.tail + fieldAt c.block 24 4) % (2 * g.size) } ∧
        (∀ i, i < fieldAt c.block 24 4 → spGet 0 w'.scratch (g.base + (g.tail + i) % g.size) = bs.getD i 0) ∧
        s'.getOp o.id = some { o with got := [], body := .copy { c with idx := c.idx + 1, bytes := c.bytes + fieldAt c.block 24 4 } }) ∧
    (∀ c s1 s2 bs, o.body = .copy c → o.st = .busy → c.kind = 0 → c.idx < c.total → s.engineRead o 4 ((c.src + c.idx : Nat) : Int) 1 = .ok s1 bs →
      s1.engineWrite o 4 ((c.dst + c.idx : Nat) : Int) bs = .ok s2 () → s2.getOp o.id = some o →
      ∃ s' : State, exec (.copyComplete o.id 0) s = .next s' ∧ s'.dram = s2.dram ∧ s'.hostMem = s2.hostMem ∧ s'.cores = s2.cores ∧ s'.wgs = s2.wgs ∧
        s'.getOp o.id = some { o with got := [], body := .copy { c with idx := c.idx + 1, bytes := c.bytes + elemBytes c } }) ∧
    (∀ c n, o.body = .copy c → o.st = .busy → c.total ≤ c.idx → o.unacked = [] → o.link.arr = none →
      became (.copyComplete o.id n) { o with st := .done } ∧
      ∃ s' : State, exec (.copyComplete o.id n) s = .next s' ∧ ∀ k ∈ s'.cores, ∀ l ∈ k.locks, l.op ≠ o.id) ∧
    (∀ c n, o.body = .copy c → o.st = .busy → c.total ≤ c.idx → o.unacked ≠ [] → exec (.copyComplete o.id n) s = .next s) ∧
    (∀ b x, o.body = .rpart b → o.st = .busy → rpMode b.block ≠ 1 → s.getCtx o.ctx = some x → x.gang = false →
      let mine := (s.pkg, rpRound b.block, rpFields b.block [])
      (b.stage = 0 → ∃ (s' : State) (x' : Context), exec (.rpartJoin o.id) s = .next s' ∧ s'.getOp o.id = some { o with body := .rpart { b with stage := 1, bounds := [] } } ∧
        s'.getCtx o.ctx = some x' ∧ x'.rpartJoins = x.rpartJoins ++ [mine]) ∧
      (b.stage = 1 → b.bounds = [] → x.rpartJoins.filter (fun j => j.2.1 = rpRound b.block) = [mine] → became (.rpartJoin o.id) { o with body := .rpart { b with stage := 2 } }) ∧
      (b.stage = 6 → (x.rpartJoins.filter (fun j => j.2.1 = rpRound b.block)).length ≤ 1 → o.unacked = [] → o.link.arr = none → became (.rpartComplete o.id) { o with st := if b.kept then .overflow else .done }) ∧
      (b.stage = 6 → (x.rpartJoins.filter (fun j => j.2.1 = rpRound b.block)).length ≤ 1 → o.unacked ≠ [] → exec (.rpartComplete o.id) s = .next s))

/-! The queue processor, the distributor and the translator. -/

/-- R333 to R346, R357: a kick raises WIDX, is ignored, or moves the queue to ERROR; a PAD is skipped; a packet without references enters the pool as
a node that is ready, or completes REFUSED; a faulty header moves the queue to ERROR; a withdrawal takes the nodes of its tag that have not been
placed. The model's choices here: log entries 3, 71 and 77. -/
def Obligations.QueueEvents : Prop :=
  ∀ (s : State) (q : Queue), s.getQueue q.id = some q →
    (∀ W : BitVec 64, s.serves → q.st ≠ .free → ((s.getCtx q.ctx).map Context.st) ≠ some .faulted →
      let w := W.toNat
      let becomes := fun (q' : Queue) => ∃ s' : State, exec (.queKick q.id W) s = .next s' ∧ s.onlyQueue s' q.id q' ∧ s'.passDue = true
      (w % 64 = 0 → w ≤ q.widx → becomes q) ∧
      (w % 64 = 0 → q.widx < w → w - q.ridx ≤ 2 ^ q.log2sz → becomes { q with widx := w, seq := q.seq + 2 }) ∧
      (w % 64 ≠ 0 ∨ (q.widx < w ∧ 2 ^ q.log2sz < w - q.ridx) → (q.st = .active ∨ q.st = .suspended) →
        becomes { q with st := .error, err := 4, eoff := q.ridx % 2 ^ q.log2sz / 64, seq := q.seq + 2 }) ∧
      (w % 64 ≠ 0 ∨ (q.widx < w ∧ 2 ^ q.log2sz < w - q.ridx) → q.st = .error → becomes q)) ∧
    (∀ W : BitVec 64, q.st = .free → s.serves → ∃ s' : State, exec (.queKick q.id W) s = .next s' ∧ s'.queues = s.queues) ∧
    (∀ W : BitVec 64, s.bootStage = 4 → s.power = .d0 → s.recovering ≠ [] →
      exec (.queKick q.id W) s = .next { s with held := s.held ++ [.queKick q.id W] }) ∧
    (∀ ty, q.st ≠ .active → exec (parserOf ty q.id) s = .next s) ∧
    (∀ (h : List Byte) ty why, q.st = .active → s.bootStage = 4 → s.parseTurn q = true → q.ridx + 64 ≤ q.widx → q.withdrawn.any (fun y => y.1 = q.ridx) = false →
      (∃ x, s.getCtx q.ctx = some x ∧ x.st = .running ∧ s.poolUsed q.ctx < x.quota ∧ s.poolNodes < 16384) →
      s.memGet q.ctx (q.base + q.ridx % 2 ^ q.log2sz) 64 = some h →
      (why = 1 ∧ (fieldAt h 1 1 = 0 ∨ 16 < fieldAt h 1 1) ∨
        why = 2 ∧ 1 ≤ fieldAt h 1 1 ∧ fieldAt h 1 1 ≤ 16 ∧ 2 ^ q.log2sz < q.ridx % 2 ^ q.log2sz + 64 * fieldAt h 1 1 ∨
        why = 3 ∧ 1 ≤ fieldAt h 1 1 ∧ fieldAt h 1 1 ≤ 16 ∧ q.ridx % 2 ^ q.log2sz + 64 * fieldAt h 1 1 ≤ 2 ^ q.log2sz ∧ 4 < fieldAt h 0 1) →
      ∃ s' : State, exec (parserOf ty q.id) s = .next s' ∧
        s.onlyQueue s' q.id { q with st := .error, err := why, eoff := q.ridx % 2 ^ q.log2sz / 64, seq := q.seq + 2 } ∧ s'.nodes = s.nodes) ∧
    (∀ pk, Parses s q pk → fieldAt pk 0 1 = 0 → ∃ (s' : State) (q' : Queue), exec (.parsePad q.id) s = .next s' ∧ s.onlyQueue s' q.id q' ∧
      q'.ridx = q.ridx + 64 * fieldAt pk 1 1 ∧ q'.ticket = q.ticket ∧ q'.st = .active ∧ q'.widx = q.widx ∧ s'.nodes = s.nodes) ∧
    (∀ (pk : List Byte) ty, Parses s q pk → fieldAt pk 0 1 = ty → 1 ≤ ty → ty ≤ 4 → packetRefs pk q.id q.ticket = [] → s.refusal q.ctx pk [] = none →
      s.getNode s.nextId = none →
      let enters := fun (ready : State → Node → Prop) => ∃ (s' : State) (q' : Queue) (n : Node), exec (parserOf ty q.id) s = .next s' ∧ s.onlyQueue s' q.id q' ∧
        q'.ridx = q.ridx + 64 * fieldAt pk 1 1 ∧ q'.ticket = q.ticket + 1 ∧ q'.st = .active ∧ s'.getNode s.nextId = some n ∧ s'.nodes.length = s.nodes.length + 1 ∧
        n.queue = q.id ∧ n.ticket = q.ticket ∧ n.ctx = q.ctx ∧ n.kind = kindOf ty ∧ n.packet = pk ∧ n.tag = fieldAt pk 4 4 ∧ n.compl = fieldAt pk 8 8 ∧ n.pred = 0 ∧
        n.succs = [] ∧ n.stamp = s.nextStamp ∧ n.prio = q.prio ∧ s'.passDue = true ∧ s'.nextStamp = s.nextStamp + 1 ∧ ready s' n
      (ty ≠ 1 → enters (fun s' n => n.stage = 4 ∧ s'.dir = s.dir)) ∧
      (ty = 1 → ∀ o, s.getObj (fieldAt pk 24 8) = some o → o.ctx = q.ctx → o.st = .loaded →
        (s.dirFind o.identity (fieldAt (o.desc (fieldAt pk 32 2)) 12 4) = none → (∀ d ∈ s.dir, d.id ≠ s.nextId + 1) →
          enters (fun s' n => n.stage = 4 ∧ ∃ d : DirEntry, s'.dir = s.dir ++ [d] ∧ n.dir = some d.id ∧ d.st = .translating ∧ d.identity = o.identity ∧
            d.off = fieldAt (o.desc (fieldAt pk 32 2)) 12 4 ∧ d.version = s.version ∧ d.kernel = true)) ∧
        (∀ d : DirEntry, s.dirFind o.identity (fieldAt (o.desc (fieldAt pk 32 2)) 12 4) = some d → d.st ≠ .translating → d.st ≠ .failed →
          enters (fun s' n => n.stage = 5 ∧ n.dir = some d.id ∧ s'.dir = s.dir)))) ∧
    (∀ (pk : List Byte) ty why, Parses s q pk → fieldAt pk 0 1 = ty → 1 ≤ ty → ty ≤ 4 → packetRefs pk q.id q.ticket = [] → s.refusal q.ctx pk [] = some why →
      s.launchesQuarantined q.ctx pk = false → fieldAt pk 8 8 = 0 → (∀ n ∈ s.nodes, n.id ≠ s.nextId) →
      ∃ (s' : State) (q' : Queue), exec (parserOf ty q.id) s = .next s' ∧ s.onlyQueue s' q.id q' ∧ q'.ridx = q.ridx + 64 * fieldAt pk 1 1 ∧
        q'.ticket = q.ticket + 1 ∧ q'.st = .active ∧ s'.nodes = s.nodes) ∧
    (∀ (pk : List Byte) ty, Parses s q pk → fieldAt pk 0 1 = ty → 1 ≤ ty → ty ≤ 4 → (∃ r ∈ packetRefs pk q.id q.ticket, r.1 = q.id ∧ q.ticket ≤ r.2) →
      ∃ s' : State, exec (parserOf ty q.id) s = .next s' ∧
        s.onlyQueue s' q.id { q with st := .error, err := 5, eoff := q.ridx % 2 ^ q.log2sz / 64, seq := q.seq + 2 } ∧ s'.nodes = s.nodes) ∧
    (∀ (c tag : BitVec 32) (x : Context), s.serves → c.toNat < 256 → s.getCtx c.toNat = some x →
      (tag = 0 → x.st ≠ .saved → x.st ≠ .faulted → x.heldWithdrawals = [] → exec (.queWdraw (c ++ tag)) s = .next s) ∧
      (x.st = .faulted → exec (.queWdraw (c ++ tag)) s = .next s) ∧
      (x.st = .saved → ∃ (s' : State) (x' : Context), exec (.queWdraw (c ++ tag)) s = .next s' ∧ s'.getCtx c.toNat = some x' ∧ x'.heldWithdrawals = x.heldWithdrawals ++ [tag.toNat] ∧
        s'.nodes = s.nodes) ∧
      (∀ n, tag ≠ 0 → x.st ≠ .saved → x.st ≠ .faulted → x.heldWithdrawals = [] → (∀ y ∈ s.queues, y.ctx = c.toNat → y.widx ≤ y.ridx) → n.succs = [] → n.compl = 0 → s.getNode n.id = some n →
        s.nodes.filter (fun (y : Node) => y.ctx = c.toNat && y.tag = tag.toNat && 3 ≤ y.stage && y.stage ≤ 5) = [n] →
        ∃ s' : State, exec (.queWdraw (c ++ tag)) s = .next s' ∧ s'.nodes = s.nodes.filter (fun (y : Node) => y.id ≠ n.id) ∧ s'.passDue = true))

/-- R14, R17, R24, R315, R316, R324, R331, R341, R342, R349 to R353: a stoker lost, a core retired; a function translated, failed or re-optimised; an
object unloaded; a node completed with its record, its interrupt and its ticket; and a workgroup placed by the distributor. The model's choices here:
log entries 64, 65, 66, 68 and 74. -/
def Obligations.KernelEvents : Prop :=
  ∀ (s : State) (id : Nat),
    exec (.stokerFailure id) s = .next { s with stokers := s.stokers.filter (fun (y : Nat) => y ≠ id) } ∧
    (s.getCore id = none → exec (.coreRetirement id) s = .next s) ∧
    (∀ k, s.getCore id = some k → s.retiring = [] → (∀ w ∈ s.wgs, w.core ≠ id) →
      ∃ s' : State, exec (.coreRetirement id) s = .next s' ∧ s'.featGen = (if s.featGen = 0xFFFFFFFF then 1 else s.featGen + 1) ∧ s'.retiring = [] ∧
        s'.contexts = s.contexts ∧ s'.wgs = s.wgs ∧
        ((∀ p ∈ s.spares, p.1 ≠ dieOf id) → s'.getCore id = none ∧ (id < 1024 → s'.absent.getLsbD id = true) ∧ s'.spares = s.spares) ∧
        (∀ p, s.spares.filter (fun y => y.1 = dieOf id) = [p] → s'.getCore id = some (newCore id p.2) ∧ s'.absent = s.absent ∧
          s'.spares = s.spares.filter (fun y => y ≠ p))) ∧
    (∀ k w x, s.getCore id = some k → s.retiring = [] → w ∈ s.wgs → w.core = id → s.getCtx w.ctx = some x → x.st = .running →
      ∃ s' : State, exec (.coreRetirement id) s = .next s' ∧ s'.retiring = [id] ∧ s'.getCore id = some k ∧ s'.featGen = s.featGen ∧
        s'.getCtx w.ctx = some { x with st := .polite, politeAt := s.tai + 1000 * x.politeWindow, firmwarePreempt := true }) ∧
    (∀ d : DirEntry, s.getDir id = some d →
      (d.st ≠ .hot ∨ s.stokers = [] → exec (.reoptimisationComplete id) s = .next s) ∧
      (d.st = .hot → s.stokers ≠ [] → ∃ (s' : State) (sp : Nat), exec (.reoptimisationComplete id) s = .next s' ∧
        s'.getDir id = some { d with st := .reoptimised, gen := min 8 (d.gen + 1), spill := sp } ∧ ∀ j, j ≠ id → s'.getDir j = s.getDir j) ∧
      (d.st ≠ .translating → exec (.translationComplete id) s = .next s) ∧
      (d.asked ≠ [] → exec (.translationComplete id) s = .next s) ∧
      (d.st = .translating → d.asked = [] → s.stokers = [] → ∃ s' : State, exec (.translationComplete id) s = .next s' ∧ s'.getDir id = some { d with st := .failed }) ∧
      (d.st = .translating → d.asked = [] → s.stokers ≠ [] → s.bad = [] → ∀ o, s.loadOf d.identity = some o →
        (∀ k ∈ o.needs d.off, ∃ p bs, s.codePage o.identity k = some p ∧ p.bytes = some bs) →
        ∃ (s' : State) (sp : Nat), exec (.translationComplete id) s = .next s' ∧ s'.getDir id = some { d with st := .translated, spill := sp } ∧ s'.passDue = true ∧
          ∀ k (n : Node), s.getNode k = some n → s'.getNode k = some (if n.dir = some d.id ∧ n.stage = 4 then { n with stage := 5 } else n))) ∧
    (∀ o k n, s.getObj id = some o → o.st = .unloading → ((s.getCtx o.ctx).map Context.st) = some .running → (∀ y ∈ s.nodes, y.uses o = false) →
      o.unloadNode = some k → s.getNode k = some n → n.compl = 0 → n.succs = [] → (∀ y ∈ s.linksInto o, s.putBar o.ctx y.2.addr ≠ .wait) →
      ∃ s' : State, exec (.unloadComplete id) s = .next s' ∧ s'.getObj id = none ∧ s'.getNode k = none ∧
        ∀ x, s'.getCtx o.ctx = some x → ∀ l ∈ x.pages, ∀ r ∈ o.ranges, ¬ (r.1 ≤ l.va ∧ l.va < r.1 + r.2)) ∧
    (∀ o, s.getObj id = some o → (∃ y ∈ s.nodes, y.uses o = true) → exec (.unloadComplete id) s = .next s) ∧
    (∀ o, s.getObj id = some o → (∃ y ∈ s.linksInto o, s.putBar o.ctx y.2.addr = .wait) → ∃ m, exec (.unloadComplete id) s = .next { s with misses := m }) ∧
    (∀ n q, s.getNode id = some n → s.getQueue n.queue = some q → n.succs = [] →
      (n.kind = .join ∧ n.stage = 4 ∧ s.dispatches n.ctx = true ∨ n.kind = .launch ∧ s.launchOver n = true) →
      let ends := fun (post : State → Prop) => ∃ s' : State, exec (.nodeComplete id) s = .next s' ∧ s'.getNode id = none ∧ s'.getQueue n.queue = some (q.ticketDone n.ticket) ∧
        s'.passDue = true ∧ s'.out = s.out ++ (if n.irq then [.msix q.msix] else []) ∧ post s'
      (n.compl = 0 → ends (fun s' => s'.dram = s.dram ∧ s'.hostMem = s.hostMem)) ∧
      (∀ l, n.compl ≠ 0 → n.compl % 16 = 0 → s.putBar n.ctx n.compl = .open_ l → l.home = 255 → Memory.wf s.hostMem = true →
        ends (fun s' => spTake 0 s'.hostMem (l.frame + (n.compl - l.va)) 16 =
          natBytes 2 1 ++ natBytes 2 0 ++ natBytes 4 n.tag ++ natBytes 8 (n.ticket % 2 ^ 52 + n.queue * 2 ^ 52)))) ∧
    (∀ n, s.getNode id = some n → n.kind = .launch → 6 ≤ n.stage → n.stage ≤ 7 → 0 < n.running → exec (.nodeComplete id) s = .next s) ∧
    ((∀ n ∈ s.nodes, s.dispatchable n = false) → (∀ x ∈ s.contexts, x.st ≠ .resuming) → exec .distributorPass s = .next { s with passDue := false }) ∧
    (∀ n o x t core lanes bs, s.getNode id = some n → (∀ y ∈ s.contexts, y.st ≠ .resuming) → s.nodes.filter (fun (y : Node) => s.dispatchable y) = [n] →
      n.stage = 5 → n.nextWgx = 0 → fieldAt n.packet 44 4 = 1 → n.dir = none → s.getObj n.obj = some o → o.st = .loaded → s.getCtx n.ctx = some x →
      let d := o.desc n.kernel
      tripleOf d (fieldAt n.packet 40 2) 0 = some t → s.lateRefusal x n d (some t) = none → s.propose n d t = some (1, 1, [(core, lanes)]) → s.gate n [core] 1 = true →
      s.memGet n.ctx (fieldAt n.packet 48 8) (4 * fieldAt d 37 1) = some bs →
      ∃ (s' : State) (w : Workgroup), exec .distributorPass s = .next s' ∧ s'.wgs = s.wgs ++ [w] ∧ w.ctx = n.ctx ∧ w.node = n.id ∧ w.core = core ∧ w.wgx = 0 ∧ w.triple = t ∧
        w.st = .alloc ∧ w.sw = fieldAt d 20 4 ∧ w.teams.map Team.lane = lanes ∧
        (∀ j u, w.getTeam j = some u → u.st = .zero ∧ u.threads = List.replicate (fieldAt d 18 1) (Thread.start (o.text + fieldAt d 12 4)) ∧
          (o.native = false → ∀ i, i < fieldAt d 37 1 → u.sGet i = BitVec.ofNat 32 (fieldAt bs (4 * i) 4))) ∧
        ∃ m, s'.getNode id = some m ∧ m.stage = 7 ∧ m.nextWgx = 1 ∧ m.running = n.running + 1 ∧ m.startDie = some (dieOf core) ∧ m.feat = s.featGen.toNat)

/-! Contexts. -/

/-- R333, R363, R364, R370, R373, R376, R379, R381, R459: a request that breaks a limit completes with STATUS 3 and reason 2, one that the context's
state does not allow with reason 1, one that meets a pre-emption waits, and a DESTROY waits for the copies that are under way (R281); each that is accepted has its effect and, where the effect is done at once,
its record. The model's choices here: log entries 50, 51, 52, 53 and 54. -/
def Obligations.ContextRequests : Prop :=
  ∀ (s : State) (c : Nat) (r : Request), s.serves → c < 256 →
    let record := fun (s' : State) (status reason v : Nat) => s'.hostMem = (s.hostComplete r.compl.toNat status reason v).hostMem
    let rec' := s.hostTake r.arg0.toNat 256
    let f := fun (o n : Nat) => fieldAt rec' o n
    (∀ code, 1 ≤ code → code ≤ 11 → (∀ x, s.getCtx c = some x → x.waiting = [] ∧ x.destroying = none) →
      (s.argsBad c code r = true → exec (requestOf code c r) s = .next (s.hostComplete r.compl.toNat 3 2 0)) ∧
      (s.argsBad c code r = false → s.getCtx c = none → code ≠ 1 → exec (requestOf code c r) s = .next (s.hostComplete r.compl.toNat 3 1 0)) ∧
      (∀ x, s.argsBad c code r = false → s.getCtx c = some x → ¬ requestAllowed code x.st → ¬ (code = 4 ∧ (x.st = .polite ∨ x.st = .cutting)) →
        exec (requestOf code c r) s = .next (s.hostComplete r.compl.toNat 3 1 0)) ∧
      (∀ x, s.argsBad c code r = false → s.getCtx c = some x → code = 4 → (x.st = .polite ∨ x.st = .cutting) →
        ∃ s' : State, exec (requestOf code c r) s = .next s' ∧ s'.getCtx c = some { x with waiting := [(4, r)] } ∧ s'.hostMem = s.hostMem)) ∧
    (s.getCtx c = none → s.argsBad c 1 r = false → ∃ (s' : State) (x : Context), exec (.ctxCreate c r) s = .next s' ∧ s'.contexts = s.contexts ++ [x] ∧ record s' 1 0 x.doorbell ∧
      x.id = c ∧ x.st = .running ∧ x.nbv = (if f 4 1 = 0 then 2 else f 4 1) ∧ x.brk = decide (f 5 1 % 2 = 1) ∧ x.lrh = decide (f 5 1 / 2 % 2 = 1) ∧
      x.gang = decide (f 5 1 / 4 = 1) ∧ x.dq = f 8 8 ∧ x.politeWindow = f 16 4 ∧ x.quota = f 20 4 ∧ x.gangId = f 32 4 ∧ x.fqvec = f 36 2 ∧
      x.coreset = BitVec.ofNat 1024 (f 40 128) ∧ x.fpBase = f 192 8 ∧ x.fpSize = f 200 8 ∧ x.bkBase = f 208 8 ∧ x.bkSize = f 216 8 ∧ x.doorbell % 2 ^ 18 = 0 ∧
      x.doorbell + 2 ^ 18 ≤ 2 ^ 57 ∧ x.pages = [] ∧ x.dieq = [] ∧ x.fqHead = 0 ∧ x.fqTail = 0) ∧
    (∀ x, s.getCtx c = some x → x.waiting = [] → x.destroying = none →
      (s.argsBad c 2 r = false → (∃ o ∈ s.ops, o.ctx = c ∧ o.st.isBusy = true ∧ (o.waits ≠ [] ∨ o.unacked ≠ []) ∧ ∃ b, o.body = .copy b) →
        ∃ (s' : State) (x' : Context), exec (.ctxDestroy c r) s = .next s' ∧ s'.getCtx c = some x' ∧ x'.destroying = some r.compl.toNat ∧
          (∀ o ∈ s'.ops, o.ctx = c → o.st = .killed) ∧ (∀ n ∈ s'.nodes, n.ctx ≠ c) ∧ (x.openReqs = [] → s'.hostMem = s.hostMem)) ∧
      (s.argsBad c 2 r = false → (∀ o ∈ s.ops, o.ctx = c → o.st.isBusy = false ∨ (o.waits = [] ∧ o.unacked = []) ∨ ∀ b, o.body ≠ .copy b) → ∃ s' : State, exec (.ctxDestroy c r) s = .next s' ∧ s'.getCtx c = none ∧ (∀ w ∈ s'.wgs, w.ctx ≠ c) ∧ (∀ o ∈ s'.ops, o.ctx ≠ c) ∧
        (∀ n ∈ s'.nodes, n.ctx ≠ c) ∧ (∀ q ∈ s'.queues, q.ctx ≠ c) ∧ (∀ o ∈ s'.objects, o.ctx ≠ c) ∧ (∀ d, d ≠ c → s'.getCtx d = s.getCtx d) ∧
        (x.openReqs = [] → record s' 1 0 0)) ∧
      (s.argsBad c 3 r = false → x.st = .running → x.gang = true → 1 < x.gangMembers.length → exec (.ctxPreempt c r) s = .next (s.hostComplete r.compl.toNat 3 9 0)) ∧
      (s.argsBad c 3 r = false → x.st = .running → (x.gang = false ∨ x.gangMembers.length ≤ 1) → ∃ s' : State, exec (.ctxPreempt c r) s = .next s' ∧ s'.hostMem = s.hostMem ∧
        s'.getCtx c = some { x with openReqs := x.openReqs ++ [(3, r.compl.toNat)], st := .polite, politeAt := s.tai + 1000 * x.politeWindow, firmwarePreempt := false }) ∧
      (s.argsBad c 4 r = false → x.st = .saved → x.heldWithdrawals = [] → ∃ s' : State, exec (.ctxResume c r) s = .next s' ∧ s'.hostMem = s.hostMem ∧ s'.passDue = true ∧
        s'.getCtx c = some { x with openReqs := x.openReqs ++ [(4, r.compl.toNat)], st := .resuming, resumeOrder := s.nextStamp }) ∧
      (s.argsBad c 5 r = false → s.getQueue (r.arg0.toNat % 4096) = none → ∃ (s' : State) (q : Queue), exec (.qcreate c r) s = .next s' ∧ s'.queues = s.queues ++ [q] ∧ record s' 1 0 0 ∧
        q.id = r.arg0.toNat % 4096 ∧ q.ctx = c ∧ q.st = (if x.st = .saved then .suspended else .active) ∧ q.log2sz = r.arg0.toNat / 2 ^ 12 % 256 ∧ q.prio = r.arg0.toNat / 2 ^ 20 % 4 ∧
        q.msix = r.arg0.toNat / 2 ^ 32 % 2 ^ 11 ∧ q.base = r.arg1.toNat ∧ q.ridxAddr = r.arg2.toNat ∧ q.widx = 0 ∧ q.ridx = 0 ∧ q.ticket = 0 ∧ q.err = 0 ∧ q.lostC = false ∧
        q.lostR = false) ∧
      (s.argsBad c 5 r = false → s.getQueue (r.arg0.toNat % 4096) ≠ none → exec (.qcreate c r) s = .next (s.hostComplete r.compl.toNat 3 1 0)) ∧
      (∀ code, (code = 6 ∨ code = 7) → s.argsBad c code r = false → (∀ q, s.getQueue r.arg0.toNat = some q → q.ctx ≠ c ∨ q.st = .free ∨ (code = 7 ∧ q.st ≠ .error)) →
        exec (requestOf code c r) s = .next (s.hostComplete r.compl.toNat 3 1 0)) ∧
      (∀ q, s.argsBad c 6 r = false → s.getQueue r.arg0.toNat = some q → q.ctx = c → q.st ≠ .free →
        exec (.qdestroy c r) s = .next ({ s with queues := s.queues.filter (fun (y : Queue) => y.id ≠ r.arg0.toNat) }.hostComplete r.compl.toNat 1 0 0)) ∧
      (∀ q, s.argsBad c 7 r = false → s.getQueue r.arg0.toNat = some q → q.ctx = c → q.st = .error → ∃ (s' : State) (q' : Queue), exec (.qreset c r) s = .next s' ∧
        s.onlyQueue s' r.arg0.toNat q' ∧ q'.st = .active ∧ q'.err = 0 ∧ q'.eoff = 0 ∧ q'.ridx = q.widx ∧ q'.widx = q.widx ∧ q'.ticket = q.ticket ∧ s'.nodes = s.nodes) ∧
      (s.argsBad c 8 r = false → (x.st = .saved ∨ x.st = .faulted) →
        exec (.readsave c r) s = .next ((s.hostPut r.arg0.toNat (x.saveBytes r.arg1.toNat r.arg2.toNat)).hostComplete r.compl.toNat 1 0 0)) ∧
      (s.argsBad c 9 r = false → x.st = .running → fieldAt (s.hostTake r.arg0.toNat 64) 0 1 = 1 → x.gangArrived = [] →
        let g := gangOf (s.hostTake r.arg0.toNat 64)
        ∃ (s' : State) (x' : Context), exec (.gangrec c r) s = .next s' ∧ record s' 1 0 0 ∧ s'.getCtx c = some x' ∧ x'.gangPending = some g ∧ x'.gangTaken = false ∧ x'.gangGen = g.gen ∧
          x'.gangMembers = g.members ∧ x'.gangOpen = false ∧ x'.arrivedAt g.gen s.pkg = true ∧ x'.st = .running) ∧
      (s.argsBad c 10 r = false → x.st = .running → ∃ s' : State, exec (.dbgcont c r) s = .next s' ∧ record s' 1 0 0 ∧
        ∀ u (w : Workgroup), s.getWg u = some w → ∃ w', s'.getWg u = some w' ∧ ∀ i t, w.getTeam i = some t →
          let named : Prop := w.ctx = c ∧ t.st = .stall .brk ∧
            (r.arg0.getLsbD 16 = true ∨ (w.core = r.arg0.toNat % 2 ^ 10 ∧ t.lane = r.arg0.toNat / 2 ^ 10 % 16 ∧ t.slot = r.arg0.toNat / 2 ^ 14 % 4))
          (¬ named → w'.getTeam i = some t) ∧
          (∀ a, named → t.brkNext = some a → ∃ t', w'.getTeam i = some t' ∧ t'.st = .ready ∧ t'.brkNext = none ∧ t'.s = t.s ∧ t'.threads.length = t.threads.length ∧
            ∀ j, j < t.threads.length → (t'.thread j).v = (t.thread j).v ∧ (t'.thread j).pc = if t.nat.started = false ∧ hasBit (t.pend.getD 0) j = true then a else (t.thread j).pc)) ∧
      (s.argsBad c 11 r = false → x.st = .faulted → (∀ q ∈ s.queues, s.getQueue q.id = some q) → ∃ (s' : State) (x' : Context), exec (.rearm c r) s = .next s' ∧ s'.getCtx c = some x' ∧
        x'.st = .running ∧ x'.cause = none ∧ x'.dieq = [] ∧ x'.quota = x.created.getD 4 0 ∧ x'.politeWindow = x.created.getD 3 0 ∧ x'.nbv = x.created.getD 0 0 ∧
        x'.budget = BitVec.ofNat 64 (x.created.getD 5 0) ∧ s'.passDue = true ∧
        ∀ k q, s.getQueue k = some q → q.ctx = c → ∃ q' : Queue, s'.getQueue k = some q' ∧ q'.st = .active ∧ q'.ridx = q.widx ∧ q'.err = 0 ∧ q'.ticket = q.ticket))

/-- R371 to R374, R381 to R387: the polite window ends in a cut; a cut saves a workgroup that stands, and takes a team back to its record after 4096
cc; a fault-queue place freed takes the waiting cause; a gang's launch takes its instant, and a gang whose window closes, or that is told of an
abort, is discarded. The model's choices here: log entries 58, 60 and 95. -/
def Obligations.ContextEvents : Prop :=
  ∀ (s : State) (c : Nat) (x : Context), s.getCtx c = some x → x.waiting = [] → x.destroying = none → x.heldWithdrawals = [] →
    let stops := fun (y : Workgroup) => if y.ctx = c && y.teams.all (fun t => s.atStop y t) then { y with pressStop := true } else y
    (x.st = .polite → x.firmwarePreempt = false → x.gangQuiet = false → x.gangPending = none → (∃ w ∈ s.wgs, w.ctx = c) →
      (x.politeAt ≤ s.tai → ∃ s' : State, exec (.politeWindowExpiry c) s = .next s' ∧ s'.getCtx c = some { x with st := .cutting, cutAt := s.cc } ∧
        s'.wgs = s.wgs.map stops) ∧
      (s.tai < x.politeAt → exec (.politeWindowExpiry c) s = .next s)) ∧
    (∀ w n, x.st = .cutting → x.firmwarePreempt = false → x.gangQuiet = false → x.gangPending = none → s.getWg w.uid = some w → w.ctx = c → w.st = .run →
      s.getNode w.node = some n →
      (∀ y ∈ s.wgs, y.ctx = c → y.nbId = w.nbId → y.st = .run → (∃ t ∈ y.teams, s.atStop y t = false ∨ t.drained = false) ∨ s.drained y = false →
        exec (.workgroupSave w.uid) s = .next { s with wgs := s.wgs.map stops }) ∧
      ((∀ t ∈ w.teams, s.atStop w t = true ∧ t.drained = true) → s.drained w = true → s.wgs.filter (fun (y : Workgroup) => y.nbId = w.nbId && y.ctx = c) = [w] →
        ∃ (s' : State) (x' : Context), exec (.workgroupSave w.uid) s = .next s' ∧ s'.getWg w.uid = none ∧ (∀ o ∈ s'.ops, o.wg ≠ w.uid) ∧ s'.getCtx c = some x' ∧
          x'.save.wgs = x.save.wgs ++ [{ w with st := .saved, teams := w.teams.map (fun t => t.cutSave s w) }] ∧ s'.getNode w.node = some { n with running := n.running - 1 } ∧
          ((∀ y ∈ s.wgs, y.ctx = c → y.uid = w.uid) → x'.st = .saved) ∧ ((∃ y ∈ s.wgs, y.ctx = c ∧ y.uid ≠ w.uid) → x'.st = .cutting))) ∧
    (∀ w t c0, x.st = .cutting → s.teamOf w.uid t.tix = some (w, t) → w.ctx = c → s.inNative w t = true → t.nat.region = some c0 → s.atStop w t = false → t.st ≠ .done →
      (s.cc < x.cutAt + 4096 → exec (.cutBackTimeout w.uid t.tix) s = .next s) ∧
      (x.cutAt + 4096 ≤ s.cc → ∃ (s' : State) (u : Team), exec (.cutBackTimeout w.uid t.tix) s = .next s' ∧ s'.teamNow w t = some u ∧ SameElse s s' w t ∧ u.st = .saved ∧
        u.fstat = c0.fstat ∧ u.nat.gf = c0.gf ∧ u.nat.started = false ∧
        ∀ i k, i < t.threads.length → tabGet i c0.threads = some k → (t.thread i).st ≠ .exit →
          (u.thread i).a = k.a ∧ (u.thread i).p = k.p ∧ (u.thread i).pc = k.pc ∧ (u.thread i).st = k.st)) ∧
    (∀ v : BitVec 64, s.bootStage = 4 → s.power = .d0 →
      (x.fqWaiting = none → ∃ s' : State, exec (.ctxFqWrite c v) s = .next s' ∧ s'.getCtx c = some { x with fqTail := v.toNat / 256 % 128 } ∧ s'.out = s.out) ∧
      (∀ rec, x.fqWaiting = some rec → (x.fqHead + 128 - v.toNat / 256 % 128) % 128 ≠ 64 → ∃ (s' : State) (x' : Context), exec (.ctxFqWrite c v) s = .next s' ∧
        s'.getCtx c = some x' ∧ x'.fqTail = v.toNat / 256 % 128 ∧ x'.fqWaiting = none ∧ x'.fqHead = (x.fqHead + 1) % 128 ∧
        tabGet (x.fqHead % 64) x'.fq = some { rec with dropBrk := min x.dropBrk 65535 } ∧ x'.dropBrk = 0 ∧ s'.out = s.out ++ [.msix x.fqvec])) ∧
    (∀ g, x.st = .running → x.gangQuiet = false → x.gangPending = some g → g.kind = 1 → x.gangTaken = false →
      ((s.tai < g.time ∨ (2 ≤ s.clockMode ∧ x.barrierDone g = false)) → exec (.gangInstant c) s = .next s) ∧
      (g.time ≤ s.tai → (s.clockMode ≤ 1 ∨ x.barrierDone g = true) → ∃ (s' : State) (x' : Context), exec (.gangInstant c) s = .next s' ∧ s'.getCtx c = some x' ∧ x'.gangTaken = true ∧
        x'.gangOpen = true ∧ x'.st = .running ∧ x'.gangPending = (if x.barrierDone g then none else some g) ∧ s'.passDue = true)) ∧
    (∀ g, x.st.live = true → x.gangPending = some g → s.clockMode ≤ 1 →
      ((s.tai < g.time + g.grace ∨ x.barrierDone g = true) → exec (.gangGraceExpiry c) s = .next s) ∧
      (g.time + g.grace ≤ s.tai → x.barrierDone g = false → ∃ (s' : State) (x' : Context) (rc : FaultRec), exec (.gangGraceExpiry c) s = .next s' ∧ s'.getCtx c = some x' ∧
        x'.st = .faulted ∧ x'.cause = some rc ∧ rc.cls = (if x.arrivedAt g.gen s.pkg = false ∧ s.pkg ∈ g.members then 10 else 17) ∧
        x'.save.missing = g.members.filter (fun p => !x.arrivedAt g.gen p) ∧ ∀ w ∈ s'.wgs, w.ctx = c → w.teams = [])) ∧
    (∀ gangid gen (missing : List Nat),
      (x.gang = false ∨ x.gangId ≠ gangid ∨ x.st = .faulted → exec (.gangAbortReceived c gangid gen missing) s = .next s) ∧
      (x.gang = true → x.gangId = gangid → x.st.live = true → ∃ (s' : State) (x' : Context) (rc : FaultRec), exec (.gangAbortReceived c gangid gen missing) s = .next s' ∧
        s'.getCtx c = some x' ∧ x'.st = .faulted ∧ x'.cause = some rc ∧ rc.cls = (if s.pkg ∈ missing then 10 else 17) ∧ rc.flags % 4 / 2 = 1 ∧ x'.save.missing = missing ∧
        ∀ w ∈ s'.wgs, w.ctx = c → w.teams = []))

/-! Pages. -/

/-- R398, R402 to R408: the page operations on a block of one page, each with its requirement and its record, which waits for the other members of a
gang; a demand fill takes a free frame and
releases the teams that replay on the page, or faults the context; a walk's result is cached, a fault is not. The model's choices here: log entries
47, 49, 89, 119 and 120. -/
def Obligations.PageRequests : Prop :=
  ∀ (s : State) (c : Nat) (x : Context) (b : PageBlock), s.getCtx c = some x →
    let n := pageBytes b.sz.toNat
    let va := b.va.toNat
    let ends := fun (i : Instr) (why v : Nat) (post : State → Context → Prop) => ∃ (s' : State) (x' : Context), exec i s = .next s' ∧ s'.getCtx c = some x' ∧ x'.pageOps = [] ∧
      s'.hostMem = (s.hostComplete b.compl.toNat (if why = 0 then 1 else 3) why v).hostMem ∧ post s' x'
    let same := fun (_ : State) (x' : Context) => x'.pages = x.pages
    let ops : List (Nat × Instr) := [(1, .pageMap c b), (2, .pageUnmap c b), (3, .pageProt c b), (4, .pageEvict c b), (5, .pageMigrate c b), (6, .pageQuery c b)]
    let quiet : Prop := ∀ q ∈ s.queues, q.ctx = c → q.publish = none
    let job := fun (op : Nat) (moving : Bool) => ({ id := s.nextId, op := op, b := b, done := 0, moving := moving, from_ := none, result := none, waits := [] } : PageJob)
    let s0 := ({ s with nextId := s.nextId + 1 } : State).putCtx { x with pageOps := [job 1 false] }
    let alone : Prop := s.replicas x = []
    (s.serves → x.pageOps = [] → alone → ∀ op i, (op, i) ∈ ops →
      (b.rsvZero = false ∨ 64 ≤ b.attr.toNat ∨ 2 < b.sz.toNat ∨ b.npages = 0 ∨ 65536 < b.npages.toNat ∨ va % n ≠ 0 ∨ 2 ^ 57 < va + b.npages.toNat * n ∨
        (op = 1 ∧ b.attr.getLsbD 5 = true ∧ b.frame.toNat % n ≠ 0) → ends i 1 0 same) ∧
      (blockReason op b ≠ 1 → op = 1 → (b.home = 255 ∧ (b.attr.getLsbD 3 = true ∨ b.attr.getLsbD 2 = true) ∨ b.attr.getLsbD 2 = true ∧ b.peer = b.home) → ends i 2 0 same) ∧
      (blockReason op b = 0 → op = 1 → s.mapsReserved 1 b = true → ends i 1 0 same) ∧
      (blockReason op b = 0 → op = 1 → s.mapsReserved 1 b = false → b.npages = 1 → x.unmapped va n = false → ends i 3 0 same) ∧
      (blockReason op b = 0 → op = 1 → s.mapsReserved 1 b = false → b.npages = 1 → x.unmapped va n = true → s0.mapPage c (mapLeaf b 0) = none → ends i 4 0 same) ∧
      (blockReason op b = 0 → 2 ≤ op → op ≤ 5 → x.exact va b.sz.toNat = none → ends i 3 0 same) ∧
      (blockReason op b = 0 → 4 ≤ op → op ≤ 5 → ∀ l, x.exact va b.sz.toNat = some l → (l.res = false ∨ l.mig = true) → ends i 3 0 same) ∧
      (blockReason op b = 0 → 4 ≤ op → op ≤ 5 → ∀ l, x.exact va b.sz.toNat = some l → l.res = true → l.mig = false → l.mir = true → ends i 5 0 same)) ∧
    (s.serves → x.pageOps = [] → alone → b.npages = 1 → blockReason 1 b = 0 → s.mapsReserved 1 b = false → x.unmapped va n = true → (s0.mapPage c (mapLeaf b 0)).isSome = true → ends (.pageMap c b) 0 1 (fun _ x' => ∃ l, x'.pages = x.pages ++ [l] ∧ l.va = va ∧
      l.sz = b.sz.toNat ∧ l.w = b.attr.getLsbD 0 ∧ l.x = b.attr.getLsbD 1 ∧ l.mir = b.attr.getLsbD 2 ∧ l.conf = b.attr.getLsbD 3 ∧ l.res = b.attr.getLsbD 5 ∧
      l.zf = (b.attr.getLsbD 4 && !b.attr.getLsbD 5) ∧ l.home = b.home.toNat ∧ l.mig = false ∧ l.d = false ∧ l.peer = (if b.attr.getLsbD 2 then b.peer.toNat else 0) ∧
      (l.zf = false → l.frame = b.frame.toNat) ∧ (l.zf = true → l.frame = 0) ∧ l.slot = (if l.res || l.zf then none else some b.frame.toNat))) ∧
    (s.serves → x.pageOps = [] → s.replicas x ≠ [] → b.npages = 1 → ∀ l, x.exact va b.sz.toNat = some l → blockReason 3 b = 0 → ∃ (s' : State) (x' : Context),
      exec (.pageProt c b) s = .next s' ∧ s'.getCtx c = some x' ∧ s'.hostMem = s.hostMem ∧ x'.pageOps = [{ job 3 false with result := some (0, 1), waits := s.replicas x }] ∧
      x'.exact va b.sz.toNat = some { l with w := b.attr.getLsbD 0, x := b.attr.getLsbD 1 }) ∧
    (s.serves → x.pageOps = [] → alone → (x.pages.map Leaf.va).Nodup → b.npages = 1 → ∀ l, x.exact va b.sz.toNat = some l →
      (blockReason 2 b = 0 → quiet → ends (.pageUnmap c b) 0 1 (fun s' x' => x'.pages = x.pages.filter (fun (y : Leaf) => y.va ≠ va) ∧
        ∀ k ∈ s'.cores, ∀ e ∈ k.tlb, ¬ (e.ctx = c ∧ e.leaf.va = va))) ∧
      (blockReason 3 b = 0 → ends (.pageProt c b) 0 1 (fun s' x' => x'.exact va b.sz.toNat = some { l with w := b.attr.getLsbD 0, x := b.attr.getLsbD 1 } ∧
        ∀ k ∈ s'.cores, ∀ e ∈ k.tlb, ¬ (e.ctx = c ∧ e.leaf.va = va))) ∧
      (blockReason 4 b = 0 → l.res = true → l.mig = false → l.mir = false → (x.bkBase = 0 ∨ l.slot = none) → ends (.pageEvict c b) 3 0 same) ∧
      (∀ k, blockReason 4 b = 0 → l.res = true → l.mig = false → l.mir = false → x.bkBase ≠ 0 → l.slot = some k → b.compl = 0 → (∀ y ∈ s.cores, y.l1 = []) →
        Memory.wf s.dram = true → Memory.wf s.hostMem = true →
        ∃ (s' : State) (x' : Context), exec (.pageEvict c b) s = .next s' ∧ s'.getCtx c = some x' ∧ x'.pageOps = [] ∧
          x'.exact va b.sz.toNat = some { l with res := false, zf := false, d := false, frame := k } ∧
          (l.d = true → l.home = s.pkg → ∀ i, i < n → spGet 0 s'.hostMem (x.bkBase + k * n + i) = spGet 0 s.dram (l.frame + i)) ∧
          (l.d = false → s'.hostMem = s.hostMem)) ∧
      (blockReason 5 b = 0 → l.res = true → l.mig = false → l.mir = false → l.home ≠ 255 → b.home ≠ 255 → b.home.toNat ≠ s.pkg →
        ∃ (s' : State) (x' : Context), exec (.pageMigrate c b) s = .next s' ∧ s'.getCtx c = some x' ∧ s'.hostMem = s.hostMem ∧ x'.exact va b.sz.toNat = some { l with mig := true } ∧
          x'.pageOps = [job 5 true]) ∧
      (blockReason 5 b = 0 → l.res = true → l.mig = false → l.mir = false → l.home ≠ 255 → b.home.toNat = s.pkg → b.home ≠ 255 → x.freeFrames l.sz = [] →
        ends (.pageMigrate c b) 4 0 same)) ∧
    (s.serves → x.pageOps = [] → blockReason 6 b = 0 → (x.walk va = none → ends (.pageQuery c b) 0 0 same) ∧
      (∀ l, x.walk va = some l → l.sz < 4 → ∃ v, ends (.pageQuery c b) 0 v same ∧ v % 4 = 3 ∧ v / 4 % 4 = l.sz ∧ v.testBit 4 = l.w ∧ v.testBit 5 = l.x ∧ v.testBit 6 = l.res ∧
        v.testBit 7 = l.mig ∧ v.testBit 8 = l.mir ∧ v.testBit 9 = l.conf ∧ v.testBit 10 = l.d ∧ v / 2 ^ 48 % 256 = l.home % 256 ∧
        (l.res = true → v / 2 ^ 18 % 2 ^ 30 = l.frame / 2 ^ 18 % 2 ^ 30))) ∧
    (∀ a l, x.walk a = some l → (x.pages.map Leaf.va).Nodup →
      (l.res = true → exec (.demandFill c a) s = .next s) ∧
      (l.res = false → l.home = s.pkg → l.home ≠ 255 → l.zf = true → x.freeFrames l.sz ≠ [] → quiet →
        ∃ (s' : State) (x' : Context) (fr : Nat), exec (.demandFill c a) s = .next s' ∧ s'.getCtx c = some x' ∧ fr ∈ x.freeFrames l.sz ∧
          x'.walk a = some { l with res := true, d := false, frame := fr } ∧ (∀ i, i < pageBytes l.sz → spGet 0 s'.dram (fr + i) = 0) ∧
          (∀ u i w t y, s.teamOf u i = some (w, t) → w.ctx = c → t.st = .replay (.page y) → l.covers y = true → ∃ w' t', s'.teamOf u i = some (w', t') ∧ t'.st = .ready) ∧
          (∀ m ∈ s'.misses, ¬ (m.2.1 = c ∧ l.covers (m.2.2 * 2 ^ 18) = true))) ∧
      (l.res = false → l.home = s.pkg → l.home ≠ 255 → x.freeFrames l.sz = [] → x.st.live = true →
        ∃ (s' : State) (x' : Context) (rc : FaultRec), exec (.demandFill c a) s = .next s' ∧ s'.getCtx c = some x' ∧ x'.st = .faulted ∧ x'.cause = some rc ∧ rc.cls = 16 ∧ rc.sub = 3 ∧
          rc.addr = a)) ∧
    (∀ core a, (x.walk a = none → exec (.tlbMissWalk c core a) s = .next { s with misses := s.misses.filter (fun m => m ≠ (dieOf core, c, a / 2 ^ 18)) }) ∧
      (∀ l, x.walk a = some l → (l.res = false ∨ l.mig = true) → exec (.tlbMissWalk c core a) s = .next s) ∧
      (∀ l, x.walk a = some l → l.res = true → l.mig = false → s.tlbHit c core a = none → ∃ s' : State, exec (.tlbMissWalk c core a) s = .next s' ∧
        s'.tlbHit c core a = some l ∧ (dieOf core, c, a / 2 ^ 18) ∉ s'.misses ∧ s'.contexts = s.contexts))

/-! The link. -/

/-- R320, R413 to R417, R419 to R421, R437: a packet that is malformed or fails its tag is counted and dropped, one delivered already is dropped, one for
another package is relayed; each packet in its turn has its effect: a READ is answered with the bytes, a WRITE performs and is acknowledged, an
ATOMIC changes its value, a REPLY fills a register, an ACK ends a wait, an RPART delivers records, and a CONTROL packet grants credit,
acknowledges, or carries a translation, which is turned away with another version, with a digest that differs, or while its identity is quarantined. The model's choices here: log entries 38, 39, 40 and 41. -/
def Obligations.LinkPackets : Prop :=
  ∀ (s : State) (p : Packet),
    (∀ ty, s.power = .d0 → s.pkg < 192 →
      (p.dst ≠ s.pkg → p.relayed = false → exec (packetInstr ty p) s = .next s) ∧
      (p.dst ≠ s.pkg → p.relayed = true → exec (packetInstr ty p) s = .next { s with relayStore := s.relayStore ++ [{ type := ty, p := p, sentAt := none, firstAt := s.tai }] }) ∧
      (p.dst = s.pkg → p.src < 192 → p.src ≠ s.pkg →
        (p.wellFormed = false → exec (packetInstr ty p) s = .next { s with badPkt := s.badPkt + 1 }) ∧
        (p.wellFormed = true → p.conf = true → p.tagOk = false → exec (packetInstr ty p) s = .next { s with authF := s.authF + 1 }) ∧
        (p.wellFormed = true → p.conf = false → 1 ≤ ((s.peer p.src).rxSeq - BitVec.ofNat 32 p.seq).toNat → ((s.peer p.src).rxSeq - BitVec.ofNat 32 p.seq).toNat < 2 ^ 31 → p.seq < 2 ^ 32 →
          exec (packetInstr ty p) s = .next s))) ∧
    (Arrives s p → ∀ l pa, HomedHere s p.ctx p.addr l pa → s.sendBar p.src false 64 = .open_ →
      let n := accessBytes p.ty
      (maskCount p.mask ≤ 1 → p.payload = [] → ∃ s' : State, exec (.linkRead p) s = .next s' ∧ Answers s s' p .reply (spTake 0 s.dram pa n) ∧ s'.dram = s.dram) ∧
      (l.va % 64 = 0 → p.mask ≠ 0 → p.payload.length = maskCount p.mask → l.frame % 64 = 0 →
        ∃ s' : State, exec (.linkWrite p) s = .next s' ∧ Answers s s' p .ack [] ∧
          (∀ k, k < 64 → spGet 0 s'.dram ((l.frame + (p.addr / 64 * 64 - l.va) + k) % 2 ^ 42) =
            if p.mask.getLsbD k then p.payload.getD ((List.range k).countP (fun i => p.mask.getLsbD i)) 0
            else spGet 0 s.dram ((l.frame + (p.addr / 64 * 64 - l.va) + k) % 2 ^ 42)) ∧
          (∀ a, (∀ k, k < 64 → a ≠ (l.frame + (p.addr / 64 * 64 - l.va) + k) % 2 ^ 42) → spGet 0 s'.dram a = spGet 0 s.dram a)) ∧
      (p.aop < 15 → ∃ s' : State, exec (.linkAtomic p) s = .next s' ∧ (Answers s s' p .reply (natBytes n (bytesNat (spTake 0 s.dram pa n))) ∨ Answers s s' p .ack []) ∧
          spTake 0 s'.dram pa n = natBytes n (atomNew p.aop p.ty (bytesNat (spTake 0 s.dram pa n)) (fieldAt p.payload 0 n) (fieldAt p.payload n n)).1 ∧
          (∀ a, a < pa ∨ pa + n ≤ a → spGet 0 s'.dram a = spGet 0 s.dram a))) ∧
    (Arrives s p → ∀ w t v (rw : RemoteWait) j, s.teamOf w.uid t.tix = some (w, t) → s.waiter p.ctx p.src (p.rid / 2 ^ 16 % 2 ^ 16) = some (w, t, rw) → t.remote = [rw] → j < t.threads.length → j < 32 → spWf 0 (t.thread j).v = true →
      rw.threads = BitVec.ofNat 32 (2 ^ j) → rw.d = .v v → rw.atomic = false → rw.acq = 0 → Legal.ty64 rw.ty = false → p.payload.length = rw.size →
      ∃ (s' : State) (u : Team), exec (.linkReply p) s = .next s' ∧ s'.teamNow w t = some u ∧ u.remote = [] ∧ u.vGet j v.toNat = BitVec.ofNat 32 (loadVal rw.ty p.payload) ∧
        (∀ i m, i < t.threads.length → ¬ (i = j ∧ m = v.toNat) → u.vGet i m = t.vGet i m) ∧ u.s = t.s ∧ u.fstat = t.fstat ∧ (rw.parked = true → (t.thread j).st = .park → (u.thread j).st = .run)) ∧
    (Arrives s p → ∀ w t k, s.teamOf w.uid t.tix = some (w, t) → w.ctx = p.ctx → t.unacked = [k] → k.peer = p.src → k.req % 2 ^ 16 = p.rid / 2 ^ 16 % 2 ^ 16 →
      ∃ s' : State, exec (.linkAck p) s = .next s' ∧ s'.teamNow w t = some { t with unacked := [] } ∧ s'.sendStore = s.sendStore ∧ s'.dram = s.dram) ∧
    (Arrives s p → ∀ o b x, s.getCtx p.ctx = some x → x.st.live = true → s.ops = [o] → o.ctx = p.ctx → o.st = .busy → o.body = .rpart b → rpRound b.block = fieldAt p.payload 4 4 →
      fieldAt p.payload 0 4 = 3 → s.sendBar p.src false 0 = .open_ →
      ∃ (s' : State) (b' : RpartBody), exec (.linkRpart p) s = .next s' ∧ Answers s s' p .ack [] ∧ s'.ops = [{ o with body := .rpart b' }] ∧
        tabGet p.src b'.recs = some ((tabGet p.src b.recs).getD [] ++ p.payload.drop 8) ∧ b'.hist = b.hist ∧ b'.cnts = b.cnts) ∧
    (Arrives s p →
      (∀ k, ∃ s' : State, exec (.linkControl p (.credits k)) s = .next s' ∧ (s'.peer p.src).credit = (s.peer p.src).credit + k ∧ (s'.peer p.src).rxSeq = (s.peer p.src).rxSeq + 1 ∧
        s'.sendStore = s.sendStore) ∧
      (∀ id off version gen (carried computed : BitVec 384) clean spill d, s.askedOf p.src id off version = some d → s.getDir d.id = some d → d.asked = [p.src] →
        (carried ≠ computed ∨ version ≠ s.version ∨ s.quarantined.contains id = true) →
        ∃ s' : State, exec (.linkControl p (.transFound id off version gen carried computed clean spill)) s = .next s' ∧ s'.getDir d.id = some { d with asked := [] }) ∧
      (∀ m, m < 2 ^ 32 → ∃ s' : State, exec (.linkControl p (.deliveryAck m)) s = .next s' ∧
        (∀ o, o ∈ s'.sendStore ↔ o ∈ s.sendStore ∧ ¬ (o.p.dst = p.src ∧ seqBefore o.p.seq m = true))))

/-- R411, R412, R415, R416, R418, R426 to R429: the ports train, fail and retrain; the rotor moves on and a port sends to the package it meets; a
packet not acknowledged is sent again, and a package silent for 10 ms is unreachable; a key block installs a key and is wiped; a key exhausted too
long faults those who wait. The model's choices here: log entries 42, 62 and 63. -/
def Obligations.LinkPorts : Prop :=
  ∀ (s : State) (i : Nat) (q : Port), s.ports[i]? = some q →
    let port := fun (e : Instr) (st : Nat) => ∃ (s' : State) (q' : Port), exec e s = .next s' ∧ s'.ports[i]? = some q' ∧ q'.st = st ∧ (∀ j, j ≠ i → s'.ports[j]? = s.ports[j]?)
    (s.pkg < 192 → s.power = .d0 → q.st = 0 → port (.lightDetected i) 1) ∧
    ((192 ≤ s.pkg ∨ s.power ≠ .d0) → exec (.lightDetected i) s = .next s) ∧
    (∀ k, q.st = 1 → port (.portTrained i k) 2 ∧ (s.trained = false → ∃ s' : State, exec (.portTrained i k) s = .next s' ∧ s'.trained = true ∧ s'.slot = k % 12 ∧ s'.cycle = 0)) ∧
    (∀ k, q.st ≠ 1 → exec (.portTrained i k) s = .next s) ∧
    (q.st = 1 → port (.trainTimeout i) 3) ∧
    (q.st = 2 → q.crcCycle + 1 < 64 → port (.flitCrcFail i) 2) ∧
    (q.st = 2 → 64 ≤ q.crcCycle + 1 → port (.flitCrcFail i) 3) ∧
    (q.st = 2 → port (.lossOfLight i) 3) ∧
    (q.st = 3 → port (.portRetrain i) 1) ∧
    (s.pkg < 192 → s.power = .d0 → s.trained = true →
      ((∀ j, s.portUp j = false) → ∃ s' : State, exec .rotorSlot s = .next s' ∧ s'.slot = (if s.slot + 1 < 12 then s.slot + 1 else 0) ∧
        s'.cycle = (if s.slot + 1 < 12 then s.cycle else s.cycle + 1) ∧ s'.out = s.out ∧ s'.sendStore = s.sendStore) ∧
      (∀ o, i < 16 → s.slot + 1 < 12 → (∀ j, s.portUp j = true ↔ j = i) → (12 * i + (s.slot + 1) + 192 - s.pkg) % 192 = o.p.dst → o.p.dst ≠ s.pkg → (s.peer o.p.dst).rxSeq = 0 →
        s.relayStore = [] → s.sendStore = [o] → o.sentAt = none → o.p.len ≤ 6000 → ∃ s' : State, exec .rotorSlot s = .next s' ∧
        s'.out = s.out ++ [.sent i { o with sentAt := some s.tai, p := { o.p with relayed := false } }] ∧ s'.sendStore = [{ o with sentAt := some s.tai }])) ∧
    (∀ dst seq, (∀ o ∈ s.sendStore, o.p.dst = dst → o.p.seq = seq → ∀ t, o.sentAt = some t → s.tai < t + 72000) → exec (.retransmitTimeout dst seq) s = .next s) ∧
    (∀ o t, s.sendStore = [o] → o.sentAt = some t → t + 72000 ≤ s.tai →
      exec (.retransmitTimeout o.p.dst o.p.seq) s = .next { s with sendStore := [{ o with sentAt := none }] }) ∧
    (∀ dst, (∀ o ∈ s.sendStore, o.p.dst = dst → s.tai < o.firstAt + 10 ^ 7) → exec (.peerUnreachable dst) s = .next s) ∧
    (∀ dst, (s.peer dst).reach = 1 → (∃ o ∈ s.sendStore, o.p.dst = dst ∧ o.firstAt + 10 ^ 7 ≤ s.tai) → s.wgs = [] → s.ops = [] → s.arrivals = [] → s.nodes = [] → s.contexts = [] → s.homeWaits = [] →
      ∃ s' : State, exec (.peerUnreachable dst) s = .next s' ∧ (s'.peer dst).reach = 2 ∧ ∀ o ∈ s'.sendStore, o.p.dst ≠ dst) ∧
    (∀ a : BitVec 64, s.serves → Memory.wf s.hostMem = true →
      let b := s.hostTake a.toNat 64
      let k := fieldAt b 0 1
      let good : Prop := k ≤ 191 ∧ fieldAt b 1 1 ≤ 1 ∧ fieldAt b 2 1 ≤ 1 ∧ zeroAt b 4 28 = true ∧ ¬ (fieldAt b 1 1 = 0 ∧ ((s.peer k).txKey.map SendKey.ix) = some (fieldAt b 2 1))
      ∃ s' : State, exec (.lnkKeyld a) s = .next s' ∧ (∀ j, j < 32 → spGet 0 s'.hostMem (a.toNat + 32 + j) = 0) ∧
        (good → spGet 0 s'.hostMem (a.toNat + 3) = 1 ∧
          (fieldAt b 1 1 = 1 → fieldAt b 2 1 = 0 → (s'.peer k).rx0 = some (BitVec.ofNat 256 (fieldAt b 32 32)) ∧ (s'.peer k).rx1 = (s.peer k).rx1) ∧
          (fieldAt b 1 1 = 1 → fieldAt b 2 1 = 1 → (s'.peer k).rx1 = some (BitVec.ofNat 256 (fieldAt b 32 32)) ∧ (s'.peer k).rx0 = (s.peer k).rx0) ∧
          (fieldAt b 1 1 = 0 → (s'.peer k).txNext = some (fieldAt b 2 1, BitVec.ofNat 256 (fieldAt b 32 32)) ∧ (s'.peer k).refused = none)) ∧
        (¬ good → spGet 0 s'.hostMem (a.toNat + 3) = 2 ∧ s'.peers = s.peers)) ∧
    (∀ k, ((s.peer k).refused = none ∨ ∃ t, (s.peer k).refused = some t ∧ s.tai < t + 1000 * s.keyTmo) → exec (.keyExhaustTimeout k) s = .next s) ∧
    (∀ k t w u x, (s.peer k).refused = some t → t + 1000 * s.keyTmo ≤ s.tai → s.wgs = [w] → w.teams = [u] → s.getCtx w.ctx = some x → x.st.live = true → u.st = .stall (.key k) → s.ops = [] →
      s.owed = [] → x.destroying = none → ∃ (s' : State) (x' : Context) (rc : FaultRec), exec (.keyExhaustTimeout k) s = .next s' ∧ (s'.peer k).refused = none ∧ s'.getCtx w.ctx = some x' ∧ x'.st = .faulted ∧
        x'.cause = some rc ∧ rc.cls = 11)

/-! The clock, the host and the package. -/

/-- R10, R11, R13, R14, R216 to R218, R332, R349, R377, R378, R441 to R449: PTP sets the clock's mode and slew; the host's registers, its memory
window and the management port; the five resets and the stages of a boot; firmware that recovers; the power states; soft errors and their counts. The model's choices
here: log entries 4, 15, 61, 78, 79, 80, 81 and 84. -/
def Obligations.PackageEvents : Prop :=
  ∀ s : State,
    (∀ d, exec (.ptpMessage d) s = .next { s with slew := d }) ∧
    exec .ptpLockAchieved s = .next { s with clockMode := 0 } ∧
    (s.clockMode = 0 → exec .ptpLockLost s = .next { s with clockMode := 1, holdSince := s.tai, slew := 0 }) ∧
    (s.clockMode ≠ 0 → exec .ptpLockLost s = .next s) ∧
    (s.clockMode = 1 → s.holdSince + 1000000000 ≤ s.tai → exec .holdoverExpiry s = .next { s with clockMode := 2 }) ∧
    (s.clockMode ≠ 1 ∨ s.tai < s.holdSince + 1000000000 → exec .holdoverExpiry s = .next s) ∧
    (s.serves → (∀ c o (x : BitVec 64), c < 256 → o < 56 → o % 8 = 0 →
        exec (.hostRegisterWrite (0x1000000 + 8192 * c + o) x) s = .next { s with reqBytes := spPut 0 s.reqBytes (64 * c + o) (natBytes 8 x.toNat) }) ∧
      (∀ c (x : BitVec 64), c < 256 → let q := blockRequest (spTake 0 s.reqBytes (64 * c) 56)
        1 ≤ q.1 → q.1 ≤ 11 → exec (.hostRegisterWrite (0x1000000 + 8192 * c + 56) x) s = exec (requestOf q.1 c q.2) s) ∧
      (∀ (x : BitVec 64), s.memCe < 2 ^ 32 → s.memUe < 2 ^ 16 → ∃ s' : State, exec (.hostRegisterWrite 0x28 x) s = .next s' ∧ s'.memCe < 2 ^ 32 ∧ s'.memUe < 2 ^ 16 ∧
        (∀ k, k < 32 → s'.memCe.testBit k = (s.memCe.testBit k && !x.getLsbD k)) ∧ (∀ k, k < 16 → s'.memUe.testBit k = (s.memUe.testBit k && !x.getLsbD (32 + k))) ∧
        s'.dram = s.dram ∧ s'.contexts = s.contexts) ∧
      (∀ k q (x : BitVec 64), k < 4096 → s.getQueue k = some q → exec (.hostRegisterWrite (0x400000 + 8 * k) x) s =
        .next (s.putQueue { q with lostC := q.lostC && !x.getLsbD 2, lostR := q.lostR && !x.getLsbD 28 })) ∧
      (∀ off (x : BitVec 64), off % 8 ≠ 0 ∨ (off < 0x10000 ∧ off ≠ 0x28) → exec (.hostRegisterWrite off x) s = .next s)) ∧
    (s.bootStage = 4 → s.power = .d0 → Memory.wf s.dram = true → ∀ a bs, (∀ k, k < bs.length → s.hostReach (a + k) = true) →
      (∃ s' : State, exec (.hostMemoryWrite a bs) s = .next s' ∧ (∀ k, k < bs.length → spGet 0 s'.dram (a + k) = bs.getD k 0) ∧
        (∀ b, b < a ∨ a + bs.length ≤ b → spGet 0 s'.dram b = spGet 0 s.dram b)) ∧
      (∃ s' : State, exec (.hostMemoryRead a bs.length) s = .next s' ∧ s'.out = s.out ++ [.hostRead a (spTake 0 s.dram a bs.length)] ∧ s'.dram = s.dram)) ∧
    (s.bootStage = 4 → s.power = .d0 → Memory.wf s.dram = true → ∀ a bs, (∀ k, k < bs.length → s.hostReach (a + k) = false) →
      ∃ s' : State, exec (.hostMemoryWrite a bs) s = .next s' ∧ s'.dram = s.dram) ∧
    (s.bootStage ≠ 4 → ∀ a bs off (x : BitVec 64), exec (.hostMemoryWrite a bs) s = .next s ∧ exec (.hostMemoryRead a bs.length) s = .next s ∧
      exec (.hostRegisterWrite off x) s = .next s) ∧
    (∀ id b, exec (.mgmtIdent false) s = .next s ∧ exec (.mgmtSetid false id) s = .next s ∧ exec (.mgmtReset false b) s = .next s) ∧
    (s.bootStage = 4 → s.power ≠ .off → s.memCe < 2 ^ 32 → s.memUe ≤ 65535 →
      exec (.mgmtIdent true) s = .next { s with out := s.out ++ [.mgmtIdent Config.serial
        (4 + 8 * (if s.bootSlot then 1 else 0) + 16 * s.bootDies.toNat + 2 ^ 12 * s.pkg) (s.memCe + 2 ^ 32 * s.memUe)] } ∧
      (∀ id, id ≤ 191 → s.idSet = false → s.ctxMade = false → exec (.mgmtSetid true id) s = .next { s with pkg := id, idSet := true }) ∧
      (∀ id, 191 < id ∨ s.idSet = true ∨ s.ctxMade = true → exec (.mgmtSetid true id) s = .next { s with out := s.out ++ [.mgmtRefused] })) ∧
    (∀ (b : BootInfo) i, i ∈ [Instr.powerUp b, .perst b, .hotReset b, .functionLevelReset b, .mgmtReset true b] → (i = .powerUp b ∨ s.power ≠ .off) → (i = .mgmtReset true b → s.bootStage = 4) →
      ∃ s' : State, exec i s = .next s' ∧ s'.contexts = [] ∧ s'.queues = [] ∧ s'.nodes = [] ∧ s'.wgs = [] ∧ s'.ops = [] ∧ s'.objects = [] ∧ s'.peers = [] ∧ s'.dram = [] ∧
        s'.memCe = 0 ∧ s'.memUe = 0 ∧ s'.featGen = 1 ∧ s'.pkg = 0xFF ∧ s'.idSet = false ∧ s'.ctxMade = false ∧ s'.power = .d0 ∧ s'.hostMem = s.hostMem ∧ s'.tai = s.tai ∧
        s'.bootStage = 0 ∧ s'.cores = [] ∧ s'.bootDies = 0 ∧ s'.booting = some b) ∧
    (∀ b, s.booting = some b → s.bootStage ≤ 3 →
      let s' := s.bootSome
      (s'.bootStage = s.bootStage ∧ s'.booting = some b ∧ s'.bootSlot = s.bootSlot ∧ s'.bootDies = s.bootDies ∧ s'.cores = s.cores ∧ s'.regions = s.regions) ∨
      (s.bootStage = 0 ∧ s'.bootStage = 1 ∧ s'.booting = some b) ∨
      (s.bootStage = 1 ∧ b.slot0Ok = false ∧ b.slot1Ok = false ∧ s'.bootStage = 7 ∧ s'.booting = none ∧ s'.cores = s.cores) ∨
      (s.bootStage = 1 ∧ (b.slot0Ok = true ∨ b.slot1Ok = true) ∧ s'.bootStage = 2 ∧ s'.booting = some b ∧ s'.bootSlot = !b.slot0Ok) ∨
      (s.bootStage = 2 ∧ s'.bootStage = 3 ∧ s'.booting = some b ∧
          (∀ d, d < 8 → (s'.bootDies.getLsbD d = true ↔ ∃ k, k < 144 ∧ (b.pass.getD d 0).getLsbD k = true)) ∧
          (∀ d k, d < 8 → k < 128 → ((s'.getCore ((d / 2 * 8 + k / 16) * 32 + d % 2 * 16 + k % 16)).isSome = true ↔
            k + 1 < (List.range 144).countP (fun j => (b.pass.getD d 0).getLsbD j))) ∧
          (∀ n, n < 1024 → s'.absent.getLsbD n = (s'.getCore n).isNone)) ∨
      (s.bootStage = 3 ∧ s'.bootStage = 4 ∧ s'.booting = none ∧ s'.regions = b.regions.take 5)) ∧
    (∀ b i, i ∈ [Instr.perst b, .hotReset b, .functionLevelReset b] → s.power = .off → exec i s = .next s) ∧
    (∀ die, s.bootStage = 4 → s.bootDies.getLsbD die = true → s.recovering.contains die = false →
      exec (.fwWatchdogExpiry die) s = .next { s with recovering := s.recovering ++ [die] }) ∧
    (∀ die, s.bootDies.getLsbD die = false → exec (.fwWatchdogExpiry die) s = .next s) ∧
    (∀ above, s.power ≠ .off → ∃ s' : State, exec (.pkgOverChange above) s = .next s' ∧ s'.pkgOver = above ∧ (s.pkgOver ≠ above → s'.passDue = true)) ∧
    (∀ u : Nat, s.power ≠ .off → s.bootDies.getLsbD (32 * u / 2 ^ 39) = true → u < 2 ^ 37 → ∃ s' : State, exec (.softError (.dram u)) s = .next s' ∧ s'.dram = s.dram ∧
      ((s'.memCe = min (2 ^ 32 - 1) (s.memCe + 1) ∧ s'.bad = s.bad) ∨ (s'.memCe = s.memCe ∧ s'.bad = (if s.bad.contains (.dram u) then s.bad else s.bad ++ [.dram u])))) ∧
    (∀ u, s.bad.contains u = true → exec (.scrubbing u) s = .next { s with memUe := min 65535 (s.memUe + 1) }) ∧
    (∀ u, s.bad.contains u = false → exec (.scrubbing u) s = .next s) ∧
    (s.power ≠ .off → ∃ s' : State, exec .thermalWarning s = .next s' ∧ s'.pkgOver = true ∧ s'.thermal = true ∧ s'.wgs = s.wgs ∧ (s.pkgOver = false → s'.passDue = true)) ∧
    (∀ i, i ∈ [Instr.thermalTrip, .powerLoss] → (i = .powerLoss ∨ s.power ≠ .off) → ∃ s' : State, exec i s = .next s' ∧ s'.power = .off ∧ s'.contexts = [] ∧ s'.wgs = [] ∧ s'.queues = [] ∧
      s'.dram = [] ∧ s'.bootStage = 0 ∧ s'.hostMem = s.hostMem) ∧
    (s.bootStage = 4 → s.power = .d0 → s.contexts ≠ [] → exec .d3hotEntry s = .next { s with out := s.out ++ [.pmeRefused] }) ∧
    (s.bootStage = 4 → s.power = .d0 → s.contexts = [] → ∃ s' : State, exec .d3hotEntry s = .next s' ∧ s'.power = .d3hot ∧ (∀ p ∈ s'.ports, p.st = 0) ∧ s'.dram = s.dram) ∧
    (s.power = .d3hot → exec .d0Return s = .next { s with power := .d0 }) ∧
    (s.power ≠ .d3hot → exec .d0Return s = .next s) ∧
    (s.bootStage = 4 → s.power ≠ .off → (∀ x ∈ s.contexts, s.getCtx x.id = some x) → ∃ s' : State, exec .firmwareUpdate s = .next s' ∧ s'.featGen = (if s.featGen = 0xFFFFFFFF then 1 else s.featGen + 1) ∧
      (s'.version = s.version ∨ s'.version = s.version + 1) ∧
      ∀ c x, s.getCtx c = some x → s'.getCtx c = some (if x.st = .running then { x with st := .polite, politeAt := s.tai + 1000 * x.politeWindow, firmwarePreempt := true } else x))
end

