-- ==== Sys2Proof/Laws/State.lean ====
section
/-! SUPPORT. What the updates of the state, of a team and of a thread leave of each field: one lemma per field per update. -/
namespace Sys2Proof.Machine

section
variable (s : State) (x : Context)
@[simp] theorem State.putCtx_bootStage : (s.putCtx x).bootStage = s.bootStage := rfl
@[simp] theorem State.putCtx_booting : (s.putCtx x).booting = s.booting := rfl
@[simp] theorem State.putCtx_bootSlot : (s.putCtx x).bootSlot = s.bootSlot := rfl
@[simp] theorem State.putCtx_bootDies : (s.putCtx x).bootDies = s.bootDies := rfl
@[simp] theorem State.putCtx_pkg : (s.putCtx x).pkg = s.pkg := rfl
@[simp] theorem State.putCtx_idSet : (s.putCtx x).idSet = s.idSet := rfl
@[simp] theorem State.putCtx_ctxMade : (s.putCtx x).ctxMade = s.ctxMade := rfl
@[simp] theorem State.putCtx_power : (s.putCtx x).power = s.power := rfl
@[simp] theorem State.putCtx_cores : (s.putCtx x).cores = s.cores := rfl
@[simp] theorem State.putCtx_absent : (s.putCtx x).absent = s.absent := rfl
@[simp] theorem State.putCtx_spares : (s.putCtx x).spares = s.spares := rfl
@[simp] theorem State.putCtx_fwCores : (s.putCtx x).fwCores = s.fwCores := rfl
@[simp] theorem State.putCtx_regions : (s.putCtx x).regions = s.regions := rfl
@[simp] theorem State.putCtx_dram : (s.putCtx x).dram = s.dram := rfl
@[simp] theorem State.putCtx_hostMem : (s.putCtx x).hostMem = s.hostMem := rfl
@[simp] theorem State.putCtx_bad : (s.putCtx x).bad = s.bad := rfl
@[simp] theorem State.putCtx_memCe : (s.putCtx x).memCe = s.memCe := rfl
@[simp] theorem State.putCtx_memUe : (s.putCtx x).memUe = s.memUe := rfl
@[simp] theorem State.putCtx_featGen : (s.putCtx x).featGen = s.featGen := rfl
@[simp] theorem State.putCtx_version : (s.putCtx x).version = s.version := rfl
@[simp] theorem State.putCtx_stokers : (s.putCtx x).stokers = s.stokers := rfl
@[simp] theorem State.putCtx_contexts : (s.putCtx x).contexts = putBy Context.id x s.contexts := rfl
@[simp] theorem State.putCtx_reqBytes : (s.putCtx x).reqBytes = s.reqBytes := rfl
@[simp] theorem State.putCtx_queues : (s.putCtx x).queues = s.queues := rfl
@[simp] theorem State.putCtx_nodes : (s.putCtx x).nodes = s.nodes := rfl
@[simp] theorem State.putCtx_wgs : (s.putCtx x).wgs = s.wgs := rfl
@[simp] theorem State.putCtx_ops : (s.putCtx x).ops = s.ops := rfl
@[simp] theorem State.putCtx_stale : (s.putCtx x).stale = s.stale := rfl
@[simp] theorem State.putCtx_objects : (s.putCtx x).objects = s.objects := rfl
@[simp] theorem State.putCtx_dir : (s.putCtx x).dir = s.dir := rfl
@[simp] theorem State.putCtx_codePages : (s.putCtx x).codePages = s.codePages := rfl
@[simp] theorem State.putCtx_quarantined : (s.putCtx x).quarantined = s.quarantined := rfl
@[simp] theorem State.putCtx_dieTlb : (s.putCtx x).dieTlb = s.dieTlb := rfl
@[simp] theorem State.putCtx_misses : (s.putCtx x).misses = s.misses := rfl
@[simp] theorem State.putCtx_lastServed : (s.putCtx x).lastServed = s.lastServed := rfl
@[simp] theorem State.putCtx_nextStamp : (s.putCtx x).nextStamp = s.nextStamp := rfl
@[simp] theorem State.putCtx_nextId : (s.putCtx x).nextId = s.nextId := rfl
@[simp] theorem State.putCtx_lastFirstDie : (s.putCtx x).lastFirstDie = s.lastFirstDie := rfl
@[simp] theorem State.putCtx_passDue : (s.putCtx x).passDue = s.passDue := rfl
@[simp] theorem State.putCtx_pkgOver : (s.putCtx x).pkgOver = s.pkgOver := rfl
@[simp] theorem State.putCtx_thermal : (s.putCtx x).thermal = s.thermal := rfl
@[simp] theorem State.putCtx_ports : (s.putCtx x).ports = s.ports := rfl
@[simp] theorem State.putCtx_peers : (s.putCtx x).peers = s.peers := rfl
@[simp] theorem State.putCtx_slot : (s.putCtx x).slot = s.slot := rfl
@[simp] theorem State.putCtx_cycle : (s.putCtx x).cycle = s.cycle := rfl
@[simp] theorem State.putCtx_trained : (s.putCtx x).trained = s.trained := rfl
@[simp] theorem State.putCtx_sendStore : (s.putCtx x).sendStore = s.sendStore := rfl
@[simp] theorem State.putCtx_relayStore : (s.putCtx x).relayStore = s.relayStore := rfl
@[simp] theorem State.putCtx_homeWaits : (s.putCtx x).homeWaits = s.homeWaits := rfl
@[simp] theorem State.putCtx_barWaits : (s.putCtx x).barWaits = s.barWaits := rfl
@[simp] theorem State.putCtx_barLinks : (s.putCtx x).barLinks = s.barLinks := rfl
@[simp] theorem State.putCtx_arrivals : (s.putCtx x).arrivals = s.arrivals := rfl
@[simp] theorem State.putCtx_heldReqs : (s.putCtx x).heldReqs = s.heldReqs := rfl
@[simp] theorem State.putCtx_owed : (s.putCtx x).owed = s.owed := rfl
@[simp] theorem State.putCtx_authF : (s.putCtx x).authF = s.authF := rfl
@[simp] theorem State.putCtx_rlyUe : (s.putCtx x).rlyUe = s.rlyUe := rfl
@[simp] theorem State.putCtx_badPkt : (s.putCtx x).badPkt = s.badPkt := rfl
@[simp] theorem State.putCtx_keyTmo : (s.putCtx x).keyTmo = s.keyTmo := rfl
@[simp] theorem State.putCtx_cc : (s.putCtx x).cc = s.cc := rfl
@[simp] theorem State.putCtx_tai : (s.putCtx x).tai = s.tai := rfl
@[simp] theorem State.putCtx_clockMode : (s.putCtx x).clockMode = s.clockMode := rfl
@[simp] theorem State.putCtx_holdSince : (s.putCtx x).holdSince = s.holdSince := rfl
@[simp] theorem State.putCtx_slew : (s.putCtx x).slew = s.slew := rfl
@[simp] theorem State.putCtx_retiring : (s.putCtx x).retiring = s.retiring := rfl
@[simp] theorem State.putCtx_recovering : (s.putCtx x).recovering = s.recovering := rfl
@[simp] theorem State.putCtx_held : (s.putCtx x).held = s.held := rfl
@[simp] theorem State.putCtx_out : (s.putCtx x).out = s.out := rfl
@[simp] theorem State.putCtx_agenda : (s.putCtx x).agenda = s.agenda := rfl
@[simp] theorem State.putCtx_cur : (s.putCtx x).cur = s.cur := rfl
@[simp] theorem State.putCtx_free : (s.putCtx x).free = s.free := rfl
end

section
variable (s : State) (x : Core)
@[simp] theorem State.putCore_bootStage : (s.putCore x).bootStage = s.bootStage := rfl
@[simp] theorem State.putCore_booting : (s.putCore x).booting = s.booting := rfl
@[simp] theorem State.putCore_bootSlot : (s.putCore x).bootSlot = s.bootSlot := rfl
@[simp] theorem State.putCore_bootDies : (s.putCore x).bootDies = s.bootDies := rfl
@[simp] theorem State.putCore_pkg : (s.putCore x).pkg = s.pkg := rfl
@[simp] theorem State.putCore_idSet : (s.putCore x).idSet = s.idSet := rfl
@[simp] theorem State.putCore_ctxMade : (s.putCore x).ctxMade = s.ctxMade := rfl
@[simp] theorem State.putCore_power : (s.putCore x).power = s.power := rfl
@[simp] theorem State.putCore_cores : (s.putCore x).cores = putBy Core.id x s.cores := rfl
@[simp] theorem State.putCore_absent : (s.putCore x).absent = s.absent := rfl
@[simp] theorem State.putCore_spares : (s.putCore x).spares = s.spares := rfl
@[simp] theorem State.putCore_fwCores : (s.putCore x).fwCores = s.fwCores := rfl
@[simp] theorem State.putCore_regions : (s.putCore x).regions = s.regions := rfl
@[simp] theorem State.putCore_dram : (s.putCore x).dram = s.dram := rfl
@[simp] theorem State.putCore_hostMem : (s.putCore x).hostMem = s.hostMem := rfl
@[simp] theorem State.putCore_bad : (s.putCore x).bad = s.bad := rfl
@[simp] theorem State.putCore_memCe : (s.putCore x).memCe = s.memCe := rfl
@[simp] theorem State.putCore_memUe : (s.putCore x).memUe = s.memUe := rfl
@[simp] theorem State.putCore_featGen : (s.putCore x).featGen = s.featGen := rfl
@[simp] theorem State.putCore_version : (s.putCore x).version = s.version := rfl
@[simp] theorem State.putCore_stokers : (s.putCore x).stokers = s.stokers := rfl
@[simp] theorem State.putCore_contexts : (s.putCore x).contexts = s.contexts := rfl
@[simp] theorem State.putCore_reqBytes : (s.putCore x).reqBytes = s.reqBytes := rfl
@[simp] theorem State.putCore_queues : (s.putCore x).queues = s.queues := rfl
@[simp] theorem State.putCore_nodes : (s.putCore x).nodes = s.nodes := rfl
@[simp] theorem State.putCore_wgs : (s.putCore x).wgs = s.wgs := rfl
@[simp] theorem State.putCore_ops : (s.putCore x).ops = s.ops := rfl
@[simp] theorem State.putCore_stale : (s.putCore x).stale = s.stale := rfl
@[simp] theorem State.putCore_objects : (s.putCore x).objects = s.objects := rfl
@[simp] theorem State.putCore_dir : (s.putCore x).dir = s.dir := rfl
@[simp] theorem State.putCore_codePages : (s.putCore x).codePages = s.codePages := rfl
@[simp] theorem State.putCore_quarantined : (s.putCore x).quarantined = s.quarantined := rfl
@[simp] theorem State.putCore_dieTlb : (s.putCore x).dieTlb = s.dieTlb := rfl
@[simp] theorem State.putCore_misses : (s.putCore x).misses = s.misses := rfl
@[simp] theorem State.putCore_lastServed : (s.putCore x).lastServed = s.lastServed := rfl
@[simp] theorem State.putCore_nextStamp : (s.putCore x).nextStamp = s.nextStamp := rfl
@[simp] theorem State.putCore_nextId : (s.putCore x).nextId = s.nextId := rfl
@[simp] theorem State.putCore_lastFirstDie : (s.putCore x).lastFirstDie = s.lastFirstDie := rfl
@[simp] theorem State.putCore_passDue : (s.putCore x).passDue = s.passDue := rfl
@[simp] theorem State.putCore_pkgOver : (s.putCore x).pkgOver = s.pkgOver := rfl
@[simp] theorem State.putCore_thermal : (s.putCore x).thermal = s.thermal := rfl
@[simp] theorem State.putCore_ports : (s.putCore x).ports = s.ports := rfl
@[simp] theorem State.putCore_peers : (s.putCore x).peers = s.peers := rfl
@[simp] theorem State.putCore_slot : (s.putCore x).slot = s.slot := rfl
@[simp] theorem State.putCore_cycle : (s.putCore x).cycle = s.cycle := rfl
@[simp] theorem State.putCore_trained : (s.putCore x).trained = s.trained := rfl
@[simp] theorem State.putCore_sendStore : (s.putCore x).sendStore = s.sendStore := rfl
@[simp] theorem State.putCore_relayStore : (s.putCore x).relayStore = s.relayStore := rfl
@[simp] theorem State.putCore_homeWaits : (s.putCore x).homeWaits = s.homeWaits := rfl
@[simp] theorem State.putCore_barWaits : (s.putCore x).barWaits = s.barWaits := rfl
@[simp] theorem State.putCore_barLinks : (s.putCore x).barLinks = s.barLinks := rfl
@[simp] theorem State.putCore_arrivals : (s.putCore x).arrivals = s.arrivals := rfl
@[simp] theorem State.putCore_heldReqs : (s.putCore x).heldReqs = s.heldReqs := rfl
@[simp] theorem State.putCore_owed : (s.putCore x).owed = s.owed := rfl
@[simp] theorem State.putCore_authF : (s.putCore x).authF = s.authF := rfl
@[simp] theorem State.putCore_rlyUe : (s.putCore x).rlyUe = s.rlyUe := rfl
@[simp] theorem State.putCore_badPkt : (s.putCore x).badPkt = s.badPkt := rfl
@[simp] theorem State.putCore_keyTmo : (s.putCore x).keyTmo = s.keyTmo := rfl
@[simp] theorem State.putCore_cc : (s.putCore x).cc = s.cc := rfl
@[simp] theorem State.putCore_tai : (s.putCore x).tai = s.tai := rfl
@[simp] theorem State.putCore_clockMode : (s.putCore x).clockMode = s.clockMode := rfl
@[simp] theorem State.putCore_holdSince : (s.putCore x).holdSince = s.holdSince := rfl
@[simp] theorem State.putCore_slew : (s.putCore x).slew = s.slew := rfl
@[simp] theorem State.putCore_retiring : (s.putCore x).retiring = s.retiring := rfl
@[simp] theorem State.putCore_recovering : (s.putCore x).recovering = s.recovering := rfl
@[simp] theorem State.putCore_held : (s.putCore x).held = s.held := rfl
@[simp] theorem State.putCore_out : (s.putCore x).out = s.out := rfl
@[simp] theorem State.putCore_agenda : (s.putCore x).agenda = s.agenda := rfl
@[simp] theorem State.putCore_cur : (s.putCore x).cur = s.cur := rfl
@[simp] theorem State.putCore_free : (s.putCore x).free = s.free := rfl
end

section
variable (s : State) (x : Workgroup)
@[simp] theorem State.putWg_bootStage : (s.putWg x).bootStage = s.bootStage := rfl
@[simp] theorem State.putWg_booting : (s.putWg x).booting = s.booting := rfl
@[simp] theorem State.putWg_bootSlot : (s.putWg x).bootSlot = s.bootSlot := rfl
@[simp] theorem State.putWg_bootDies : (s.putWg x).bootDies = s.bootDies := rfl
@[simp] theorem State.putWg_pkg : (s.putWg x).pkg = s.pkg := rfl
@[simp] theorem State.putWg_idSet : (s.putWg x).idSet = s.idSet := rfl
@[simp] theorem State.putWg_ctxMade : (s.putWg x).ctxMade = s.ctxMade := rfl
@[simp] theorem State.putWg_power : (s.putWg x).power = s.power := rfl
@[simp] theorem State.putWg_cores : (s.putWg x).cores = s.cores := rfl
@[simp] theorem State.putWg_absent : (s.putWg x).absent = s.absent := rfl
@[simp] theorem State.putWg_spares : (s.putWg x).spares = s.spares := rfl
@[simp] theorem State.putWg_fwCores : (s.putWg x).fwCores = s.fwCores := rfl
@[simp] theorem State.putWg_regions : (s.putWg x).regions = s.regions := rfl
@[simp] theorem State.putWg_dram : (s.putWg x).dram = s.dram := rfl
@[simp] theorem State.putWg_hostMem : (s.putWg x).hostMem = s.hostMem := rfl
@[simp] theorem State.putWg_bad : (s.putWg x).bad = s.bad := rfl
@[simp] theorem State.putWg_memCe : (s.putWg x).memCe = s.memCe := rfl
@[simp] theorem State.putWg_memUe : (s.putWg x).memUe = s.memUe := rfl
@[simp] theorem State.putWg_featGen : (s.putWg x).featGen = s.featGen := rfl
@[simp] theorem State.putWg_version : (s.putWg x).version = s.version := rfl
@[simp] theorem State.putWg_stokers : (s.putWg x).stokers = s.stokers := rfl
@[simp] theorem State.putWg_contexts : (s.putWg x).contexts = s.contexts := rfl
@[simp] theorem State.putWg_reqBytes : (s.putWg x).reqBytes = s.reqBytes := rfl
@[simp] theorem State.putWg_queues : (s.putWg x).queues = s.queues := rfl
@[simp] theorem State.putWg_nodes : (s.putWg x).nodes = s.nodes := rfl
@[simp] theorem State.putWg_wgs : (s.putWg x).wgs = putBy Workgroup.uid x s.wgs := rfl
@[simp] theorem State.putWg_ops : (s.putWg x).ops = s.ops := rfl
@[simp] theorem State.putWg_stale : (s.putWg x).stale = s.stale := rfl
@[simp] theorem State.putWg_objects : (s.putWg x).objects = s.objects := rfl
@[simp] theorem State.putWg_dir : (s.putWg x).dir = s.dir := rfl
@[simp] theorem State.putWg_codePages : (s.putWg x).codePages = s.codePages := rfl
@[simp] theorem State.putWg_quarantined : (s.putWg x).quarantined = s.quarantined := rfl
@[simp] theorem State.putWg_dieTlb : (s.putWg x).dieTlb = s.dieTlb := rfl
@[simp] theorem State.putWg_misses : (s.putWg x).misses = s.misses := rfl
@[simp] theorem State.putWg_lastServed : (s.putWg x).lastServed = s.lastServed := rfl
@[simp] theorem State.putWg_nextStamp : (s.putWg x).nextStamp = s.nextStamp := rfl
@[simp] theorem State.putWg_nextId : (s.putWg x).nextId = s.nextId := rfl
@[simp] theorem State.putWg_lastFirstDie : (s.putWg x).lastFirstDie = s.lastFirstDie := rfl
@[simp] theorem State.putWg_passDue : (s.putWg x).passDue = s.passDue := rfl
@[simp] theorem State.putWg_pkgOver : (s.putWg x).pkgOver = s.pkgOver := rfl
@[simp] theorem State.putWg_thermal : (s.putWg x).thermal = s.thermal := rfl
@[simp] theorem State.putWg_ports : (s.putWg x).ports = s.ports := rfl
@[simp] theorem State.putWg_peers : (s.putWg x).peers = s.peers := rfl
@[simp] theorem State.putWg_slot : (s.putWg x).slot = s.slot := rfl
@[simp] theorem State.putWg_cycle : (s.putWg x).cycle = s.cycle := rfl
@[simp] theorem State.putWg_trained : (s.putWg x).trained = s.trained := rfl
@[simp] theorem State.putWg_sendStore : (s.putWg x).sendStore = s.sendStore := rfl
@[simp] theorem State.putWg_relayStore : (s.putWg x).relayStore = s.relayStore := rfl
@[simp] theorem State.putWg_homeWaits : (s.putWg x).homeWaits = s.homeWaits := rfl
@[simp] theorem State.putWg_barWaits : (s.putWg x).barWaits = s.barWaits := rfl
@[simp] theorem State.putWg_barLinks : (s.putWg x).barLinks = s.barLinks := rfl
@[simp] theorem State.putWg_arrivals : (s.putWg x).arrivals = s.arrivals := rfl
@[simp] theorem State.putWg_heldReqs : (s.putWg x).heldReqs = s.heldReqs := rfl
@[simp] theorem State.putWg_owed : (s.putWg x).owed = s.owed := rfl
@[simp] theorem State.putWg_authF : (s.putWg x).authF = s.authF := rfl
@[simp] theorem State.putWg_rlyUe : (s.putWg x).rlyUe = s.rlyUe := rfl
@[simp] theorem State.putWg_badPkt : (s.putWg x).badPkt = s.badPkt := rfl
@[simp] theorem State.putWg_keyTmo : (s.putWg x).keyTmo = s.keyTmo := rfl
@[simp] theorem State.putWg_cc : (s.putWg x).cc = s.cc := rfl
@[simp] theorem State.putWg_tai : (s.putWg x).tai = s.tai := rfl
@[simp] theorem State.putWg_clockMode : (s.putWg x).clockMode = s.clockMode := rfl
@[simp] theorem State.putWg_holdSince : (s.putWg x).holdSince = s.holdSince := rfl
@[simp] theorem State.putWg_slew : (s.putWg x).slew = s.slew := rfl
@[simp] theorem State.putWg_retiring : (s.putWg x).retiring = s.retiring := rfl
@[simp] theorem State.putWg_recovering : (s.putWg x).recovering = s.recovering := rfl
@[simp] theorem State.putWg_held : (s.putWg x).held = s.held := rfl
@[simp] theorem State.putWg_out : (s.putWg x).out = s.out := rfl
@[simp] theorem State.putWg_agenda : (s.putWg x).agenda = s.agenda := rfl
@[simp] theorem State.putWg_cur : (s.putWg x).cur = s.cur := rfl
@[simp] theorem State.putWg_free : (s.putWg x).free = s.free := rfl
end

section
variable (s : State) (x : Op)
@[simp] theorem State.putOp_bootStage : (s.putOp x).bootStage = s.bootStage := rfl
@[simp] theorem State.putOp_booting : (s.putOp x).booting = s.booting := rfl
@[simp] theorem State.putOp_bootSlot : (s.putOp x).bootSlot = s.bootSlot := rfl
@[simp] theorem State.putOp_bootDies : (s.putOp x).bootDies = s.bootDies := rfl
@[simp] theorem State.putOp_pkg : (s.putOp x).pkg = s.pkg := rfl
@[simp] theorem State.putOp_idSet : (s.putOp x).idSet = s.idSet := rfl
@[simp] theorem State.putOp_ctxMade : (s.putOp x).ctxMade = s.ctxMade := rfl
@[simp] theorem State.putOp_power : (s.putOp x).power = s.power := rfl
@[simp] theorem State.putOp_cores : (s.putOp x).cores = s.cores := rfl
@[simp] theorem State.putOp_absent : (s.putOp x).absent = s.absent := rfl
@[simp] theorem State.putOp_spares : (s.putOp x).spares = s.spares := rfl
@[simp] theorem State.putOp_fwCores : (s.putOp x).fwCores = s.fwCores := rfl
@[simp] theorem State.putOp_regions : (s.putOp x).regions = s.regions := rfl
@[simp] theorem State.putOp_dram : (s.putOp x).dram = s.dram := rfl
@[simp] theorem State.putOp_hostMem : (s.putOp x).hostMem = s.hostMem := rfl
@[simp] theorem State.putOp_bad : (s.putOp x).bad = s.bad := rfl
@[simp] theorem State.putOp_memCe : (s.putOp x).memCe = s.memCe := rfl
@[simp] theorem State.putOp_memUe : (s.putOp x).memUe = s.memUe := rfl
@[simp] theorem State.putOp_featGen : (s.putOp x).featGen = s.featGen := rfl
@[simp] theorem State.putOp_version : (s.putOp x).version = s.version := rfl
@[simp] theorem State.putOp_stokers : (s.putOp x).stokers = s.stokers := rfl
@[simp] theorem State.putOp_contexts : (s.putOp x).contexts = s.contexts := rfl
@[simp] theorem State.putOp_reqBytes : (s.putOp x).reqBytes = s.reqBytes := rfl
@[simp] theorem State.putOp_queues : (s.putOp x).queues = s.queues := rfl
@[simp] theorem State.putOp_nodes : (s.putOp x).nodes = s.nodes := rfl
@[simp] theorem State.putOp_wgs : (s.putOp x).wgs = s.wgs := rfl
@[simp] theorem State.putOp_ops : (s.putOp x).ops = putBy Op.id x s.ops := rfl
@[simp] theorem State.putOp_stale : (s.putOp x).stale = s.stale := rfl
@[simp] theorem State.putOp_objects : (s.putOp x).objects = s.objects := rfl
@[simp] theorem State.putOp_dir : (s.putOp x).dir = s.dir := rfl
@[simp] theorem State.putOp_codePages : (s.putOp x).codePages = s.codePages := rfl
@[simp] theorem State.putOp_quarantined : (s.putOp x).quarantined = s.quarantined := rfl
@[simp] theorem State.putOp_dieTlb : (s.putOp x).dieTlb = s.dieTlb := rfl
@[simp] theorem State.putOp_misses : (s.putOp x).misses = s.misses := rfl
@[simp] theorem State.putOp_lastServed : (s.putOp x).lastServed = s.lastServed := rfl
@[simp] theorem State.putOp_nextStamp : (s.putOp x).nextStamp = s.nextStamp := rfl
@[simp] theorem State.putOp_nextId : (s.putOp x).nextId = s.nextId := rfl
@[simp] theorem State.putOp_lastFirstDie : (s.putOp x).lastFirstDie = s.lastFirstDie := rfl
@[simp] theorem State.putOp_passDue : (s.putOp x).passDue = s.passDue := rfl
@[simp] theorem State.putOp_pkgOver : (s.putOp x).pkgOver = s.pkgOver := rfl
@[simp] theorem State.putOp_thermal : (s.putOp x).thermal = s.thermal := rfl
@[simp] theorem State.putOp_ports : (s.putOp x).ports = s.ports := rfl
@[simp] theorem State.putOp_peers : (s.putOp x).peers = s.peers := rfl
@[simp] theorem State.putOp_slot : (s.putOp x).slot = s.slot := rfl
@[simp] theorem State.putOp_cycle : (s.putOp x).cycle = s.cycle := rfl
@[simp] theorem State.putOp_trained : (s.putOp x).trained = s.trained := rfl
@[simp] theorem State.putOp_sendStore : (s.putOp x).sendStore = s.sendStore := rfl
@[simp] theorem State.putOp_relayStore : (s.putOp x).relayStore = s.relayStore := rfl
@[simp] theorem State.putOp_homeWaits : (s.putOp x).homeWaits = s.homeWaits := rfl
@[simp] theorem State.putOp_barWaits : (s.putOp x).barWaits = s.barWaits := rfl
@[simp] theorem State.putOp_barLinks : (s.putOp x).barLinks = s.barLinks := rfl
@[simp] theorem State.putOp_arrivals : (s.putOp x).arrivals = s.arrivals := rfl
@[simp] theorem State.putOp_heldReqs : (s.putOp x).heldReqs = s.heldReqs := rfl
@[simp] theorem State.putOp_owed : (s.putOp x).owed = s.owed := rfl
@[simp] theorem State.putOp_authF : (s.putOp x).authF = s.authF := rfl
@[simp] theorem State.putOp_rlyUe : (s.putOp x).rlyUe = s.rlyUe := rfl
@[simp] theorem State.putOp_badPkt : (s.putOp x).badPkt = s.badPkt := rfl
@[simp] theorem State.putOp_keyTmo : (s.putOp x).keyTmo = s.keyTmo := rfl
@[simp] theorem State.putOp_cc : (s.putOp x).cc = s.cc := rfl
@[simp] theorem State.putOp_tai : (s.putOp x).tai = s.tai := rfl
@[simp] theorem State.putOp_clockMode : (s.putOp x).clockMode = s.clockMode := rfl
@[simp] theorem State.putOp_holdSince : (s.putOp x).holdSince = s.holdSince := rfl
@[simp] theorem State.putOp_slew : (s.putOp x).slew = s.slew := rfl
@[simp] theorem State.putOp_retiring : (s.putOp x).retiring = s.retiring := rfl
@[simp] theorem State.putOp_recovering : (s.putOp x).recovering = s.recovering := rfl
@[simp] theorem State.putOp_held : (s.putOp x).held = s.held := rfl
@[simp] theorem State.putOp_out : (s.putOp x).out = s.out := rfl
@[simp] theorem State.putOp_agenda : (s.putOp x).agenda = s.agenda := rfl
@[simp] theorem State.putOp_cur : (s.putOp x).cur = s.cur := rfl
@[simp] theorem State.putOp_free : (s.putOp x).free = s.free := rfl
end

section
variable (s : State) (x : Queue)
@[simp] theorem State.putQueue_bootStage : (s.putQueue x).bootStage = s.bootStage := rfl
@[simp] theorem State.putQueue_booting : (s.putQueue x).booting = s.booting := rfl
@[simp] theorem State.putQueue_bootSlot : (s.putQueue x).bootSlot = s.bootSlot := rfl
@[simp] theorem State.putQueue_bootDies : (s.putQueue x).bootDies = s.bootDies := rfl
@[simp] theorem State.putQueue_pkg : (s.putQueue x).pkg = s.pkg := rfl
@[simp] theorem State.putQueue_idSet : (s.putQueue x).idSet = s.idSet := rfl
@[simp] theorem State.putQueue_ctxMade : (s.putQueue x).ctxMade = s.ctxMade := rfl
@[simp] theorem State.putQueue_power : (s.putQueue x).power = s.power := rfl
@[simp] theorem State.putQueue_cores : (s.putQueue x).cores = s.cores := rfl
@[simp] theorem State.putQueue_absent : (s.putQueue x).absent = s.absent := rfl
@[simp] theorem State.putQueue_spares : (s.putQueue x).spares = s.spares := rfl
@[simp] theorem State.putQueue_fwCores : (s.putQueue x).fwCores = s.fwCores := rfl
@[simp] theorem State.putQueue_regions : (s.putQueue x).regions = s.regions := rfl
@[simp] theorem State.putQueue_dram : (s.putQueue x).dram = s.dram := rfl
@[simp] theorem State.putQueue_hostMem : (s.putQueue x).hostMem = s.hostMem := rfl
@[simp] theorem State.putQueue_bad : (s.putQueue x).bad = s.bad := rfl
@[simp] theorem State.putQueue_memCe : (s.putQueue x).memCe = s.memCe := rfl
@[simp] theorem State.putQueue_memUe : (s.putQueue x).memUe = s.memUe := rfl
@[simp] theorem State.putQueue_featGen : (s.putQueue x).featGen = s.featGen := rfl
@[simp] theorem State.putQueue_version : (s.putQueue x).version = s.version := rfl
@[simp] theorem State.putQueue_stokers : (s.putQueue x).stokers = s.stokers := rfl
@[simp] theorem State.putQueue_contexts : (s.putQueue x).contexts = s.contexts := rfl
@[simp] theorem State.putQueue_reqBytes : (s.putQueue x).reqBytes = s.reqBytes := rfl
@[simp] theorem State.putQueue_queues : (s.putQueue x).queues = putBy Queue.id x s.queues := rfl
@[simp] theorem State.putQueue_nodes : (s.putQueue x).nodes = s.nodes := rfl
@[simp] theorem State.putQueue_wgs : (s.putQueue x).wgs = s.wgs := rfl
@[simp] theorem State.putQueue_ops : (s.putQueue x).ops = s.ops := rfl
@[simp] theorem State.putQueue_stale : (s.putQueue x).stale = s.stale := rfl
@[simp] theorem State.putQueue_objects : (s.putQueue x).objects = s.objects := rfl
@[simp] theorem State.putQueue_dir : (s.putQueue x).dir = s.dir := rfl
@[simp] theorem State.putQueue_codePages : (s.putQueue x).codePages = s.codePages := rfl
@[simp] theorem State.putQueue_quarantined : (s.putQueue x).quarantined = s.quarantined := rfl
@[simp] theorem State.putQueue_dieTlb : (s.putQueue x).dieTlb = s.dieTlb := rfl
@[simp] theorem State.putQueue_misses : (s.putQueue x).misses = s.misses := rfl
@[simp] theorem State.putQueue_lastServed : (s.putQueue x).lastServed = s.lastServed := rfl
@[simp] theorem State.putQueue_nextStamp : (s.putQueue x).nextStamp = s.nextStamp := rfl
@[simp] theorem State.putQueue_nextId : (s.putQueue x).nextId = s.nextId := rfl
@[simp] theorem State.putQueue_lastFirstDie : (s.putQueue x).lastFirstDie = s.lastFirstDie := rfl
@[simp] theorem State.putQueue_passDue : (s.putQueue x).passDue = s.passDue := rfl
@[simp] theorem State.putQueue_pkgOver : (s.putQueue x).pkgOver = s.pkgOver := rfl
@[simp] theorem State.putQueue_thermal : (s.putQueue x).thermal = s.thermal := rfl
@[simp] theorem State.putQueue_ports : (s.putQueue x).ports = s.ports := rfl
@[simp] theorem State.putQueue_peers : (s.putQueue x).peers = s.peers := rfl
@[simp] theorem State.putQueue_slot : (s.putQueue x).slot = s.slot := rfl
@[simp] theorem State.putQueue_cycle : (s.putQueue x).cycle = s.cycle := rfl
@[simp] theorem State.putQueue_trained : (s.putQueue x).trained = s.trained := rfl
@[simp] theorem State.putQueue_sendStore : (s.putQueue x).sendStore = s.sendStore := rfl
@[simp] theorem State.putQueue_relayStore : (s.putQueue x).relayStore = s.relayStore := rfl
@[simp] theorem State.putQueue_homeWaits : (s.putQueue x).homeWaits = s.homeWaits := rfl
@[simp] theorem State.putQueue_barWaits : (s.putQueue x).barWaits = s.barWaits := rfl
@[simp] theorem State.putQueue_barLinks : (s.putQueue x).barLinks = s.barLinks := rfl
@[simp] theorem State.putQueue_arrivals : (s.putQueue x).arrivals = s.arrivals := rfl
@[simp] theorem State.putQueue_heldReqs : (s.putQueue x).heldReqs = s.heldReqs := rfl
@[simp] theorem State.putQueue_owed : (s.putQueue x).owed = s.owed := rfl
@[simp] theorem State.putQueue_authF : (s.putQueue x).authF = s.authF := rfl
@[simp] theorem State.putQueue_rlyUe : (s.putQueue x).rlyUe = s.rlyUe := rfl
@[simp] theorem State.putQueue_badPkt : (s.putQueue x).badPkt = s.badPkt := rfl
@[simp] theorem State.putQueue_keyTmo : (s.putQueue x).keyTmo = s.keyTmo := rfl
@[simp] theorem State.putQueue_cc : (s.putQueue x).cc = s.cc := rfl
@[simp] theorem State.putQueue_tai : (s.putQueue x).tai = s.tai := rfl
@[simp] theorem State.putQueue_clockMode : (s.putQueue x).clockMode = s.clockMode := rfl
@[simp] theorem State.putQueue_holdSince : (s.putQueue x).holdSince = s.holdSince := rfl
@[simp] theorem State.putQueue_slew : (s.putQueue x).slew = s.slew := rfl
@[simp] theorem State.putQueue_retiring : (s.putQueue x).retiring = s.retiring := rfl
@[simp] theorem State.putQueue_recovering : (s.putQueue x).recovering = s.recovering := rfl
@[simp] theorem State.putQueue_held : (s.putQueue x).held = s.held := rfl
@[simp] theorem State.putQueue_out : (s.putQueue x).out = s.out := rfl
@[simp] theorem State.putQueue_agenda : (s.putQueue x).agenda = s.agenda := rfl
@[simp] theorem State.putQueue_cur : (s.putQueue x).cur = s.cur := rfl
@[simp] theorem State.putQueue_free : (s.putQueue x).free = s.free := rfl
end

section
variable (s : State) (x : Node)
@[simp] theorem State.putNode_bootStage : (s.putNode x).bootStage = s.bootStage := rfl
@[simp] theorem State.putNode_booting : (s.putNode x).booting = s.booting := rfl
@[simp] theorem State.putNode_bootSlot : (s.putNode x).bootSlot = s.bootSlot := rfl
@[simp] theorem State.putNode_bootDies : (s.putNode x).bootDies = s.bootDies := rfl
@[simp] theorem State.putNode_pkg : (s.putNode x).pkg = s.pkg := rfl
@[simp] theorem State.putNode_idSet : (s.putNode x).idSet = s.idSet := rfl
@[simp] theorem State.putNode_ctxMade : (s.putNode x).ctxMade = s.ctxMade := rfl
@[simp] theorem State.putNode_power : (s.putNode x).power = s.power := rfl
@[simp] theorem State.putNode_cores : (s.putNode x).cores = s.cores := rfl
@[simp] theorem State.putNode_absent : (s.putNode x).absent = s.absent := rfl
@[simp] theorem State.putNode_spares : (s.putNode x).spares = s.spares := rfl
@[simp] theorem State.putNode_fwCores : (s.putNode x).fwCores = s.fwCores := rfl
@[simp] theorem State.putNode_regions : (s.putNode x).regions = s.regions := rfl
@[simp] theorem State.putNode_dram : (s.putNode x).dram = s.dram := rfl
@[simp] theorem State.putNode_hostMem : (s.putNode x).hostMem = s.hostMem := rfl
@[simp] theorem State.putNode_bad : (s.putNode x).bad = s.bad := rfl
@[simp] theorem State.putNode_memCe : (s.putNode x).memCe = s.memCe := rfl
@[simp] theorem State.putNode_memUe : (s.putNode x).memUe = s.memUe := rfl
@[simp] theorem State.putNode_featGen : (s.putNode x).featGen = s.featGen := rfl
@[simp] theorem State.putNode_version : (s.putNode x).version = s.version := rfl
@[simp] theorem State.putNode_stokers : (s.putNode x).stokers = s.stokers := rfl
@[simp] theorem State.putNode_contexts : (s.putNode x).contexts = s.contexts := rfl
@[simp] theorem State.putNode_reqBytes : (s.putNode x).reqBytes = s.reqBytes := rfl
@[simp] theorem State.putNode_queues : (s.putNode x).queues = s.queues := rfl
@[simp] theorem State.putNode_nodes : (s.putNode x).nodes = putBy Node.id x s.nodes := rfl
@[simp] theorem State.putNode_wgs : (s.putNode x).wgs = s.wgs := rfl
@[simp] theorem State.putNode_ops : (s.putNode x).ops = s.ops := rfl
@[simp] theorem State.putNode_stale : (s.putNode x).stale = s.stale := rfl
@[simp] theorem State.putNode_objects : (s.putNode x).objects = s.objects := rfl
@[simp] theorem State.putNode_dir : (s.putNode x).dir = s.dir := rfl
@[simp] theorem State.putNode_codePages : (s.putNode x).codePages = s.codePages := rfl
@[simp] theorem State.putNode_quarantined : (s.putNode x).quarantined = s.quarantined := rfl
@[simp] theorem State.putNode_dieTlb : (s.putNode x).dieTlb = s.dieTlb := rfl
@[simp] theorem State.putNode_misses : (s.putNode x).misses = s.misses := rfl
@[simp] theorem State.putNode_lastServed : (s.putNode x).lastServed = s.lastServed := rfl
@[simp] theorem State.putNode_nextStamp : (s.putNode x).nextStamp = s.nextStamp := rfl
@[simp] theorem State.putNode_nextId : (s.putNode x).nextId = s.nextId := rfl
@[simp] theorem State.putNode_lastFirstDie : (s.putNode x).lastFirstDie = s.lastFirstDie := rfl
@[simp] theorem State.putNode_passDue : (s.putNode x).passDue = s.passDue := rfl
@[simp] theorem State.putNode_pkgOver : (s.putNode x).pkgOver = s.pkgOver := rfl
@[simp] theorem State.putNode_thermal : (s.putNode x).thermal = s.thermal := rfl
@[simp] theorem State.putNode_ports : (s.putNode x).ports = s.ports := rfl
@[simp] theorem State.putNode_peers : (s.putNode x).peers = s.peers := rfl
@[simp] theorem State.putNode_slot : (s.putNode x).slot = s.slot := rfl
@[simp] theorem State.putNode_cycle : (s.putNode x).cycle = s.cycle := rfl
@[simp] theorem State.putNode_trained : (s.putNode x).trained = s.trained := rfl
@[simp] theorem State.putNode_sendStore : (s.putNode x).sendStore = s.sendStore := rfl
@[simp] theorem State.putNode_relayStore : (s.putNode x).relayStore = s.relayStore := rfl
@[simp] theorem State.putNode_homeWaits : (s.putNode x).homeWaits = s.homeWaits := rfl
@[simp] theorem State.putNode_barWaits : (s.putNode x).barWaits = s.barWaits := rfl
@[simp] theorem State.putNode_barLinks : (s.putNode x).barLinks = s.barLinks := rfl
@[simp] theorem State.putNode_arrivals : (s.putNode x).arrivals = s.arrivals := rfl
@[simp] theorem State.putNode_heldReqs : (s.putNode x).heldReqs = s.heldReqs := rfl
@[simp] theorem State.putNode_owed : (s.putNode x).owed = s.owed := rfl
@[simp] theorem State.putNode_authF : (s.putNode x).authF = s.authF := rfl
@[simp] theorem State.putNode_rlyUe : (s.putNode x).rlyUe = s.rlyUe := rfl
@[simp] theorem State.putNode_badPkt : (s.putNode x).badPkt = s.badPkt := rfl
@[simp] theorem State.putNode_keyTmo : (s.putNode x).keyTmo = s.keyTmo := rfl
@[simp] theorem State.putNode_cc : (s.putNode x).cc = s.cc := rfl
@[simp] theorem State.putNode_tai : (s.putNode x).tai = s.tai := rfl
@[simp] theorem State.putNode_clockMode : (s.putNode x).clockMode = s.clockMode := rfl
@[simp] theorem State.putNode_holdSince : (s.putNode x).holdSince = s.holdSince := rfl
@[simp] theorem State.putNode_slew : (s.putNode x).slew = s.slew := rfl
@[simp] theorem State.putNode_retiring : (s.putNode x).retiring = s.retiring := rfl
@[simp] theorem State.putNode_recovering : (s.putNode x).recovering = s.recovering := rfl
@[simp] theorem State.putNode_held : (s.putNode x).held = s.held := rfl
@[simp] theorem State.putNode_out : (s.putNode x).out = s.out := rfl
@[simp] theorem State.putNode_agenda : (s.putNode x).agenda = s.agenda := rfl
@[simp] theorem State.putNode_cur : (s.putNode x).cur = s.cur := rfl
@[simp] theorem State.putNode_free : (s.putNode x).free = s.free := rfl
end

section
variable (s : State) (x : CodeObj)
@[simp] theorem State.putObj_bootStage : (s.putObj x).bootStage = s.bootStage := rfl
@[simp] theorem State.putObj_booting : (s.putObj x).booting = s.booting := rfl
@[simp] theorem State.putObj_bootSlot : (s.putObj x).bootSlot = s.bootSlot := rfl
@[simp] theorem State.putObj_bootDies : (s.putObj x).bootDies = s.bootDies := rfl
@[simp] theorem State.putObj_pkg : (s.putObj x).pkg = s.pkg := rfl
@[simp] theorem State.putObj_idSet : (s.putObj x).idSet = s.idSet := rfl
@[simp] theorem State.putObj_ctxMade : (s.putObj x).ctxMade = s.ctxMade := rfl
@[simp] theorem State.putObj_power : (s.putObj x).power = s.power := rfl
@[simp] theorem State.putObj_cores : (s.putObj x).cores = s.cores := rfl
@[simp] theorem State.putObj_absent : (s.putObj x).absent = s.absent := rfl
@[simp] theorem State.putObj_spares : (s.putObj x).spares = s.spares := rfl
@[simp] theorem State.putObj_fwCores : (s.putObj x).fwCores = s.fwCores := rfl
@[simp] theorem State.putObj_regions : (s.putObj x).regions = s.regions := rfl
@[simp] theorem State.putObj_dram : (s.putObj x).dram = s.dram := rfl
@[simp] theorem State.putObj_hostMem : (s.putObj x).hostMem = s.hostMem := rfl
@[simp] theorem State.putObj_bad : (s.putObj x).bad = s.bad := rfl
@[simp] theorem State.putObj_memCe : (s.putObj x).memCe = s.memCe := rfl
@[simp] theorem State.putObj_memUe : (s.putObj x).memUe = s.memUe := rfl
@[simp] theorem State.putObj_featGen : (s.putObj x).featGen = s.featGen := rfl
@[simp] theorem State.putObj_version : (s.putObj x).version = s.version := rfl
@[simp] theorem State.putObj_stokers : (s.putObj x).stokers = s.stokers := rfl
@[simp] theorem State.putObj_contexts : (s.putObj x).contexts = s.contexts := rfl
@[simp] theorem State.putObj_reqBytes : (s.putObj x).reqBytes = s.reqBytes := rfl
@[simp] theorem State.putObj_queues : (s.putObj x).queues = s.queues := rfl
@[simp] theorem State.putObj_nodes : (s.putObj x).nodes = s.nodes := rfl
@[simp] theorem State.putObj_wgs : (s.putObj x).wgs = s.wgs := rfl
@[simp] theorem State.putObj_ops : (s.putObj x).ops = s.ops := rfl
@[simp] theorem State.putObj_stale : (s.putObj x).stale = s.stale := rfl
@[simp] theorem State.putObj_objects : (s.putObj x).objects = putBy CodeObj.handle x s.objects := rfl
@[simp] theorem State.putObj_dir : (s.putObj x).dir = s.dir := rfl
@[simp] theorem State.putObj_codePages : (s.putObj x).codePages = s.codePages := rfl
@[simp] theorem State.putObj_quarantined : (s.putObj x).quarantined = s.quarantined := rfl
@[simp] theorem State.putObj_dieTlb : (s.putObj x).dieTlb = s.dieTlb := rfl
@[simp] theorem State.putObj_misses : (s.putObj x).misses = s.misses := rfl
@[simp] theorem State.putObj_lastServed : (s.putObj x).lastServed = s.lastServed := rfl
@[simp] theorem State.putObj_nextStamp : (s.putObj x).nextStamp = s.nextStamp := rfl
@[simp] theorem State.putObj_nextId : (s.putObj x).nextId = s.nextId := rfl
@[simp] theorem State.putObj_lastFirstDie : (s.putObj x).lastFirstDie = s.lastFirstDie := rfl
@[simp] theorem State.putObj_passDue : (s.putObj x).passDue = s.passDue := rfl
@[simp] theorem State.putObj_pkgOver : (s.putObj x).pkgOver = s.pkgOver := rfl
@[simp] theorem State.putObj_thermal : (s.putObj x).thermal = s.thermal := rfl
@[simp] theorem State.putObj_ports : (s.putObj x).ports = s.ports := rfl
@[simp] theorem State.putObj_peers : (s.putObj x).peers = s.peers := rfl
@[simp] theorem State.putObj_slot : (s.putObj x).slot = s.slot := rfl
@[simp] theorem State.putObj_cycle : (s.putObj x).cycle = s.cycle := rfl
@[simp] theorem State.putObj_trained : (s.putObj x).trained = s.trained := rfl
@[simp] theorem State.putObj_sendStore : (s.putObj x).sendStore = s.sendStore := rfl
@[simp] theorem State.putObj_relayStore : (s.putObj x).relayStore = s.relayStore := rfl
@[simp] theorem State.putObj_homeWaits : (s.putObj x).homeWaits = s.homeWaits := rfl
@[simp] theorem State.putObj_barWaits : (s.putObj x).barWaits = s.barWaits := rfl
@[simp] theorem State.putObj_barLinks : (s.putObj x).barLinks = s.barLinks := rfl
@[simp] theorem State.putObj_arrivals : (s.putObj x).arrivals = s.arrivals := rfl
@[simp] theorem State.putObj_heldReqs : (s.putObj x).heldReqs = s.heldReqs := rfl
@[simp] theorem State.putObj_owed : (s.putObj x).owed = s.owed := rfl
@[simp] theorem State.putObj_authF : (s.putObj x).authF = s.authF := rfl
@[simp] theorem State.putObj_rlyUe : (s.putObj x).rlyUe = s.rlyUe := rfl
@[simp] theorem State.putObj_badPkt : (s.putObj x).badPkt = s.badPkt := rfl
@[simp] theorem State.putObj_keyTmo : (s.putObj x).keyTmo = s.keyTmo := rfl
@[simp] theorem State.putObj_cc : (s.putObj x).cc = s.cc := rfl
@[simp] theorem State.putObj_tai : (s.putObj x).tai = s.tai := rfl
@[simp] theorem State.putObj_clockMode : (s.putObj x).clockMode = s.clockMode := rfl
@[simp] theorem State.putObj_holdSince : (s.putObj x).holdSince = s.holdSince := rfl
@[simp] theorem State.putObj_slew : (s.putObj x).slew = s.slew := rfl
@[simp] theorem State.putObj_retiring : (s.putObj x).retiring = s.retiring := rfl
@[simp] theorem State.putObj_recovering : (s.putObj x).recovering = s.recovering := rfl
@[simp] theorem State.putObj_held : (s.putObj x).held = s.held := rfl
@[simp] theorem State.putObj_out : (s.putObj x).out = s.out := rfl
@[simp] theorem State.putObj_agenda : (s.putObj x).agenda = s.agenda := rfl
@[simp] theorem State.putObj_cur : (s.putObj x).cur = s.cur := rfl
@[simp] theorem State.putObj_free : (s.putObj x).free = s.free := rfl
end

section
variable (s : State) (x : DirEntry)
@[simp] theorem State.putDir_bootStage : (s.putDir x).bootStage = s.bootStage := rfl
@[simp] theorem State.putDir_booting : (s.putDir x).booting = s.booting := rfl
@[simp] theorem State.putDir_bootSlot : (s.putDir x).bootSlot = s.bootSlot := rfl
@[simp] theorem State.putDir_bootDies : (s.putDir x).bootDies = s.bootDies := rfl
@[simp] theorem State.putDir_pkg : (s.putDir x).pkg = s.pkg := rfl
@[simp] theorem State.putDir_idSet : (s.putDir x).idSet = s.idSet := rfl
@[simp] theorem State.putDir_ctxMade : (s.putDir x).ctxMade = s.ctxMade := rfl
@[simp] theorem State.putDir_power : (s.putDir x).power = s.power := rfl
@[simp] theorem State.putDir_cores : (s.putDir x).cores = s.cores := rfl
@[simp] theorem State.putDir_absent : (s.putDir x).absent = s.absent := rfl
@[simp] theorem State.putDir_spares : (s.putDir x).spares = s.spares := rfl
@[simp] theorem State.putDir_fwCores : (s.putDir x).fwCores = s.fwCores := rfl
@[simp] theorem State.putDir_regions : (s.putDir x).regions = s.regions := rfl
@[simp] theorem State.putDir_dram : (s.putDir x).dram = s.dram := rfl
@[simp] theorem State.putDir_hostMem : (s.putDir x).hostMem = s.hostMem := rfl
@[simp] theorem State.putDir_bad : (s.putDir x).bad = s.bad := rfl
@[simp] theorem State.putDir_memCe : (s.putDir x).memCe = s.memCe := rfl
@[simp] theorem State.putDir_memUe : (s.putDir x).memUe = s.memUe := rfl
@[simp] theorem State.putDir_featGen : (s.putDir x).featGen = s.featGen := rfl
@[simp] theorem State.putDir_version : (s.putDir x).version = s.version := rfl
@[simp] theorem State.putDir_stokers : (s.putDir x).stokers = s.stokers := rfl
@[simp] theorem State.putDir_contexts : (s.putDir x).contexts = s.contexts := rfl
@[simp] theorem State.putDir_reqBytes : (s.putDir x).reqBytes = s.reqBytes := rfl
@[simp] theorem State.putDir_queues : (s.putDir x).queues = s.queues := rfl
@[simp] theorem State.putDir_nodes : (s.putDir x).nodes = s.nodes := rfl
@[simp] theorem State.putDir_wgs : (s.putDir x).wgs = s.wgs := rfl
@[simp] theorem State.putDir_ops : (s.putDir x).ops = s.ops := rfl
@[simp] theorem State.putDir_stale : (s.putDir x).stale = s.stale := rfl
@[simp] theorem State.putDir_objects : (s.putDir x).objects = s.objects := rfl
@[simp] theorem State.putDir_dir : (s.putDir x).dir = putBy DirEntry.id x s.dir := rfl
@[simp] theorem State.putDir_codePages : (s.putDir x).codePages = s.codePages := rfl
@[simp] theorem State.putDir_quarantined : (s.putDir x).quarantined = s.quarantined := rfl
@[simp] theorem State.putDir_dieTlb : (s.putDir x).dieTlb = s.dieTlb := rfl
@[simp] theorem State.putDir_misses : (s.putDir x).misses = s.misses := rfl
@[simp] theorem State.putDir_lastServed : (s.putDir x).lastServed = s.lastServed := rfl
@[simp] theorem State.putDir_nextStamp : (s.putDir x).nextStamp = s.nextStamp := rfl
@[simp] theorem State.putDir_nextId : (s.putDir x).nextId = s.nextId := rfl
@[simp] theorem State.putDir_lastFirstDie : (s.putDir x).lastFirstDie = s.lastFirstDie := rfl
@[simp] theorem State.putDir_passDue : (s.putDir x).passDue = s.passDue := rfl
@[simp] theorem State.putDir_pkgOver : (s.putDir x).pkgOver = s.pkgOver := rfl
@[simp] theorem State.putDir_thermal : (s.putDir x).thermal = s.thermal := rfl
@[simp] theorem State.putDir_ports : (s.putDir x).ports = s.ports := rfl
@[simp] theorem State.putDir_peers : (s.putDir x).peers = s.peers := rfl
@[simp] theorem State.putDir_slot : (s.putDir x).slot = s.slot := rfl
@[simp] theorem State.putDir_cycle : (s.putDir x).cycle = s.cycle := rfl
@[simp] theorem State.putDir_trained : (s.putDir x).trained = s.trained := rfl
@[simp] theorem State.putDir_sendStore : (s.putDir x).sendStore = s.sendStore := rfl
@[simp] theorem State.putDir_relayStore : (s.putDir x).relayStore = s.relayStore := rfl
@[simp] theorem State.putDir_homeWaits : (s.putDir x).homeWaits = s.homeWaits := rfl
@[simp] theorem State.putDir_barWaits : (s.putDir x).barWaits = s.barWaits := rfl
@[simp] theorem State.putDir_barLinks : (s.putDir x).barLinks = s.barLinks := rfl
@[simp] theorem State.putDir_arrivals : (s.putDir x).arrivals = s.arrivals := rfl
@[simp] theorem State.putDir_heldReqs : (s.putDir x).heldReqs = s.heldReqs := rfl
@[simp] theorem State.putDir_owed : (s.putDir x).owed = s.owed := rfl
@[simp] theorem State.putDir_authF : (s.putDir x).authF = s.authF := rfl
@[simp] theorem State.putDir_rlyUe : (s.putDir x).rlyUe = s.rlyUe := rfl
@[simp] theorem State.putDir_badPkt : (s.putDir x).badPkt = s.badPkt := rfl
@[simp] theorem State.putDir_keyTmo : (s.putDir x).keyTmo = s.keyTmo := rfl
@[simp] theorem State.putDir_cc : (s.putDir x).cc = s.cc := rfl
@[simp] theorem State.putDir_tai : (s.putDir x).tai = s.tai := rfl
@[simp] theorem State.putDir_clockMode : (s.putDir x).clockMode = s.clockMode := rfl
@[simp] theorem State.putDir_holdSince : (s.putDir x).holdSince = s.holdSince := rfl
@[simp] theorem State.putDir_slew : (s.putDir x).slew = s.slew := rfl
@[simp] theorem State.putDir_retiring : (s.putDir x).retiring = s.retiring := rfl
@[simp] theorem State.putDir_recovering : (s.putDir x).recovering = s.recovering := rfl
@[simp] theorem State.putDir_held : (s.putDir x).held = s.held := rfl
@[simp] theorem State.putDir_out : (s.putDir x).out = s.out := rfl
@[simp] theorem State.putDir_agenda : (s.putDir x).agenda = s.agenda := rfl
@[simp] theorem State.putDir_cur : (s.putDir x).cur = s.cur := rfl
@[simp] theorem State.putDir_free : (s.putDir x).free = s.free := rfl
end

section
variable (s : State) (x : Output)
@[simp] theorem State.emit_bootStage : (s.emit x).bootStage = s.bootStage := rfl
@[simp] theorem State.emit_booting : (s.emit x).booting = s.booting := rfl
@[simp] theorem State.emit_bootSlot : (s.emit x).bootSlot = s.bootSlot := rfl
@[simp] theorem State.emit_bootDies : (s.emit x).bootDies = s.bootDies := rfl
@[simp] theorem State.emit_pkg : (s.emit x).pkg = s.pkg := rfl
@[simp] theorem State.emit_idSet : (s.emit x).idSet = s.idSet := rfl
@[simp] theorem State.emit_ctxMade : (s.emit x).ctxMade = s.ctxMade := rfl
@[simp] theorem State.emit_power : (s.emit x).power = s.power := rfl
@[simp] theorem State.emit_cores : (s.emit x).cores = s.cores := rfl
@[simp] theorem State.emit_absent : (s.emit x).absent = s.absent := rfl
@[simp] theorem State.emit_spares : (s.emit x).spares = s.spares := rfl
@[simp] theorem State.emit_fwCores : (s.emit x).fwCores = s.fwCores := rfl
@[simp] theorem State.emit_regions : (s.emit x).regions = s.regions := rfl
@[simp] theorem State.emit_dram : (s.emit x).dram = s.dram := rfl
@[simp] theorem State.emit_hostMem : (s.emit x).hostMem = s.hostMem := rfl
@[simp] theorem State.emit_bad : (s.emit x).bad = s.bad := rfl
@[simp] theorem State.emit_memCe : (s.emit x).memCe = s.memCe := rfl
@[simp] theorem State.emit_memUe : (s.emit x).memUe = s.memUe := rfl
@[simp] theorem State.emit_featGen : (s.emit x).featGen = s.featGen := rfl
@[simp] theorem State.emit_version : (s.emit x).version = s.version := rfl
@[simp] theorem State.emit_stokers : (s.emit x).stokers = s.stokers := rfl
@[simp] theorem State.emit_contexts : (s.emit x).contexts = s.contexts := rfl
@[simp] theorem State.emit_reqBytes : (s.emit x).reqBytes = s.reqBytes := rfl
@[simp] theorem State.emit_queues : (s.emit x).queues = s.queues := rfl
@[simp] theorem State.emit_nodes : (s.emit x).nodes = s.nodes := rfl
@[simp] theorem State.emit_wgs : (s.emit x).wgs = s.wgs := rfl
@[simp] theorem State.emit_ops : (s.emit x).ops = s.ops := rfl
@[simp] theorem State.emit_stale : (s.emit x).stale = s.stale := rfl
@[simp] theorem State.emit_objects : (s.emit x).objects = s.objects := rfl
@[simp] theorem State.emit_dir : (s.emit x).dir = s.dir := rfl
@[simp] theorem State.emit_codePages : (s.emit x).codePages = s.codePages := rfl
@[simp] theorem State.emit_quarantined : (s.emit x).quarantined = s.quarantined := rfl
@[simp] theorem State.emit_dieTlb : (s.emit x).dieTlb = s.dieTlb := rfl
@[simp] theorem State.emit_misses : (s.emit x).misses = s.misses := rfl
@[simp] theorem State.emit_lastServed : (s.emit x).lastServed = s.lastServed := rfl
@[simp] theorem State.emit_nextStamp : (s.emit x).nextStamp = s.nextStamp := rfl
@[simp] theorem State.emit_nextId : (s.emit x).nextId = s.nextId := rfl
@[simp] theorem State.emit_lastFirstDie : (s.emit x).lastFirstDie = s.lastFirstDie := rfl
@[simp] theorem State.emit_passDue : (s.emit x).passDue = s.passDue := rfl
@[simp] theorem State.emit_pkgOver : (s.emit x).pkgOver = s.pkgOver := rfl
@[simp] theorem State.emit_thermal : (s.emit x).thermal = s.thermal := rfl
@[simp] theorem State.emit_ports : (s.emit x).ports = s.ports := rfl
@[simp] theorem State.emit_peers : (s.emit x).peers = s.peers := rfl
@[simp] theorem State.emit_slot : (s.emit x).slot = s.slot := rfl
@[simp] theorem State.emit_cycle : (s.emit x).cycle = s.cycle := rfl
@[simp] theorem State.emit_trained : (s.emit x).trained = s.trained := rfl
@[simp] theorem State.emit_sendStore : (s.emit x).sendStore = s.sendStore := rfl
@[simp] theorem State.emit_relayStore : (s.emit x).relayStore = s.relayStore := rfl
@[simp] theorem State.emit_homeWaits : (s.emit x).homeWaits = s.homeWaits := rfl
@[simp] theorem State.emit_barWaits : (s.emit x).barWaits = s.barWaits := rfl
@[simp] theorem State.emit_barLinks : (s.emit x).barLinks = s.barLinks := rfl
@[simp] theorem State.emit_arrivals : (s.emit x).arrivals = s.arrivals := rfl
@[simp] theorem State.emit_heldReqs : (s.emit x).heldReqs = s.heldReqs := rfl
@[simp] theorem State.emit_owed : (s.emit x).owed = s.owed := rfl
@[simp] theorem State.emit_authF : (s.emit x).authF = s.authF := rfl
@[simp] theorem State.emit_rlyUe : (s.emit x).rlyUe = s.rlyUe := rfl
@[simp] theorem State.emit_badPkt : (s.emit x).badPkt = s.badPkt := rfl
@[simp] theorem State.emit_keyTmo : (s.emit x).keyTmo = s.keyTmo := rfl
@[simp] theorem State.emit_cc : (s.emit x).cc = s.cc := rfl
@[simp] theorem State.emit_tai : (s.emit x).tai = s.tai := rfl
@[simp] theorem State.emit_clockMode : (s.emit x).clockMode = s.clockMode := rfl
@[simp] theorem State.emit_holdSince : (s.emit x).holdSince = s.holdSince := rfl
@[simp] theorem State.emit_slew : (s.emit x).slew = s.slew := rfl
@[simp] theorem State.emit_retiring : (s.emit x).retiring = s.retiring := rfl
@[simp] theorem State.emit_recovering : (s.emit x).recovering = s.recovering := rfl
@[simp] theorem State.emit_held : (s.emit x).held = s.held := rfl
@[simp] theorem State.emit_out : (s.emit x).out = s.out ++ [x] := rfl
@[simp] theorem State.emit_agenda : (s.emit x).agenda = s.agenda := rfl
@[simp] theorem State.emit_cur : (s.emit x).cur = s.cur := rfl
@[simp] theorem State.emit_free : (s.emit x).free = s.free := rfl
end

section
variable (t : Team) (i n : Nat) (x : Word)
@[simp] theorem Team.vSet_tix : (t.vSet i n x).tix = t.tix := rfl
@[simp] theorem Team.vSet_lane : (t.vSet i n x).lane = t.lane := rfl
@[simp] theorem Team.vSet_slot : (t.vSet i n x).slot = t.slot := rfl
@[simp] theorem Team.vSet_st : (t.vSet i n x).st = t.st := rfl
@[simp] theorem Team.vSet_s : (t.vSet i n x).s = t.s := rfl
@[simp] theorem Team.vSet_masks : (t.vSet i n x).masks = t.masks := rfl
@[simp] theorem Team.vSet_loops : (t.vSet i n x).loops = t.loops := rfl
@[simp] theorem Team.vSet_fstat : (t.vSet i n x).fstat = t.fstat := rfl
@[simp] theorem Team.vSet_prsFstat : (t.vSet i n x).prsFstat = t.prsFstat := rfl
@[simp] theorem Team.vSet_pfmt : (t.vSet i n x).pfmt = t.pfmt := rfl
@[simp] theorem Team.vSet_pfmtLater : (t.vSet i n x).pfmtLater = t.pfmtLater := rfl
@[simp] theorem Team.vSet_fmask : (t.vSet i n x).fmask = t.fmask := rfl
@[simp] theorem Team.vSet_wdog : (t.vSet i n x).wdog = t.wdog := rfl
@[simp] theorem Team.vSet_wdogExp : (t.vSet i n x).wdogExp = t.wdogExp := rfl
@[simp] theorem Team.vSet_yieldAt : (t.vSet i n x).yieldAt = t.yieldAt := rfl
@[simp] theorem Team.vSet_pend : (t.vSet i n x).pend = t.pend := rfl
@[simp] theorem Team.vSet_heldPhase : (t.vSet i n x).heldPhase = t.heldPhase := rfl
@[simp] theorem Team.vSet_savedWait : (t.vSet i n x).savedWait = t.savedWait := rfl
@[simp] theorem Team.vSet_passed : (t.vSet i n x).passed = t.passed := rfl
@[simp] theorem Team.vSet_nest : (t.vSet i n x).nest = t.nest := rfl
@[simp] theorem Team.vSet_nrows : (t.vSet i n x).nrows = t.nrows := rfl
@[simp] theorem Team.vSet_tokens : (t.vSet i n x).tokens = t.tokens := rfl
@[simp] theorem Team.vSet_links : (t.vSet i n x).links = t.links := rfl
@[simp] theorem Team.vSet_feedPos : (t.vSet i n x).feedPos = t.feedPos := rfl
@[simp] theorem Team.vSet_feedBuf : (t.vSet i n x).feedBuf = t.feedBuf := rfl
@[simp] theorem Team.vSet_streams : (t.vSet i n x).streams = t.streams := rfl
@[simp] theorem Team.vSet_pendFaults : (t.vSet i n x).pendFaults = t.pendFaults := rfl
@[simp] theorem Team.vSet_comb : (t.vSet i n x).comb = t.comb := rfl
@[simp] theorem Team.vSet_remote : (t.vSet i n x).remote = t.remote := rfl
@[simp] theorem Team.vSet_unacked : (t.vSet i n x).unacked = t.unacked := rfl
@[simp] theorem Team.vSet_awaits : (t.vSet i n x).awaits = t.awaits := rfl
@[simp] theorem Team.vSet_relPend : (t.vSet i n x).relPend = t.relPend := rfl
@[simp] theorem Team.vSet_fetched : (t.vSet i n x).fetched = t.fetched := rfl
@[simp] theorem Team.vSet_streamBlocks : (t.vSet i n x).streamBlocks = t.streamBlocks := rfl
@[simp] theorem Team.vSet_clock : (t.vSet i n x).clock = t.clock := rfl
@[simp] theorem Team.vSet_halting : (t.vSet i n x).halting = t.halting := rfl
@[simp] theorem Team.vSet_brkNext : (t.vSet i n x).brkNext = t.brkNext := rfl
@[simp] theorem Team.vSet_nat : (t.vSet i n x).nat = t.nat := rfl
@[simp] theorem Team.vSet_commit : (t.vSet i n x).commit = t.commit := rfl
end

section
variable (t : Team) (i n : Nat) (b : Bool)
@[simp] theorem Team.pSet_tix : (t.pSet i n b).tix = t.tix := rfl
@[simp] theorem Team.pSet_lane : (t.pSet i n b).lane = t.lane := rfl
@[simp] theorem Team.pSet_slot : (t.pSet i n b).slot = t.slot := rfl
@[simp] theorem Team.pSet_st : (t.pSet i n b).st = t.st := rfl
@[simp] theorem Team.pSet_s : (t.pSet i n b).s = t.s := rfl
@[simp] theorem Team.pSet_masks : (t.pSet i n b).masks = t.masks := rfl
@[simp] theorem Team.pSet_loops : (t.pSet i n b).loops = t.loops := rfl
@[simp] theorem Team.pSet_fstat : (t.pSet i n b).fstat = t.fstat := rfl
@[simp] theorem Team.pSet_prsFstat : (t.pSet i n b).prsFstat = t.prsFstat := rfl
@[simp] theorem Team.pSet_pfmt : (t.pSet i n b).pfmt = t.pfmt := rfl
@[simp] theorem Team.pSet_pfmtLater : (t.pSet i n b).pfmtLater = t.pfmtLater := rfl
@[simp] theorem Team.pSet_fmask : (t.pSet i n b).fmask = t.fmask := rfl
@[simp] theorem Team.pSet_wdog : (t.pSet i n b).wdog = t.wdog := rfl
@[simp] theorem Team.pSet_wdogExp : (t.pSet i n b).wdogExp = t.wdogExp := rfl
@[simp] theorem Team.pSet_yieldAt : (t.pSet i n b).yieldAt = t.yieldAt := rfl
@[simp] theorem Team.pSet_pend : (t.pSet i n b).pend = t.pend := rfl
@[simp] theorem Team.pSet_heldPhase : (t.pSet i n b).heldPhase = t.heldPhase := rfl
@[simp] theorem Team.pSet_savedWait : (t.pSet i n b).savedWait = t.savedWait := rfl
@[simp] theorem Team.pSet_passed : (t.pSet i n b).passed = t.passed := rfl
@[simp] theorem Team.pSet_nest : (t.pSet i n b).nest = t.nest := rfl
@[simp] theorem Team.pSet_nrows : (t.pSet i n b).nrows = t.nrows := rfl
@[simp] theorem Team.pSet_tokens : (t.pSet i n b).tokens = t.tokens := rfl
@[simp] theorem Team.pSet_links : (t.pSet i n b).links = t.links := rfl
@[simp] theorem Team.pSet_feedPos : (t.pSet i n b).feedPos = t.feedPos := rfl
@[simp] theorem Team.pSet_feedBuf : (t.pSet i n b).feedBuf = t.feedBuf := rfl
@[simp] theorem Team.pSet_streams : (t.pSet i n b).streams = t.streams := rfl
@[simp] theorem Team.pSet_pendFaults : (t.pSet i n b).pendFaults = t.pendFaults := rfl
@[simp] theorem Team.pSet_comb : (t.pSet i n b).comb = t.comb := rfl
@[simp] theorem Team.pSet_remote : (t.pSet i n b).remote = t.remote := rfl
@[simp] theorem Team.pSet_unacked : (t.pSet i n b).unacked = t.unacked := rfl
@[simp] theorem Team.pSet_awaits : (t.pSet i n b).awaits = t.awaits := rfl
@[simp] theorem Team.pSet_relPend : (t.pSet i n b).relPend = t.relPend := rfl
@[simp] theorem Team.pSet_fetched : (t.pSet i n b).fetched = t.fetched := rfl
@[simp] theorem Team.pSet_streamBlocks : (t.pSet i n b).streamBlocks = t.streamBlocks := rfl
@[simp] theorem Team.pSet_clock : (t.pSet i n b).clock = t.clock := rfl
@[simp] theorem Team.pSet_halting : (t.pSet i n b).halting = t.halting := rfl
@[simp] theorem Team.pSet_brkNext : (t.pSet i n b).brkNext = t.brkNext := rfl
@[simp] theorem Team.pSet_nat : (t.pSet i n b).nat = t.nat := rfl
@[simp] theorem Team.pSet_commit : (t.pSet i n b).commit = t.commit := rfl
end

section
variable (t : Team) (i : Nat) (f : Thread → Thread)
@[simp] theorem Team.modThread_tix : (t.modThread i f).tix = t.tix := rfl
@[simp] theorem Team.modThread_lane : (t.modThread i f).lane = t.lane := rfl
@[simp] theorem Team.modThread_slot : (t.modThread i f).slot = t.slot := rfl
@[simp] theorem Team.modThread_st : (t.modThread i f).st = t.st := rfl
@[simp] theorem Team.modThread_s : (t.modThread i f).s = t.s := rfl
@[simp] theorem Team.modThread_masks : (t.modThread i f).masks = t.masks := rfl
@[simp] theorem Team.modThread_loops : (t.modThread i f).loops = t.loops := rfl
@[simp] theorem Team.modThread_fstat : (t.modThread i f).fstat = t.fstat := rfl
@[simp] theorem Team.modThread_prsFstat : (t.modThread i f).prsFstat = t.prsFstat := rfl
@[simp] theorem Team.modThread_pfmt : (t.modThread i f).pfmt = t.pfmt := rfl
@[simp] theorem Team.modThread_pfmtLater : (t.modThread i f).pfmtLater = t.pfmtLater := rfl
@[simp] theorem Team.modThread_fmask : (t.modThread i f).fmask = t.fmask := rfl
@[simp] theorem Team.modThread_wdog : (t.modThread i f).wdog = t.wdog := rfl
@[simp] theorem Team.modThread_wdogExp : (t.modThread i f).wdogExp = t.wdogExp := rfl
@[simp] theorem Team.modThread_yieldAt : (t.modThread i f).yieldAt = t.yieldAt := rfl
@[simp] theorem Team.modThread_pend : (t.modThread i f).pend = t.pend := rfl
@[simp] theorem Team.modThread_heldPhase : (t.modThread i f).heldPhase = t.heldPhase := rfl
@[simp] theorem Team.modThread_savedWait : (t.modThread i f).savedWait = t.savedWait := rfl
@[simp] theorem Team.modThread_passed : (t.modThread i f).passed = t.passed := rfl
@[simp] theorem Team.modThread_nest : (t.modThread i f).nest = t.nest := rfl
@[simp] theorem Team.modThread_nrows : (t.modThread i f).nrows = t.nrows := rfl
@[simp] theorem Team.modThread_tokens : (t.modThread i f).tokens = t.tokens := rfl
@[simp] theorem Team.modThread_links : (t.modThread i f).links = t.links := rfl
@[simp] theorem Team.modThread_feedPos : (t.modThread i f).feedPos = t.feedPos := rfl
@[simp] theorem Team.modThread_feedBuf : (t.modThread i f).feedBuf = t.feedBuf := rfl
@[simp] theorem Team.modThread_streams : (t.modThread i f).streams = t.streams := rfl
@[simp] theorem Team.modThread_pendFaults : (t.modThread i f).pendFaults = t.pendFaults := rfl
@[simp] theorem Team.modThread_comb : (t.modThread i f).comb = t.comb := rfl
@[simp] theorem Team.modThread_remote : (t.modThread i f).remote = t.remote := rfl
@[simp] theorem Team.modThread_unacked : (t.modThread i f).unacked = t.unacked := rfl
@[simp] theorem Team.modThread_awaits : (t.modThread i f).awaits = t.awaits := rfl
@[simp] theorem Team.modThread_relPend : (t.modThread i f).relPend = t.relPend := rfl
@[simp] theorem Team.modThread_fetched : (t.modThread i f).fetched = t.fetched := rfl
@[simp] theorem Team.modThread_streamBlocks : (t.modThread i f).streamBlocks = t.streamBlocks := rfl
@[simp] theorem Team.modThread_clock : (t.modThread i f).clock = t.clock := rfl
@[simp] theorem Team.modThread_halting : (t.modThread i f).halting = t.halting := rfl
@[simp] theorem Team.modThread_brkNext : (t.modThread i f).brkNext = t.brkNext := rfl
@[simp] theorem Team.modThread_nat : (t.modThread i f).nat = t.nat := rfl
@[simp] theorem Team.modThread_commit : (t.modThread i f).commit = t.commit := rfl
end

section
variable (t : Team) (n : Nat) (x : Word)
@[simp] theorem Team.sSet_tix : (t.sSet n x).tix = t.tix := rfl
@[simp] theorem Team.sSet_lane : (t.sSet n x).lane = t.lane := rfl
@[simp] theorem Team.sSet_slot : (t.sSet n x).slot = t.slot := rfl
@[simp] theorem Team.sSet_st : (t.sSet n x).st = t.st := rfl
@[simp] theorem Team.sSet_threads : (t.sSet n x).threads = t.threads := rfl
@[simp] theorem Team.sSet_masks : (t.sSet n x).masks = t.masks := rfl
@[simp] theorem Team.sSet_loops : (t.sSet n x).loops = t.loops := rfl
@[simp] theorem Team.sSet_fstat : (t.sSet n x).fstat = t.fstat := rfl
@[simp] theorem Team.sSet_prsFstat : (t.sSet n x).prsFstat = t.prsFstat := rfl
@[simp] theorem Team.sSet_pfmt : (t.sSet n x).pfmt = t.pfmt := rfl
@[simp] theorem Team.sSet_pfmtLater : (t.sSet n x).pfmtLater = t.pfmtLater := rfl
@[simp] theorem Team.sSet_fmask : (t.sSet n x).fmask = t.fmask := rfl
@[simp] theorem Team.sSet_wdog : (t.sSet n x).wdog = t.wdog := rfl
@[simp] theorem Team.sSet_wdogExp : (t.sSet n x).wdogExp = t.wdogExp := rfl
@[simp] theorem Team.sSet_yieldAt : (t.sSet n x).yieldAt = t.yieldAt := rfl
@[simp] theorem Team.sSet_pend : (t.sSet n x).pend = t.pend := rfl
@[simp] theorem Team.sSet_heldPhase : (t.sSet n x).heldPhase = t.heldPhase := rfl
@[simp] theorem Team.sSet_savedWait : (t.sSet n x).savedWait = t.savedWait := rfl
@[simp] theorem Team.sSet_passed : (t.sSet n x).passed = t.passed := rfl
@[simp] theorem Team.sSet_nest : (t.sSet n x).nest = t.nest := rfl
@[simp] theorem Team.sSet_nrows : (t.sSet n x).nrows = t.nrows := rfl
@[simp] theorem Team.sSet_tokens : (t.sSet n x).tokens = t.tokens := rfl
@[simp] theorem Team.sSet_links : (t.sSet n x).links = t.links := rfl
@[simp] theorem Team.sSet_feedPos : (t.sSet n x).feedPos = t.feedPos := rfl
@[simp] theorem Team.sSet_feedBuf : (t.sSet n x).feedBuf = t.feedBuf := rfl
@[simp] theorem Team.sSet_streams : (t.sSet n x).streams = t.streams := rfl
@[simp] theorem Team.sSet_pendFaults : (t.sSet n x).pendFaults = t.pendFaults := rfl
@[simp] theorem Team.sSet_comb : (t.sSet n x).comb = t.comb := rfl
@[simp] theorem Team.sSet_remote : (t.sSet n x).remote = t.remote := rfl
@[simp] theorem Team.sSet_unacked : (t.sSet n x).unacked = t.unacked := rfl
@[simp] theorem Team.sSet_awaits : (t.sSet n x).awaits = t.awaits := rfl
@[simp] theorem Team.sSet_relPend : (t.sSet n x).relPend = t.relPend := rfl
@[simp] theorem Team.sSet_fetched : (t.sSet n x).fetched = t.fetched := rfl
@[simp] theorem Team.sSet_streamBlocks : (t.sSet n x).streamBlocks = t.streamBlocks := rfl
@[simp] theorem Team.sSet_clock : (t.sSet n x).clock = t.clock := rfl
@[simp] theorem Team.sSet_halting : (t.sSet n x).halting = t.halting := rfl
@[simp] theorem Team.sSet_brkNext : (t.sSet n x).brkNext = t.brkNext := rfl
@[simp] theorem Team.sSet_nat : (t.sSet n x).nat = t.nat := rfl
@[simp] theorem Team.sSet_commit : (t.sSet n x).commit = t.commit := rfl
end

section
variable (t : Team) (q : Nat) (y : Stream)
@[simp] theorem Team.setStream_tix : (t.setStream q y).tix = t.tix := rfl
@[simp] theorem Team.setStream_lane : (t.setStream q y).lane = t.lane := rfl
@[simp] theorem Team.setStream_slot : (t.setStream q y).slot = t.slot := rfl
@[simp] theorem Team.setStream_st : (t.setStream q y).st = t.st := rfl
@[simp] theorem Team.setStream_threads : (t.setStream q y).threads = t.threads := rfl
@[simp] theorem Team.setStream_s : (t.setStream q y).s = t.s := rfl
@[simp] theorem Team.setStream_masks : (t.setStream q y).masks = t.masks := rfl
@[simp] theorem Team.setStream_loops : (t.setStream q y).loops = t.loops := rfl
@[simp] theorem Team.setStream_fstat : (t.setStream q y).fstat = t.fstat := rfl
@[simp] theorem Team.setStream_prsFstat : (t.setStream q y).prsFstat = t.prsFstat := rfl
@[simp] theorem Team.setStream_pfmt : (t.setStream q y).pfmt = t.pfmt := rfl
@[simp] theorem Team.setStream_pfmtLater : (t.setStream q y).pfmtLater = t.pfmtLater := rfl
@[simp] theorem Team.setStream_fmask : (t.setStream q y).fmask = t.fmask := rfl
@[simp] theorem Team.setStream_wdog : (t.setStream q y).wdog = t.wdog := rfl
@[simp] theorem Team.setStream_wdogExp : (t.setStream q y).wdogExp = t.wdogExp := rfl
@[simp] theorem Team.setStream_yieldAt : (t.setStream q y).yieldAt = t.yieldAt := rfl
@[simp] theorem Team.setStream_pend : (t.setStream q y).pend = t.pend := rfl
@[simp] theorem Team.setStream_heldPhase : (t.setStream q y).heldPhase = t.heldPhase := rfl
@[simp] theorem Team.setStream_savedWait : (t.setStream q y).savedWait = t.savedWait := rfl
@[simp] theorem Team.setStream_passed : (t.setStream q y).passed = t.passed := rfl
@[simp] theorem Team.setStream_nest : (t.setStream q y).nest = t.nest := rfl
@[simp] theorem Team.setStream_nrows : (t.setStream q y).nrows = t.nrows := rfl
@[simp] theorem Team.setStream_tokens : (t.setStream q y).tokens = t.tokens := rfl
@[simp] theorem Team.setStream_links : (t.setStream q y).links = t.links := rfl
@[simp] theorem Team.setStream_feedPos : (t.setStream q y).feedPos = t.feedPos := rfl
@[simp] theorem Team.setStream_feedBuf : (t.setStream q y).feedBuf = t.feedBuf := rfl
@[simp] theorem Team.setStream_pendFaults : (t.setStream q y).pendFaults = t.pendFaults := rfl
@[simp] theorem Team.setStream_comb : (t.setStream q y).comb = t.comb := rfl
@[simp] theorem Team.setStream_remote : (t.setStream q y).remote = t.remote := rfl
@[simp] theorem Team.setStream_unacked : (t.setStream q y).unacked = t.unacked := rfl
@[simp] theorem Team.setStream_awaits : (t.setStream q y).awaits = t.awaits := rfl
@[simp] theorem Team.setStream_relPend : (t.setStream q y).relPend = t.relPend := rfl
@[simp] theorem Team.setStream_fetched : (t.setStream q y).fetched = t.fetched := rfl
@[simp] theorem Team.setStream_streamBlocks : (t.setStream q y).streamBlocks = t.streamBlocks := rfl
@[simp] theorem Team.setStream_clock : (t.setStream q y).clock = t.clock := rfl
@[simp] theorem Team.setStream_halting : (t.setStream q y).halting = t.halting := rfl
@[simp] theorem Team.setStream_brkNext : (t.setStream q y).brkNext = t.brkNext := rfl
@[simp] theorem Team.setStream_nat : (t.setStream q y).nat = t.nat := rfl
@[simp] theorem Team.setStream_commit : (t.setStream q y).commit = t.commit := rfl
end

end Sys2Proof.Machine
end

