-- ==== Sys2Proof/Laws/Issue.lean ====
section
/-! SUPPORT. What an issue does, once for each shared operation: its start, its parts, reading a source and writing a destination. -/
namespace Sys2Proof.Machine

/-- A team that issues with no fault held runs the body from the start of the issue. -/
theorem issue_next {s : State} {w : Workgroup} {t : Team} {pc : Nat} (h : Issuing s w t pc) (g : BitVec 4) (gn : Bool) (len : Nat)
    (body : Run → Run) : issue g gn len body s = .next (body (beginIssue s w t pc len g gn)).finish := by
  simp [issue, h.issuer, h.lead, h.noFaults]

theorem issueUnits_next {s : State} {w : Workgroup} {t : Team} {pc : Nat} (h : Issuing s w t pc) (op : Nat) (e : Enc) (f : Run → Nat → Run) :
    issueUnits op e f s = .next (runUnits f ((starts s w t pc e).units (uniform op e)) (starts s w t pc e)).finish :=
  issue_next h _ _ _ _

theorem issueOnce_next {s : State} {w : Workgroup} {t : Team} {pc : Nat} (h : Issuing s w t pc) (e : Enc) (f : Run → Nat → Run) :
    issueOnce e f s = .next (runUnits f ((starts s w t pc e).units true) (starts s w t pc e)).finish :=
  issue_next h _ _ _ _

theorem issueKept_next {s : State} {w : Workgroup} {t : Team} {pc : Nat} (h : Issuing s w t pc) (e : Enc) (f : Run → Nat → Run) :
    issueKept e f s = .next (onceFirst f (starts s w t pc e)).finish :=
  issue_next h _ _ _ _

@[simp] theorem beginIssue_halt (s : State) (w : Workgroup) (t : Team) (pc len : Nat) (g : BitVec 4) (gn : Bool) :
    (beginIssue s w t pc len g gn).halt = .go := by
  unfold beginIssue; dsimp only; split
  · rfl
  · split <;> rfl

@[simp] theorem beginIssue_s (s : State) (w : Workgroup) (t : Team) (pc len : Nat) (g : BitVec 4) (gn : Bool) :
    (beginIssue s w t pc len g gn).s = s.awaited w t := by
  unfold beginIssue; dsimp only; split
  · rfl
  · split <;> rfl

/-- A team that awaits no acknowledgement starts in the state as it stands. -/
theorem Issuing.start {s : State} {w : Workgroup} {t : Team} {pc : Nat} (h : Issuing s w t pc) : s.awaited w t = s := by
  simp [State.awaited, h.noAwait]

@[simp] theorem beginIssue_w (s : State) (w : Workgroup) (t : Team) (pc len : Nat) (g : BitVec 4) (gn : Bool) :
    (beginIssue s w t pc len g gn).w = w := by
  unfold beginIssue; dsimp only; split
  · rfl
  · split <;> rfl

@[simp] theorem beginIssue_t (s : State) (w : Workgroup) (t : Team) (pc len : Nat) (g : BitVec 4) (gn : Bool) :
    (beginIssue s w t pc len g gn).t = { t.fmtSettled with yieldAt := none, pend := none, awaits := none, savedWait := none, st := .ready } := by
  unfold beginIssue; dsimp only; split
  · rfl
  · split <;> rfl

/-- Settling the shadow of `PFMT` twice settles it once. -/
@[simp] theorem Team.fmtSettled_fmtSettled (t : Team) : t.fmtSettled.fmtSettled = t.fmtSettled := by
  unfold Team.fmtSettled
  by_cases h : t.nat.started = true <;> simp [h]

/-- The team of a started issue has no value of `PFMT` still in its shadow, or is native. -/
theorem beginIssue_settled (s : State) (w : Workgroup) (t : Team) (pc len : Nat) (g : BitVec 4) (gn : Bool) :
    (beginIssue s w t pc len g gn).t.fmtSettled = (beginIssue s w t pc len g gn).t := by
  rw [beginIssue_t]
  unfold Team.fmtSettled
  by_cases h : t.nat.started = true <;> simp [h]

@[simp] theorem beginIssue_pc (s : State) (w : Workgroup) (t : Team) (pc len : Nat) (g : BitVec 4) (gn : Bool) :
    (beginIssue s w t pc len g gn).pc = pc := by
  unfold beginIssue; dsimp only; split
  · rfl
  · split <;> rfl

@[simp] theorem beginIssue_nxt (s : State) (w : Workgroup) (t : Team) (pc len : Nat) (g : BitVec 4) (gn : Bool) :
    (beginIssue s w t pc len g gn).nxt = pc + len := by
  unfold beginIssue; dsimp only; split
  · rfl
  · split <;> rfl

/-- The fields of an issue's start that no instruction finds set. -/
theorem beginIssue_blank (s : State) (w : Workgroup) (t : Team) (pc len : Nat) (g : BitVec 4) (gn : Bool) :
    (beginIssue s w t pc len g gn).pf = 0 ∧ (beginIssue s w t pc len g gn).moved = 0 ∧ (beginIssue s w t pc len g gn).park = 0 ∧
    (beginIssue s w t pc len g gn).post = none ∧ (beginIssue s w t pc len g gn).reads = [] := by
  unfold beginIssue; dsimp only; split
  · exact ⟨rfl, rfl, rfl, rfl, rfl⟩
  · split <;> exact ⟨rfl, rfl, rfl, rfl, rfl⟩

/-- Parts that all complete run one after the other. -/
theorem runUnits_foldl {f : Run → Nat → Run} : ∀ (l : List (Nat × BitVec 32)) (r : Run), r.halt = .go →
    (∀ r i, r.halt = .go → (f r i).halt = .go) → runUnits f l r = l.foldl (fun r x => f r x.1) r
  | [], _, _, _ => rfl
  | (i, m) :: l, r, h, hf => by
    have h1 := hf r i h
    simp only [runUnits, h1, List.foldl_cons]
    exact runUnits_foldl l (f r i) h1 hf

/-- Parts that all complete under a property that each keeps. -/
theorem runUnits_foldl_of {f : Run → Nat → Run} {P : List (Nat × BitVec 32) → Run → Prop}
    (hf : ∀ r x l, P (x :: l) r → (f r x.1).halt = .go ∧ P l (f r x.1)) :
    ∀ (l : List (Nat × BitVec 32)) (r : Run), P l r → runUnits f l r = l.foldl (fun r x => f r x.1) r
  | [], _, _ => rfl
  | (i, m) :: l, r, h => by
    have h1 := hf r (i, m) l h
    simp only [runUnits, h1.1, List.foldl_cons]
    exact runUnits_foldl_of hf l (f r i) h1.2

/-- One part that completes. -/
theorem runUnits_one {f : Run → Nat → Run} {r : Run} {i : Nat} {m : BitVec 32} (h : (f r i).halt = .go) :
    runUnits f [(i, m)] r = f r i := by
  simp only [runUnits, h]

theorem findBy_mem {α : Type} {p : α → Bool} {x : α} : ∀ {l : List α}, findBy p l = some x → x ∈ l ∧ p x = true
  | [], h => by cases h
  | y :: r, h => by
    simp only [findBy] at h
    split at h
    · rename_i hp; injection h with h; subst h; exact ⟨List.mem_cons_self, hp⟩
    · exact ⟨List.mem_cons_of_mem _ (findBy_mem h).1, (findBy_mem h).2⟩

/-- A read meets no lock where no core holds one of written bytes (R235). -/
theorem State.lockMet_read {s : State} (h : ∀ k ∈ s.cores, ∀ l ∈ k.locks, l.write = false) (ag : Agent) (sp : Nat) (p : Place) (a n : Nat) :
    s.lockMet ag sp p a n false = none := by
  unfold State.lockMet
  dsimp only
  split
  · rfl
  · rename_i k hk
    split
    · rename_i l hl
      have h1 := findBy_mem hl
      rw [h k (findBy_mem hk).1 l h1.1] at h1
      simp at h1
    · rfl

theorem State.streamLock_free {s : State} (h : ∀ k ∈ s.cores, ∀ l ∈ k.locks, l.write = false) (ag : Agent) (w : Workgroup) (st : Stream) (q : Nat) :
    s.streamLock ag w st q = none := by
  unfold State.streamLock
  dsimp only
  split
  · rfl
  · split
    · rw [State.lockMet_read h]; rfl
    · split
      · rw [State.lockMet_read h]; rfl
      · rfl

/-- Reading an operand that the team can read, a stream's where its consumption meets no range lock. -/
theorem Run.read_source {r : Run} {i ty w k x : Nat} {o : Operand} {pair : Bool} {t : Team}
    (hs : noStream o = true ∨ ∀ k ∈ r.s.cores, ∀ l ∈ k.locks, l.write = false) (h : r.t.source i o ty w k pair = some (x, t)) :
    r.read i o ty w k pair = ({ r with t := t }, x) := by
  cases o with
  | q n =>
    unfold Team.source at h
    dsimp only at h
    split at h
    · cases h
    · rename_i y l e
      split at h
      · rename_i hc
        injection h with h
        injection h with h1 h2
        subst h1 h2
        have hf : ∀ ag w st q, r.sync.streamLock ag w st q = none := State.streamLock_free (hs.resolve_left (by simp [noStream]))
        simp [Run.read, Run.streamRead, e, hc.1, hc.2.1, hc.2.2, hf]
      · cases h
  | _ => simp only [Team.source, Option.some.injEq, Prod.mk.injEq] at h; obtain ⟨rfl, rfl⟩ := h; rfl

/-- A plain source is always readable and leaves the team as it is. -/
theorem Team.source_plain {t : Team} {i ty w k : Nat} {o : Operand} {pair : Bool} (h : noStream o = true) :
    ∃ x, t.source i o ty w k pair = some (x, t) := by
  cases o <;> first | exact ⟨_, rfl⟩ | simp [noStream] at h

/-- Writing a destination that is no stream register. -/
theorem Run.write_plain {r : Run} {i w k x : Nat} {o : Operand} {pair : Bool} (h : noStream o = true) :
    r.write i o w k pair x = { r with t := r.t.result i o w k pair x } := by
  cases o <;> first
    | rfl
    | (simp only [Run.write, Team.result]; split <;> rfl)
    | simp [noStream] at h

/-- One part of an arithmetic instruction, once its operands are read. -/
theorem aluUnit_read {op i : Nat} {e : Enc} {f : Nat → Nat → Nat → AluOut} {r : Run} {t : Team} {x : AluOut} (hg : r.halt = .go)
    (hs : streamsFree r.s e) (h : aluRead op e f r.t i = some (t, x)) : aluUnit op e f r i =
      (let r1 := (({ r with t := t } : Run).write i e.d (Legal.selWidths op e).1 e.selD.toNat (Legal.pairs op e).1 x.d).flags x.fl
       match x.pc, e.c with
       | some b, .p n => { r1 with t := r1.t.pSet i n.toNat b }
       | _, _ => r1) := by
  obtain ⟨s, w, t0, pc, nxt, halt, cands, parts, active, pf, why, pend, moved, tmask, replaying, resumed, div, reads, park, post⟩ := r
  dsimp only at hg h
  subst hg
  generalize hr : (Run.mk s w t0 pc nxt .go cands parts active pf why pend moved tmask replaying resumed div reads park post) = r at *
  have hg : r.halt = .go := by subst hr; rfl
  have ht : r.t = t0 := by subst hr; rfl
  rw [← ht] at h
  have sa : noStream e.a = true ∨ ∀ k ∈ r.s.cores, ∀ l ∈ k.locks, l.write = false := hs.imp_left And.left
  have sb : noStream e.b = true ∨ ∀ k ∈ r.s.cores, ∀ l ∈ k.locks, l.write = false := hs.imp_left fun h => h.2.1
  have sc : noStream e.c = true ∨ ∀ k ∈ r.s.cores, ∀ l ∈ k.locks, l.write = false := hs.imp_left fun h => h.2.2
  unfold aluRead at h
  dsimp only at h
  simp only [Option.bind_eq_some_iff] at h
  obtain ⟨a, ha, b, hb, c, hc, h⟩ := h
  have ea : (if (usedFields op e).2.1 then r.read i e.a (readTypes op e).1 (Legal.selWidths op e).2.1 e.selA.toNat (Legal.pairs op e).2.1
      else (r, 0)) = ({ r with t := a.2 }, a.1) := by
    split at ha
    · rename_i hu; rw [if_pos hu]; exact Run.read_source sa ha
    · rename_i hu; rw [if_neg hu]; injection ha with ha; subst ha; rfl
  have eb : (if (usedFields op e).2.2.1 then ({ r with t := a.2 } : Run).read i e.b (readTypes op e).2.1 (Legal.selWidths op e).2.2.1
      e.selB.toNat (Legal.pairs op e).2.2.1 else ({ r with t := a.2 }, 0)) = ({ r with t := b.2 }, b.1) := by
    split at hb
    · rename_i hu; rw [if_pos hu]; exact Run.read_source (r := { r with t := a.2 }) sb hb
    · rename_i hu; rw [if_neg hu]; injection hb with hb; subst hb; rfl
  have ec : (if (usedFields op e).2.2.2 then ({ r with t := b.2 } : Run).read i e.c (readTypes op e).2.2 (Legal.selWidths op e).2.2.2
      e.selC.toNat (Legal.pairs op e).2.2.2 else ({ r with t := b.2 }, 0)) = ({ r with t := c.2 }, c.1) := by
    split at hc
    · rename_i hu; rw [if_pos hu]; exact Run.read_source (r := { r with t := b.2 }) sc hc
    · rename_i hu; rw [if_neg hu]; injection hc with hc; subst hc; rfl
  injection h with h
  injection h with h1 h2
  subst h1 h2
  simp only [aluUnit, ea, hg, decide_true, Bool.true_and]
  rw [hg] at eb ec
  rw [eb]
  simp only [decide_true, Bool.true_and]
  rw [ec]
  simp only [if_true]
  try (cases (f a.1 b.1 c.1).pc <;> cases e.c <;> rfl)

/-- One part of an arithmetic instruction. -/
theorem aluUnit_part {op i : Nat} {e : Enc} {f : Nat → Nat → Nat → AluOut} {r : Run} {t : Team} (hg : r.halt = .go)
    (hs : streamsFree r.s e) (hd : noStream e.d = true) (h : aluPart op e f r.t i = some t) : aluUnit op e f r i = { r with t := t } := by
  simp only [aluPart, Option.bind_eq_some_iff] at h
  obtain ⟨⟨t1, x⟩, h1, h⟩ := h
  rw [aluUnit_read hg hs h1]
  injection h with h
  subst h
  simp only [Run.write_plain hd, Run.flags]
  cases x.pc <;> cases e.c <;> rfl

end Sys2Proof.Machine
end

