-- ==== Sys2Proof/Laws/Finish.lean ====
section
/-! SUPPORT. The end of an issue (R160): where each thread stands after one that completes, and that nothing else of the team changes. -/
namespace Sys2Proof.Machine

theorem mapThreads_length (f : Nat → Thread → Thread) : ∀ (n : Nat) (l : List Thread), (mapThreads f n l).length = l.length
  | _, [] => rfl
  | n, _ :: r => by simp [mapThreads, mapThreads_length f (n + 1) r]

theorem mapThreads_getD (f : Nat → Thread → Thread) (d : Thread) :
    ∀ (n : Nat) (l : List Thread) (i : Nat), i < l.length → (mapThreads f n l).getD i d = f (n + i) (l.getD i d)
  | _, [], _, h => absurd h (Nat.not_lt_zero _)
  | n, _ :: _, 0, _ => by simp [mapThreads]
  | n, _ :: r, i + 1, h => by
    have := mapThreads_getD f d (n + 1) r i (Nat.lt_of_succ_lt_succ h)
    simp only [mapThreads, List.getD_cons_succ, this]
    rw [show n + 1 + i = n + (i + 1) by omega]

theorem Team.thread_out {t : Team} {i : Nat} (h : t.threads.length ≤ i) : t.thread i = Thread.none := by
  simp [Team.thread, List.getD_eq_getElem?_getD, List.getElem?_eq_none h]

theorem ite_status (c : Prop) [Decidable c] (h : Thread) : ∃ st, (if c then { h with st := .run } else h) = { h with st := st } := by
  by_cases hc : c
  · exact ⟨_, if_pos hc⟩
  · exact ⟨h.st, if_neg hc⟩

theorem ite_live (c : Bool) (h : Thread) :
    (if (decide (h.st = .hold) && c) = true then { h with st := .run } else h).st = .exit ↔ h.st = .exit := by
  by_cases hc : (decide (h.st = .hold) && c) = true
  · rw [if_pos hc]
    have : h.st = .hold := by simp at hc; exact hc.1
    simp [this]
  · rw [if_neg hc]

/-- Settling the threads in HOLD changes no thread but its status. -/
theorem Team.settle_thread (t : Team) (i : Nat) : ∃ st, t.settle.thread i = { t.thread i with st := st } := by
  by_cases h : i < t.threads.length
  · simp only [Team.settle, Team.thread, List.getD_eq_getElem?_getD, List.getElem?_map, List.getElem?_eq_getElem h, Option.map_some,
      Option.getD_some]
    exact ite_status _ _
  · have h := Nat.le_of_not_lt h
    exact ⟨_, by rw [Team.thread_out (by simpa [Team.settle] using h), Team.thread_out h]⟩

theorem Team.settle_live (t : Team) (i : Nat) : (t.settle.thread i).st = .exit ↔ (t.thread i).st = .exit := by
  by_cases h : i < t.threads.length
  · simp only [Team.settle, Team.thread, List.getD_eq_getElem?_getD, List.getElem?_map, List.getElem?_eq_getElem h, Option.map_some,
      Option.getD_some]
    exact ite_live _ _
  · have h := Nat.le_of_not_lt h
    rw [Team.thread_out (by simpa [Team.settle] using h), Team.thread_out h]

/-- A thread's registers and the rest that no issue's end changes. -/
theorem Run.threadAfter_regs (r : Run) (b : Bool) (i : Nat) (h : Thread) :
    (r.threadAfter b i h).v = h.v ∧ (r.threadAfter b i h).p = h.p ∧ h.Beside (r.threadAfter b i h) := by
  unfold Run.threadAfter; dsimp only
  split
  · exact ⟨rfl, rfl, rfl, rfl, rfl, rfl, rfl⟩
  · split
    · split <;> exact ⟨rfl, rfl, rfl, rfl, rfl, rfl, rfl⟩
    · split
      · split <;> split <;> first | exact ⟨rfl, rfl, rfl, rfl, rfl, rfl, rfl⟩ | (split <;> exact ⟨rfl, rfl, rfl, rfl, rfl, rfl, rfl⟩)
      · exact ⟨rfl, rfl, rfl, rfl, rfl, rfl, rfl⟩

theorem Team.afterIssue_same (t : Team) : ∃ st, t.afterIssue = { t with st := st } := by
  unfold Team.afterIssue; split
  · exact ⟨_, rfl⟩
  · split <;> exact ⟨_, rfl⟩

theorem Team.watch_same (t : Team) (b : Bool) : ∃ n x, t.watch b = { t with wdog := n, wdogExp := x } := by
  unfold Team.watch; split
  · exact ⟨_, _, rfl⟩
  · split
    · exact ⟨_, t.wdogExp, rfl⟩
    · exact ⟨t.wdog, t.wdogExp, rfl⟩

/-- The threads after an issue that completes. -/
def Run.threadsAfter (r : Run) : Team :=
  { r.t with threads := mapThreads (r.threadAfter false) 0 r.t.threads, fmask := 0, clock := r.t.clock + 8 }

theorem Run.teamAfter_go {r : Run} (hg : r.halt = .go) (hp : r.pf = 0) (hq : r.post = none) :
    r.teamAfter = (r.threadsAfter.settle.watch (r.div && !r.replaying && !r.resumed)).afterIssue := by
  simp only [Run.teamAfter, hg, hp, hq, Run.threadsAfter]
  simp

/-- The team after an issue that completes, but for the status of its threads. -/
theorem Run.teamAfter_shape {r : Run} (hg : r.halt = .go) (hp : r.pf = 0) (hq : r.post = none) :
    ∃ n x st, r.teamAfter = { r.threadsAfter.settle with wdog := n, wdogExp := x, st := st } := by
  rw [Run.teamAfter_go hg hp hq]
  obtain ⟨n, x, e⟩ := Team.watch_same r.threadsAfter.settle (r.div && !r.replaying && !r.resumed)
  obtain ⟨st, e2⟩ := Team.afterIssue_same (r.threadsAfter.settle.watch (r.div && !r.replaying && !r.resumed))
  exact ⟨n, x, st, by rw [e2, e]⟩

theorem Run.threadsAfter_thread (r : Run) {i : Nat} (hi : i < r.t.threads.length) :
    r.threadsAfter.thread i = r.threadAfter false i (r.t.thread i) := by
  unfold Run.threadsAfter Team.thread
  rw [mapThreads_getD _ _ _ _ _ hi, Nat.zero_add]

/-- Thread `i` after an issue that completes: as `threadAfter` leaves it, but for a status. -/
theorem Run.teamAfter_thread {r : Run} (hg : r.halt = .go) (hp : r.pf = 0) (hq : r.post = none) {i : Nat} (hi : i < r.t.threads.length) :
    ∃ st, r.teamAfter.thread i = { r.threadAfter false i (r.t.thread i) with st := st } := by
  obtain ⟨n, x, st, e⟩ := Run.teamAfter_shape hg hp hq
  obtain ⟨st2, e2⟩ := Team.settle_thread r.threadsAfter i
  refine ⟨st2, ?_⟩
  rw [e]
  show r.threadsAfter.settle.thread i = _
  rw [e2, Run.threadsAfter_thread r hi]

theorem Run.teamAfter_length {r : Run} (hg : r.halt = .go) (hp : r.pf = 0) (hq : r.post = none) :
    r.teamAfter.threads.length = r.t.threads.length := by
  obtain ⟨n, x, st, e⟩ := Run.teamAfter_shape hg hp hq
  rw [e]; simp [Team.settle, Run.threadsAfter, mapThreads_length]

/-- An issue that completes changes a team's registers no further, and nothing beside its threads' status and PC. -/
theorem Run.teamAfter_kept {r : Run} (hg : r.halt = .go) (hp : r.pf = 0) (hq : r.post = none) (hf : r.t.fmtSettled = r.t) :
    r.t.SameRegs r.teamAfter ∧ r.t.Beside r.teamAfter ∧ r.teamAfter.fstat = r.t.fstat ∧ r.teamAfter.streams = r.t.streams := by
  have hl := Run.teamAfter_length hg hp hq
  obtain ⟨n, x, st, e⟩ := Run.teamAfter_shape hg hp hq
  refine ⟨⟨by rw [e]; rfl, hl, fun i => ?_⟩, ?_, by rw [e]; rfl, by rw [e]; rfl⟩
  · by_cases hi : i < r.t.threads.length
    · obtain ⟨st, e⟩ := Run.teamAfter_thread hg hp hq hi
      have h := Run.threadAfter_regs r false i (r.t.thread i)
      rw [e]
      exact ⟨h.1, h.2.1, ⟨h.2.2.ret, h.2.2.lane, h.2.2.held, h.2.2.native⟩⟩
    · have hi := Nat.le_of_not_lt hi
      rw [Team.thread_out (by rw [hl]; exact hi), Team.thread_out hi]
      exact ⟨rfl, rfl, rfl, rfl, rfl, rfl, rfl⟩
  · rw [e]
    exact ⟨rfl, rfl, rfl, rfl, rfl, rfl, by rw [hf]; exact ⟨rfl, rfl⟩, ⟨rfl, rfl⟩, ⟨rfl, rfl⟩, ⟨rfl, rfl⟩, ⟨rfl, rfl⟩, rfl, ⟨rfl, rfl, rfl, rfl, rfl⟩, rfl, rfl, rfl, ⟨rfl, rfl⟩⟩

/-- Where a thread stands after an issue that completes. -/
theorem Run.teamAfter_pc {r : Run} (hg : r.halt = .go) (hp : r.pf = 0) (hq : r.post = none) {i : Nat} (hi : i < r.t.threads.length) :
    (r.teamAfter.thread i).pc = if hasBit r.cands i ∧ hasBit r.moved i = false then r.nxt else (r.t.thread i).pc := by
  obtain ⟨st, e⟩ := Run.teamAfter_thread hg hp hq hi
  rw [e]
  show (r.threadAfter false i (r.t.thread i)).pc = _
  simp only [Run.threadAfter, hp, show hasBit (0 : BitVec 32) i = false by simp [hasBit], Bool.false_and, Bool.false_eq_true, if_false]
  by_cases hc : hasBit r.cands i = true
  · rw [if_pos hc]
    by_cases hm : hasBit r.moved i = true
    · rw [if_pos hm, if_neg (show ¬(hasBit r.cands i = true ∧ hasBit r.moved i = false) by simp [hm])]
      by_cases hk : hasBit r.park i = true
      · rw [if_pos hk]
      · rw [if_neg hk]; split <;> rfl
    · rw [if_neg hm, if_pos (show hasBit r.cands i = true ∧ hasBit r.moved i = false from ⟨hc, by simpa using hm⟩)]
  · rw [if_neg hc, if_neg (show ¬(hasBit r.cands i = true ∧ hasBit r.moved i = false) by simp [hc])]

/-- The status of a team after an issue that completes with a thread not in EXIT is not DONE. -/
theorem Run.teamAfter_live {r : Run} (hg : r.halt = .go) (hp : r.pf = 0) (hq : r.post = none) {i : Nat} (hi : i < r.t.threads.length)
    (hl : (r.t.thread i).st ≠ .exit) : r.teamAfter.st ≠ .done := by
  rw [Run.teamAfter_go hg hp hq]
  obtain ⟨n, x, e⟩ := Team.watch_same r.threadsAfter.settle (r.div && !r.replaying && !r.resumed)
  rw [e]
  have hlen : i < r.threadsAfter.settle.threads.length := by simpa [Team.settle, Run.threadsAfter, mapThreads_length] using hi
  have h1 : (r.threadsAfter.settle.thread i).st ≠ .exit := by
    rw [Ne, Team.settle_live, Run.threadsAfter_thread r hi]
    intro hx
    apply hl
    revert hx
    simp only [Run.threadAfter, hp, show hasBit (0 : BitVec 32) i = false by simp [hasBit], Bool.false_and, Bool.false_eq_true, if_false]
    by_cases hc : hasBit r.cands i = true
    · rw [if_pos hc]
      by_cases hm : hasBit r.moved i = true
      · rw [if_pos hm]
        by_cases hk : hasBit r.park i = true
        · rw [if_pos hk]; intro h; cases h
        · rw [if_neg hk]
          by_cases hf : (r.t.thread i).st = .fault
          · rw [if_pos hf]; intro h; cases h
          · rw [if_neg hf]; exact id
      · rw [if_neg hm]
        by_cases hk : hasBit r.park i = true
        · rw [if_pos hk]; intro h; cases h
        · rw [if_neg hk]
          by_cases hf : (r.t.thread i).st = .fault
          · rw [if_pos hf]; intro h; cases h
          · rw [if_neg hf]; exact id
    · rw [if_neg hc]; exact id
  unfold Team.afterIssue
  split
  · rename_i ha
    exfalso
    have : (r.threadsAfter.settle.threads).all (fun h => decide (h.st = .exit)) = true := ha
    rw [List.all_eq_true] at this
    have h2 := this _ (List.getElem_mem hlen)
    apply h1
    simpa [Team.thread, List.getD_eq_getElem?_getD, List.getElem?_eq_getElem hlen] using h2
  · split <;> simp

/-- The end of an issue that completes with a thread not in EXIT: the team is put back. -/
theorem Run.finish_go {r : Run} (hg : r.halt = .go) (hp : r.pf = 0) (hq : r.post = none) {i : Nat} (hi : i < r.t.threads.length)
    (hl : (r.t.thread i).st ≠ .exit) : r.finish = r.s.putWg (r.w.putTeam r.teamAfter) := by
  have h := Run.teamAfter_live hg hp hq hi hl
  simp only [Run.finish, hg, if_neg h]

end Sys2Proof.Machine
end

