-- ==== Sys2Proof/Laws/PerInstr.lean ====
section
/-! SUPPORT. Of each constructor: the opcode that the encoder gives it is the one that the decoder reads it from. -/
namespace Sys2Proof.Laws.Coded

/-- Where an instruction has a major opcode, the decoder builds this instruction from that opcode and its fields (R84); `movi` has a rule of its own (R66). -/
def Statement (i : Instr) : Prop :=
  ∀ op e, i.opEnc = some (op, e) → (op = 0x001 ∧ ∃ lit, i = .movi e lit) ∨ (ctorOf op).map (fun k => k e) = some i

theorem mov (e : Enc) : Statement (.mov e) := fun _ _ h => by cases h; exact .inr rfl
theorem movi (e : Enc) (lit : BitVec 64) : Statement (.movi e lit) := fun _ _ h => by cases h; exact .inl ⟨rfl, lit, rfl⟩
theorem add (e : Enc) : Statement (.add e) := fun _ _ h => by cases h; exact .inr rfl
theorem sub (e : Enc) : Statement (.sub e) := fun _ _ h => by cases h; exact .inr rfl
theorem addc (e : Enc) : Statement (.addc e) := fun _ _ h => by cases h; exact .inr rfl
theorem subb (e : Enc) : Statement (.subb e) := fun _ _ h => by cases h; exact .inr rfl
theorem mul (e : Enc) : Statement (.mul e) := fun _ _ h => by cases h; exact .inr rfl
theorem mulhi (e : Enc) : Statement (.mulhi e) := fun _ _ h => by cases h; exact .inr rfl
theorem mad (e : Enc) : Statement (.mad e) := fun _ _ h => by cases h; exact .inr rfl
theorem madhi (e : Enc) : Statement (.madhi e) := fun _ _ h => by cases h; exact .inr rfl
theorem div (e : Enc) : Statement (.div e) := fun _ _ h => by cases h; exact .inr rfl
theorem rem (e : Enc) : Statement (.rem e) := fun _ _ h => by cases h; exact .inr rfl
theorem neg (e : Enc) : Statement (.neg e) := fun _ _ h => by cases h; exact .inr rfl
theorem abs (e : Enc) : Statement (.abs e) := fun _ _ h => by cases h; exact .inr rfl
theorem min (e : Enc) : Statement (.min e) := fun _ _ h => by cases h; exact .inr rfl
theorem max (e : Enc) : Statement (.max e) := fun _ _ h => by cases h; exact .inr rfl
theorem clamp (e : Enc) : Statement (.clamp e) := fun _ _ h => by cases h; exact .inr rfl
theorem sad (e : Enc) : Statement (.sad e) := fun _ _ h => by cases h; exact .inr rfl
theorem and (e : Enc) : Statement (.and e) := fun _ _ h => by cases h; exact .inr rfl
theorem or (e : Enc) : Statement (.or e) := fun _ _ h => by cases h; exact .inr rfl
theorem xor (e : Enc) : Statement (.xor e) := fun _ _ h => by cases h; exact .inr rfl
theorem not (e : Enc) : Statement (.not e) := fun _ _ h => by cases h; exact .inr rfl
theorem andn (e : Enc) : Statement (.andn e) := fun _ _ h => by cases h; exact .inr rfl
theorem shl (e : Enc) : Statement (.shl e) := fun _ _ h => by cases h; exact .inr rfl
theorem shr (e : Enc) : Statement (.shr e) := fun _ _ h => by cases h; exact .inr rfl
theorem sar (e : Enc) : Statement (.sar e) := fun _ _ h => by cases h; exact .inr rfl
theorem rotl (e : Enc) : Statement (.rotl e) := fun _ _ h => by cases h; exact .inr rfl
theorem rotr (e : Enc) : Statement (.rotr e) := fun _ _ h => by cases h; exact .inr rfl
theorem clz (e : Enc) : Statement (.clz e) := fun _ _ h => by cases h; exact .inr rfl
theorem ctz (e : Enc) : Statement (.ctz e) := fun _ _ h => by cases h; exact .inr rfl
theorem popc (e : Enc) : Statement (.popc e) := fun _ _ h => by cases h; exact .inr rfl
theorem brev (e : Enc) : Statement (.brev e) := fun _ _ h => by cases h; exact .inr rfl
theorem bfe (e : Enc) : Statement (.bfe e) := fun _ _ h => by cases h; exact .inr rfl
theorem bfi (e : Enc) : Statement (.bfi e) := fun _ _ h => by cases h; exact .inr rfl
theorem sel (e : Enc) : Statement (.sel e) := fun _ _ h => by cases h; exact .inr rfl
theorem setp (e : Enc) : Statement (.setp e) := fun _ _ h => by cases h; exact .inr rfl
theorem lea (e : Enc) : Statement (.lea e) := fun _ _ h => by cases h; exact .inr rfl
theorem mad24 (e : Enc) : Statement (.mad24 e) := fun _ _ h => by cases h; exact .inr rfl
theorem fadd (e : Enc) : Statement (.fadd e) := fun _ _ h => by cases h; exact .inr rfl
theorem fsub (e : Enc) : Statement (.fsub e) := fun _ _ h => by cases h; exact .inr rfl
theorem fmul (e : Enc) : Statement (.fmul e) := fun _ _ h => by cases h; exact .inr rfl
theorem fma (e : Enc) : Statement (.fma e) := fun _ _ h => by cases h; exact .inr rfl
theorem fmin (e : Enc) : Statement (.fmin e) := fun _ _ h => by cases h; exact .inr rfl
theorem fmax (e : Enc) : Statement (.fmax e) := fun _ _ h => by cases h; exact .inr rfl
theorem fabs (e : Enc) : Statement (.fabs e) := fun _ _ h => by cases h; exact .inr rfl
theorem fneg (e : Enc) : Statement (.fneg e) := fun _ _ h => by cases h; exact .inr rfl
theorem fsgn (e : Enc) : Statement (.fsgn e) := fun _ _ h => by cases h; exact .inr rfl
theorem fsetp (e : Enc) : Statement (.fsetp e) := fun _ _ h => by cases h; exact .inr rfl
theorem fclass (e : Enc) : Statement (.fclass e) := fun _ _ h => by cases h; exact .inr rfl
theorem frnd (e : Enc) : Statement (.frnd e) := fun _ _ h => by cases h; exact .inr rfl
theorem frcp (e : Enc) : Statement (.frcp e) := fun _ _ h => by cases h; exact .inr rfl
theorem frsq (e : Enc) : Statement (.frsq e) := fun _ _ h => by cases h; exact .inr rfl
theorem fsqrt (e : Enc) : Statement (.fsqrt e) := fun _ _ h => by cases h; exact .inr rfl
theorem fdiv (e : Enc) : Statement (.fdiv e) := fun _ _ h => by cases h; exact .inr rfl
theorem fexp2 (e : Enc) : Statement (.fexp2 e) := fun _ _ h => by cases h; exact .inr rfl
theorem flog2 (e : Enc) : Statement (.flog2 e) := fun _ _ h => by cases h; exact .inr rfl
theorem fsin (e : Enc) : Statement (.fsin e) := fun _ _ h => by cases h; exact .inr rfl
theorem fcos (e : Enc) : Statement (.fcos e) := fun _ _ h => by cases h; exact .inr rfl
theorem ftanh (e : Enc) : Statement (.ftanh e) := fun _ _ h => by cases h; exact .inr rfl
theorem fscale (e : Enc) : Statement (.fscale e) := fun _ _ h => by cases h; exact .inr rfl
theorem fexpo (e : Enc) : Statement (.fexpo e) := fun _ _ h => by cases h; exact .inr rfl
theorem frcpa (e : Enc) : Statement (.frcpa e) := fun _ _ h => by cases h; exact .inr rfl
theorem cvt (e : Enc) : Statement (.cvt e) := fun _ _ h => by cases h; exact .inr rfl
theorem pack (e : Enc) : Statement (.pack e) := fun _ _ h => by cases h; exact .inr rfl
theorem prm (e : Enc) : Statement (.prm e) := fun _ _ h => by cases h; exact .inr rfl
theorem dot2 (e : Enc) : Statement (.dot2 e) := fun _ _ h => by cases h; exact .inr rfl
theorem dot4 (e : Enc) : Statement (.dot4 e) := fun _ _ h => by cases h; exact .inr rfl
theorem dot8 (e : Enc) : Statement (.dot8 e) := fun _ _ h => by cases h; exact .inr rfl
theorem lcdec (e : Enc) : Statement (.lcdec e) := fun _ _ h => by cases h; exact .inr rfl
theorem bra (e : Enc) : Statement (.bra e) := fun _ _ h => by cases h; exact .inr rfl
theorem brx (e : Enc) : Statement (.brx e) := fun _ _ h => by cases h; exact .inr rfl
theorem call (e : Enc) : Statement (.call e) := fun _ _ h => by cases h; exact .inr rfl
theorem callx (e : Enc) : Statement (.callx e) := fun _ _ h => by cases h; exact .inr rfl
theorem ret (e : Enc) : Statement (.ret e) := fun _ _ h => by cases h; exact .inr rfl
theorem exit (e : Enc) : Statement (.exit e) := fun _ _ h => by cases h; exact .inr rfl
theorem loop (e : Enc) : Statement (.loop e) := fun _ _ h => by cases h; exact .inr rfl
theorem endloop (e : Enc) : Statement (.endloop e) := fun _ _ h => by cases h; exact .inr rfl
theorem yield (e : Enc) : Statement (.yield e) := fun _ _ h => by cases h; exact .inr rfl
theorem reconv (e : Enc) : Statement (.reconv e) := fun _ _ h => by cases h; exact .inr rfl
theorem rjoin (e : Enc) : Statement (.rjoin e) := fun _ _ h => by cases h; exact .inr rfl
theorem mpush (e : Enc) : Statement (.mpush e) := fun _ _ h => by cases h; exact .inr rfl
theorem minv (e : Enc) : Statement (.minv e) := fun _ _ h => by cases h; exact .inr rfl
theorem mpop (e : Enc) : Statement (.mpop e) := fun _ _ h => by cases h; exact .inr rfl
theorem bzm (e : Enc) : Statement (.bzm e) := fun _ _ h => by cases h; exact .inr rfl
theorem dqpop (e : Enc) : Statement (.dqpop e) := fun _ _ h => by cases h; exact .inr rfl
theorem nop (e : Enc) : Statement (.nop e) := fun _ _ h => by cases h; exact .inr rfl
theorem brk (e : Enc) : Statement (.brk e) := fun _ _ h => by cases h; exact .inr rfl
theorem trap (e : Enc) : Statement (.trap e) := fun _ _ h => by cases h; exact .inr rfl
theorem xprev (e : Enc) : Statement (.xprev e) := fun _ _ h => by cases h; exact .inr rfl
theorem xnext (e : Enc) : Statement (.xnext e) := fun _ _ h => by cases h; exact .inr rfl
theorem xbcast (e : Enc) : Statement (.xbcast e) := fun _ _ h => by cases h; exact .inr rfl
theorem xscan (e : Enc) : Statement (.xscan e) := fun _ _ h => by cases h; exact .inr rfl
theorem xred (e : Enc) : Statement (.xred e) := fun _ _ h => by cases h; exact .inr rfl
theorem ballot (e : Enc) : Statement (.ballot e) := fun _ _ h => by cases h; exact .inr rfl
theorem vote (e : Enc) : Statement (.vote e) := fun _ _ h => by cases h; exact .inr rfl
theorem xmatch (e : Enc) : Statement (.xmatch e) := fun _ _ h => by cases h; exact .inr rfl
theorem tidx (e : Enc) : Statement (.tidx e) := fun _ _ h => by cases h; exact .inr rfl
theorem actc (e : Enc) : Statement (.actc e) := fun _ _ h => by cases h; exact .inr rfl
theorem ld (e : Enc) : Statement (.ld e) := fun _ _ h => by cases h; exact .inr rfl
theorem st (e : Enc) : Statement (.st e) := fun _ _ h => by cases h; exact .inr rfl
theorem ldg (e : Enc) : Statement (.ldg e) := fun _ _ h => by cases h; exact .inr rfl
theorem stsc (e : Enc) : Statement (.stsc e) := fun _ _ h => by cases h; exact .inr rfl
theorem cst (e : Enc) : Statement (.cst e) := fun _ _ h => by cases h; exact .inr rfl
theorem exl (e : Enc) : Statement (.exl e) := fun _ _ h => by cases h; exact .inr rfl
theorem atom (e : Enc) : Statement (.atom e) := fun _ _ h => by cases h; exact .inr rfl
theorem red (e : Enc) : Statement (.red e) := fun _ _ h => by cases h; exact .inr rfl
theorem fence (e : Enc) : Statement (.fence e) := fun _ _ h => by cases h; exact .inr rfl
theorem pf (e : Enc) : Statement (.pf e) := fun _ _ h => by cases h; exact .inr rfl
theorem cinv (e : Enc) : Statement (.cinv e) := fun _ _ h => by cases h; exact .inr rfl
theorem cwb (e : Enc) : Statement (.cwb e) := fun _ _ h => by cases h; exact .inr rfl
theorem sbind (e : Enc) : Statement (.sbind e) := fun _ _ h => by cases h; exact .inr rfl
theorem sclose (e : Enc) : Statement (.sclose e) := fun _ _ h => by cases h; exact .inr rfl
theorem cpy (e : Enc) : Statement (.cpy e) := fun _ _ h => by cases h; exact .inr rfl
theorem cpyt (e : Enc) : Statement (.cpyt e) := fun _ _ h => by cases h; exact .inr rfl
theorem cpyg (e : Enc) : Statement (.cpyg e) := fun _ _ h => by cases h; exact .inr rfl
theorem ringpush (e : Enc) : Statement (.ringpush e) := fun _ _ h => by cases h; exact .inr rfl
theorem kvpatch (e : Enc) : Statement (.kvpatch e) := fun _ _ h => by cases h; exact .inr rfl
theorem rerot (e : Enc) : Statement (.rerot e) := fun _ _ h => by cases h; exact .inr rfl
theorem cwait (e : Enc) : Statement (.cwait e) := fun _ _ h => by cases h; exact .inr rfl
theorem cstat (e : Enc) : Statement (.cstat e) := fun _ _ h => by cases h; exact .inr rfl
theorem fmt (e : Enc) : Statement (.fmt e) := fun _ _ h => by cases h; exact .inr rfl
theorem nestw (e : Enc) : Statement (.nestw e) := fun _ _ h => by cases h; exact .inr rfl
theorem pgo (e : Enc) : Statement (.pgo e) := fun _ _ h => by cases h; exact .inr rfl
theorem pwait (e : Enc) : Statement (.pwait e) := fun _ _ h => by cases h; exact .inr rfl
theorem pstat (e : Enc) : Statement (.pstat e) := fun _ _ h => by cases h; exact .inr rfl
theorem vclr (e : Enc) : Statement (.vclr e) := fun _ _ h => by cases h; exact .inr rfl
theorem vld (e : Enc) : Statement (.vld e) := fun _ _ h => by cases h; exact .inr rfl
theorem vst (e : Enc) : Statement (.vst e) := fun _ _ h => by cases h; exact .inr rfl
theorem vacc (e : Enc) : Statement (.vacc e) := fun _ _ h => by cases h; exact .inr rfl
theorem ringinit (e : Enc) : Statement (.ringinit e) := fun _ _ h => by cases h; exact .inr rfl
theorem ringstat (e : Enc) : Statement (.ringstat e) := fun _ _ h => by cases h; exact .inr rfl
theorem pdirMt (tile : BitVec 7) (a b : BitVec 12) : Statement (.pdirMt tile a b) := fun _ _ h => nomatch h
theorem binit (e : Enc) : Statement (.binit e) := fun _ _ h => by cases h; exact .inr rfl
theorem barr (e : Enc) : Statement (.barr e) := fun _ _ h => by cases h; exact .inr rfl
theorem bwait (e : Enc) : Statement (.bwait e) := fun _ _ h => by cases h; exact .inr rfl
theorem bsync (e : Enc) : Statement (.bsync e) := fun _ _ h => by cases h; exact .inr rfl
theorem blink (e : Enc) : Statement (.blink e) := fun _ _ h => by cases h; exact .inr rfl
theorem binv (e : Enc) : Statement (.binv e) := fun _ _ h => by cases h; exact .inr rfl
theorem btest (e : Enc) : Statement (.btest e) := fun _ _ h => by cases h; exact .inr rfl
theorem srd (e : Enc) : Statement (.srd e) := fun _ _ h => by cases h; exact .inr rfl
theorem swr (e : Enc) : Statement (.swr e) := fun _ _ h => by cases h; exact .inr rfl
theorem clk (e : Enc) : Statement (.clk e) := fun _ _ h => by cases h; exact .inr rfl
theorem nsend (e : Enc) : Statement (.nsend e) := fun _ _ h => by cases h; exact .inr rfl
theorem nrecv (e : Enc) : Statement (.nrecv e) := fun _ _ h => by cases h; exact .inr rfl
theorem rpart (e : Enc) : Statement (.rpart e) := fun _ _ h => by cases h; exact .inr rfl
theorem wdraw (e : Enc) : Statement (.wdraw e) := fun _ _ h => by cases h; exact .inr rfl
theorem prof (e : Enc) : Statement (.prof e) := fun _ _ h => by cases h; exact .inr rfl
theorem halt (e : Enc) : Statement (.halt e) := fun _ _ h => by cases h; exact .inr rfl
theorem sleep (e : Enc) : Statement (.sleep e) := fun _ _ h => by cases h; exact .inr rfl
theorem clauseStart (h : ClauseHeader) : Statement (.clauseStart h) := fun _ _ h => nomatch h
theorem bundleIssue (b : Bundle) : Statement (.bundleIssue b) := fun _ _ h => nomatch h
theorem longLatencyComplete (wg tix k : Nat) : Statement (.longLatencyComplete wg tix k) := fun _ _ h => nomatch h
theorem streamElementArrival (wg tix q : Nat) : Statement (.streamElementArrival wg tix q) := fun _ _ h => nomatch h
theorem combiningDrainTimeout (wg tix block : Nat) : Statement (.combiningDrainTimeout wg tix block) := fun _ _ h => nomatch h
theorem teamWatchdogExpiry (wg tix : Nat) : Statement (.teamWatchdogExpiry wg tix) := fun _ _ h => nomatch h
theorem sleepExpiry (wg tix : Nat) : Statement (.sleepExpiry wg tix) := fun _ _ h => nomatch h
theorem pressActivate (op : Nat) : Statement (.pressActivate op) := fun _ _ h => nomatch h
theorem microtileStart (op step : Nat) : Statement (.microtileStart op step) := fun _ _ h => nomatch h
theorem microtileRetire (op step : Nat) : Statement (.microtileRetire op step) := fun _ _ h => nomatch h
theorem ringTailAdvance (op : Nat) : Statement (.ringTailAdvance op) := fun _ _ h => nomatch h
theorem copyComplete (op n : Nat) : Statement (.copyComplete op n) := fun _ _ h => nomatch h
theorem rpartJoin (op : Nat) : Statement (.rpartJoin op) := fun _ _ h => nomatch h
theorem rpartComplete (op : Nat) : Statement (.rpartComplete op) := fun _ _ h => nomatch h
theorem workgroupDone (wg : Nat) : Statement (.workgroupDone wg) := fun _ _ h => nomatch h
theorem nodeComplete (node : Nat) : Statement (.nodeComplete node) := fun _ _ h => nomatch h
theorem queKick (q : Nat) (w : BitVec 64) : Statement (.queKick q w) := fun _ _ h => nomatch h
theorem parsePad (q : Nat) : Statement (.parsePad q) := fun _ _ h => nomatch h
theorem parseLaunch (q : Nat) : Statement (.parseLaunch q) := fun _ _ h => nomatch h
theorem parseLoad (q : Nat) : Statement (.parseLoad q) := fun _ _ h => nomatch h
theorem parseUnload (q : Nat) : Statement (.parseUnload q) := fun _ _ h => nomatch h
theorem parseJoin (q : Nat) : Statement (.parseJoin q) := fun _ _ h => nomatch h
theorem unloadComplete (obj : Nat) : Statement (.unloadComplete obj) := fun _ _ h => nomatch h
theorem queWdraw (x : BitVec 64) : Statement (.queWdraw x) := fun _ _ h => nomatch h
theorem translationComplete (entry : Nat) : Statement (.translationComplete entry) := fun _ _ h => nomatch h
theorem reoptimisationComplete (entry : Nat) : Statement (.reoptimisationComplete entry) := fun _ _ h => nomatch h
theorem stokerFailure (k : Nat) : Statement (.stokerFailure k) := fun _ _ h => nomatch h
theorem coreRetirement (core : Nat) : Statement (.coreRetirement core) := fun _ _ h => nomatch h
theorem ctxCreate (c : Nat) (r : Request) : Statement (.ctxCreate c r) := fun _ _ h => nomatch h
theorem ctxDestroy (c : Nat) (r : Request) : Statement (.ctxDestroy c r) := fun _ _ h => nomatch h
theorem ctxPreempt (c : Nat) (r : Request) : Statement (.ctxPreempt c r) := fun _ _ h => nomatch h
theorem ctxResume (c : Nat) (r : Request) : Statement (.ctxResume c r) := fun _ _ h => nomatch h
theorem qcreate (c : Nat) (r : Request) : Statement (.qcreate c r) := fun _ _ h => nomatch h
theorem qdestroy (c : Nat) (r : Request) : Statement (.qdestroy c r) := fun _ _ h => nomatch h
theorem qreset (c : Nat) (r : Request) : Statement (.qreset c r) := fun _ _ h => nomatch h
theorem readsave (c : Nat) (r : Request) : Statement (.readsave c r) := fun _ _ h => nomatch h
theorem gangrec (c : Nat) (r : Request) : Statement (.gangrec c r) := fun _ _ h => nomatch h
theorem dbgcont (c : Nat) (r : Request) : Statement (.dbgcont c r) := fun _ _ h => nomatch h
theorem rearm (c : Nat) (r : Request) : Statement (.rearm c r) := fun _ _ h => nomatch h
theorem politeWindowExpiry (c : Nat) : Statement (.politeWindowExpiry c) := fun _ _ h => nomatch h
theorem cutBackTimeout (wg tix : Nat) : Statement (.cutBackTimeout wg tix) := fun _ _ h => nomatch h
theorem workgroupSave (wg : Nat) : Statement (.workgroupSave wg) := fun _ _ h => nomatch h
theorem pageMap (c : Nat) (b : PageBlock) : Statement (.pageMap c b) := fun _ _ h => nomatch h
theorem pageUnmap (c : Nat) (b : PageBlock) : Statement (.pageUnmap c b) := fun _ _ h => nomatch h
theorem pageProt (c : Nat) (b : PageBlock) : Statement (.pageProt c b) := fun _ _ h => nomatch h
theorem pageEvict (c : Nat) (b : PageBlock) : Statement (.pageEvict c b) := fun _ _ h => nomatch h
theorem pageMigrate (c : Nat) (b : PageBlock) : Statement (.pageMigrate c b) := fun _ _ h => nomatch h
theorem pageQuery (c : Nat) (b : PageBlock) : Statement (.pageQuery c b) := fun _ _ h => nomatch h
theorem demandFill (c va : Nat) : Statement (.demandFill c va) := fun _ _ h => nomatch h
theorem tlbMissWalk (c core va : Nat) : Statement (.tlbMissWalk c core va) := fun _ _ h => nomatch h
theorem linkRead (p : Packet) : Statement (.linkRead p) := fun _ _ h => nomatch h
theorem linkWrite (p : Packet) : Statement (.linkWrite p) := fun _ _ h => nomatch h
theorem linkAtomic (p : Packet) : Statement (.linkAtomic p) := fun _ _ h => nomatch h
theorem linkReply (p : Packet) : Statement (.linkReply p) := fun _ _ h => nomatch h
theorem linkAck (p : Packet) : Statement (.linkAck p) := fun _ _ h => nomatch h
theorem linkRpart (p : Packet) : Statement (.linkRpart p) := fun _ _ h => nomatch h
theorem linkControl (p : Packet) (m : Control) : Statement (.linkControl p m) := fun _ _ h => nomatch h
theorem gangAbortReceived (c gangid gen : Nat) (missing : List Nat) : Statement (.gangAbortReceived c gangid gen missing) := fun _ _ h => nomatch h
theorem retransmitTimeout (dst seq : Nat) : Statement (.retransmitTimeout dst seq) := fun _ _ h => nomatch h
theorem peerUnreachable (dst : Nat) : Statement (.peerUnreachable dst) := fun _ _ h => nomatch h
theorem lightDetected (port : Nat) : Statement (.lightDetected port) := fun _ _ h => nomatch h
theorem portTrained (port slot : Nat) : Statement (.portTrained port slot) := fun _ _ h => nomatch h
theorem trainTimeout (port : Nat) : Statement (.trainTimeout port) := fun _ _ h => nomatch h
theorem flitCrcFail (port : Nat) : Statement (.flitCrcFail port) := fun _ _ h => nomatch h
theorem lossOfLight (port : Nat) : Statement (.lossOfLight port) := fun _ _ h => nomatch h
theorem portRetrain (port : Nat) : Statement (.portRetrain port) := fun _ _ h => nomatch h
theorem lnkKeyld (addr : BitVec 64) : Statement (.lnkKeyld addr) := fun _ _ h => nomatch h
theorem keyExhaustTimeout (peer : Nat) : Statement (.keyExhaustTimeout peer) := fun _ _ h => nomatch h
theorem ptpMessage (offset : Int) : Statement (.ptpMessage offset) := fun _ _ h => nomatch h
theorem gangInstant (c : Nat) : Statement (.gangInstant c) := fun _ _ h => nomatch h
theorem gangGraceExpiry (c : Nat) : Statement (.gangGraceExpiry c) := fun _ _ h => nomatch h
theorem ctxFqWrite (c : Nat) (x : BitVec 64) : Statement (.ctxFqWrite c x) := fun _ _ h => nomatch h
theorem hostRegisterWrite (off : Nat) (x : BitVec 64) : Statement (.hostRegisterWrite off x) := fun _ _ h => nomatch h
theorem hostMemoryWrite (addr : Nat) (bytes : List Byte) : Statement (.hostMemoryWrite addr bytes) := fun _ _ h => nomatch h
theorem hostMemoryRead (addr n : Nat) : Statement (.hostMemoryRead addr n) := fun _ _ h => nomatch h
theorem mgmtIdent (signed : Bool) : Statement (.mgmtIdent signed) := fun _ _ h => nomatch h
theorem mgmtSetid (signed : Bool) (id : Nat) : Statement (.mgmtSetid signed id) := fun _ _ h => nomatch h
theorem mgmtReset (signed : Bool) (b : BootInfo) : Statement (.mgmtReset signed b) := fun _ _ h => nomatch h
theorem powerUp (b : BootInfo) : Statement (.powerUp b) := fun _ _ h => nomatch h
theorem perst (b : BootInfo) : Statement (.perst b) := fun _ _ h => nomatch h
theorem hotReset (b : BootInfo) : Statement (.hotReset b) := fun _ _ h => nomatch h
theorem functionLevelReset (b : BootInfo) : Statement (.functionLevelReset b) := fun _ _ h => nomatch h
theorem fwWatchdogExpiry (die : Nat) : Statement (.fwWatchdogExpiry die) := fun _ _ h => nomatch h
theorem pkgOverChange (above : Bool) : Statement (.pkgOverChange above) := fun _ _ h => nomatch h
theorem softError (at_ : ErrLoc) : Statement (.softError at_) := fun _ _ h => nomatch h
theorem scrubbing (at_ : ErrLoc) : Statement (.scrubbing at_) := fun _ _ h => nomatch h
theorem feedValueArrival (wg tix : Nat) : Statement (.feedValueArrival wg tix) := fun _ _ h => nomatch h
theorem pdirOn : Statement (.pdirOn) := fun _ _ h => nomatch h
theorem pdirOff : Statement (.pdirOff) := fun _ _ h => nomatch h
theorem distributorPass : Statement (.distributorPass) := fun _ _ h => nomatch h
theorem rotorSlot : Statement (.rotorSlot) := fun _ _ h => nomatch h
theorem ptpLockAchieved : Statement (.ptpLockAchieved) := fun _ _ h => nomatch h
theorem ptpLockLost : Statement (.ptpLockLost) := fun _ _ h => nomatch h
theorem holdoverExpiry : Statement (.holdoverExpiry) := fun _ _ h => nomatch h
theorem thermalWarning : Statement (.thermalWarning) := fun _ _ h => nomatch h
theorem thermalTrip : Statement (.thermalTrip) := fun _ _ h => nomatch h
theorem d3hotEntry : Statement (.d3hotEntry) := fun _ _ h => nomatch h
theorem d0Return : Statement (.d0Return) := fun _ _ h => nomatch h
theorem firmwareUpdate : Statement (.firmwareUpdate) := fun _ _ h => nomatch h
theorem powerLoss : Statement (.powerLoss) := fun _ _ h => nomatch h
theorem ldsh (w0 : BitVec 64) (x : Option (BitVec 64)) : Statement (.ldsh w0 x) := fun _ _ h => nomatch h
theorem pmma (w0 : BitVec 64) (x : Option (BitVec 64)) : Statement (.pmma w0 x) := fun _ _ h => nomatch h
theorem bwt (w0 : BitVec 64) (x : Option (BitVec 64)) : Statement (.bwt w0 x) := fun _ _ h => nomatch h
theorem trapStubIssue (w0 : BitVec 64) (x : Option (BitVec 64)) : Statement (.trapStubIssue w0 x) := fun _ _ h => nomatch h

end Sys2Proof.Laws.Coded
end

