-- ==== Sys2Proof/Laws/Sparse.lean ====
section
/-! SUPPORT. Sparse data: a write is read back, leaves every other index alone, and keeps the canonical form. -/
namespace Sys2Proof.Machine

variable {α : Type}

theorem spAbove_weaken {b c : Nat} (h : b ≤ c) : ∀ {m : List (Nat × α)}, spAbove c m = true → spAbove b m = true
  | [], _ => rfl
  | (k, _) :: r, hm => by
    simp only [spAbove, Bool.and_eq_true, decide_eq_true_eq] at hm ⊢
    exact ⟨by omega, spAbove_weaken h hm.2⟩

/-- An index at or below a bound is unlisted. -/
theorem spGet_of_above (d : α) {i : Nat} : ∀ {m : List (Nat × α)} {b : Nat}, spAbove b m = true → i ≤ b → spGet d m i = d
  | [], _, _, _ => rfl
  | (k, _) :: r, b, hm, hi => by
    simp only [spAbove, Bool.and_eq_true, decide_eq_true_eq] at hm
    have hne : i ≠ k := by omega
    simp only [spGet, if_neg hne]
    exact spGet_of_above d hm.2 hi

variable [DecidableEq α]

theorem spAbove_spSet (d : α) {b i : Nat} (x : α) (hi : b < i) :
    ∀ {m : List (Nat × α)}, spAbove b m = true → spAbove b (spSet d m i x) = true
  | [], _ => by by_cases h : x = d <;> simp [spSet, h, spAbove, hi]
  | (k, y) :: r, hm => by
    have hm' := hm
    simp only [spAbove, Bool.and_eq_true, decide_eq_true_eq] at hm
    unfold spSet
    split
    · split
      · exact hm'
      · simp [spAbove, hi, hm.1, hm.2]
    · split
      · split
        · exact hm.2
        · simp [spAbove, hi, hm.2]
      · simp [spAbove, hm.1, spAbove_spSet d x hi hm.2]

/-- Setting an index keeps the canonical form. -/
theorem spWf_spSet (d : α) (i : Nat) (x : α) : ∀ {m : List (Nat × α)}, spWf d m = true → spWf d (spSet d m i x) = true
  | [], _ => by by_cases h : x = d <;> simp [spSet, h, spWf, spAbove]
  | (k, y) :: r, hm => by
    have hm' := hm
    simp only [spWf, Bool.and_eq_true, decide_eq_true_eq] at hm
    unfold spSet
    split
    · rename_i hik
      split
      · exact hm'
      · rename_i hx
        simp only [spWf, spAbove, Bool.and_eq_true, decide_eq_true_eq]
        exact ⟨⟨hx, hik, spAbove_weaken (by omega) hm.1.2⟩, hm.1, hm.2⟩
    · split
      · rename_i hik
        subst hik
        split
        · exact hm.2
        · rename_i hx
          simp only [spWf, Bool.and_eq_true, decide_eq_true_eq]
          exact ⟨⟨hx, hm.1.2⟩, hm.2⟩
      · rename_i hlt hne
        simp only [spWf, Bool.and_eq_true, decide_eq_true_eq]
        exact ⟨⟨hm.1.1, spAbove_spSet d x (by omega) hm.1.2⟩, spWf_spSet d i x hm.2⟩

/-- A read after a write of one index. -/
theorem spGet_spSet (d : α) (i j : Nat) (x : α) :
    ∀ {m : List (Nat × α)}, spWf d m = true → spGet d (spSet d m i x) j = if j = i then x else spGet d m j
  | [], _ => by
    by_cases h : x = d <;> by_cases hj : j = i <;> simp [spSet, spGet, h, hj]
  | (k, y) :: r, hm => by
    simp only [spWf, Bool.and_eq_true, decide_eq_true_eq] at hm
    unfold spSet
    split
    · rename_i hik
      split
      · rename_i hx
        by_cases hj : j = i
        · subst hj
          simp only [spGet, if_neg (show j ≠ k by omega), if_true, hx]
          exact spGet_of_above d hm.1.2 (by omega)
        · simp [hj]
      · by_cases hj : j = i <;> simp [spGet, hj]
    · split
      · rename_i hik
        subst hik
        split
        · rename_i hx
          by_cases hj : j = i
          · subst hj
            simp only [if_true, hx]
            exact spGet_of_above d hm.1.2 (Nat.le_refl _)
          · simp [spGet, hj]
        · by_cases hj : j = i <;> simp [spGet, hj]
      · rename_i hlt hne
        have ih := spGet_spSet d i j x hm.2
        by_cases hjk : j = k
        · subst hjk
          simp [spGet, show ¬ j = i by omega]
        · simp [spGet, hjk, ih]

/-- Setting consecutive indices keeps the canonical form. -/
theorem spWf_spPut (d : α) : ∀ (l : List α) {m : List (Nat × α)} (i : Nat), spWf d m = true → spWf d (spPut d m i l) = true
  | [], _, _, h => h
  | x :: r, _, i, h => spWf_spPut d r (i + 1) (spWf_spSet d i x h)

/-- A read outside the indices written gives what it gave. -/
theorem spGet_spPut_out (d : α) : ∀ (l : List α) {m : List (Nat × α)} (i j : Nat), spWf d m = true →
    (j < i ∨ i + l.length ≤ j) → spGet d (spPut d m i l) j = spGet d m j
  | [], _, _, _, _, _ => rfl
  | x :: r, m, i, j, h, ho => by
    simp only [List.length_cons] at ho
    rw [spPut, spGet_spPut_out d r (i + 1) j (spWf_spSet d i x h) (by omega), spGet_spSet d i j x h, if_neg (by omega)]

/-- A read of an index written gives what was written. -/
theorem spGet_spPut_in (d : α) : ∀ (l : List α) {m : List (Nat × α)} (i k : Nat), spWf d m = true → k < l.length →
    spGet d (spPut d m i l) (i + k) = l.getD k d
  | [], _, _, _, _, hk => absurd hk (Nat.not_lt_zero _)
  | x :: r, m, i, 0, h, _ => by
    have e := spGet_spPut_out d r (i + 1) i (spWf_spSet d i x h) (Or.inl (Nat.lt_succ_self i))
    simpa [spPut, spGet_spSet d i i x h] using e
  | x :: r, m, i, k + 1, h, hk => by
    rw [spPut, show i + (k + 1) = (i + 1) + k by omega,
      spGet_spPut_in d r (i + 1) k (spWf_spSet d i x h) (by simpa using hk)]
    simp

omit [DecidableEq α] in
theorem spTake_length (d : α) (m : List (Nat × α)) : ∀ (n i : Nat), (spTake d m i n).length = n
  | 0, _ => rfl
  | n + 1, i => by simp [spTake, spTake_length d m n (i + 1)]

omit [DecidableEq α] in
theorem spTake_getD (d : α) (m : List (Nat × α)) : ∀ (n i k : Nat), k < n → (spTake d m i n).getD k d = spGet d m (i + k)
  | 0, _, _, h => absurd h (Nat.not_lt_zero _)
  | n + 1, i, 0, _ => by simp [spTake]
  | n + 1, i, k + 1, h => by
    have := spTake_getD d m n (i + 1) k (by omega)
    simpa [spTake, show i + 1 + k = i + (k + 1) by omega] using this

/-- Bytes written are read back. -/
theorem spTake_spPut (d : α) (l : List α) {m : List (Nat × α)} (i : Nat) (h : spWf d m = true) :
    spTake d (spPut d m i l) i l.length = l := by
  apply List.ext_getElem
  · exact spTake_length d _ _ _
  · intro k h1 h2
    have e1 := spTake_getD d (spPut d m i l) l.length i k h2
    rw [spGet_spPut_in d l i k h h2] at e1
    simpa [List.getD_eq_getElem?_getD, h1, h2, spTake_length] using e1

/-- Bytes apart from those written are read as before. -/
theorem spTake_spPut_apart (d : α) (l : List α) {m : List (Nat × α)} (i j : Nat) (h : spWf d m = true) :
    ∀ n, (j + n ≤ i ∨ i + l.length ≤ j) → spTake d (spPut d m i l) j n = spTake d m j n := by
  intro n
  induction n generalizing j with
  | zero => intro _; rfl
  | succ n ih =>
    intro ho
    simp only [spTake]
    rw [spGet_spPut_out d l i j h (by omega), ih (j + 1) (by omega)]

theorem spAbove_filter (p : Nat × α → Bool) {b : Nat} : ∀ {m : List (Nat × α)}, spAbove b m = true → spAbove b (m.filter p) = true
  | [], _ => rfl
  | (k, y) :: r, hm => by
    simp only [spAbove, Bool.and_eq_true, decide_eq_true_eq] at hm
    rw [List.filter_cons]
    split
    · simp [spAbove, hm.1, spAbove_filter p hm.2]
    · exact spAbove_filter p hm.2

/-- Leaving entries out keeps the canonical form. -/
theorem spWf_filter (d : α) (p : Nat × α → Bool) : ∀ {m : List (Nat × α)}, spWf d m = true → spWf d (m.filter p) = true
  | [], _ => rfl
  | (k, y) :: r, hm => by
    simp only [spWf, Bool.and_eq_true, decide_eq_true_eq] at hm
    rw [List.filter_cons]
    split
    · simp [spWf, hm.1.1, spAbove_filter p hm.1.2, spWf_filter d p hm.2]
    · exact spWf_filter d p hm.2

/-- Scattered bytes of a frame keep the canonical form. -/
theorem spWf_putBytesAt (base : Nat) : ∀ (l : List (Nat × Byte)) {m : SparseB}, spWf 0 m = true → spWf 0 (putBytesAt base l m) = true
  | [], _, h => h
  | (_, b) :: r, _, h => spWf_putBytesAt base r (spWf_spSet 0 _ b h)

end Sys2Proof.Machine
end

