-- ==== Sys2Proof/Laws/Regs.lean ====
section
/-! SUPPORT. Registers, masks and participants: a write leaves every other register alone; who takes part in an issue; that a team with a lead PC and
nothing to replay has a thread in RUN there. -/
namespace Sys2Proof.Machine

theorem spGet_spSet_ne {α : Type} [DecidableEq α] (d : α) (i j : Nat) (x : α) (h : j ≠ i) : ∀ m : List (Nat × α), spGet d (spSet d m i x) j = spGet d m j
  | [] => by by_cases hx : x = d <;> simp [spSet, spGet, hx, h]
  | (k, y) :: r => by
    have ih := spGet_spSet_ne d i j x h r
    simp only [spSet]
    split
    · split <;> simp [spGet, h]
    · split
      · rename_i hk; subst hk; split <;> simp [spGet, h]
      · simp [spGet, ih]

theorem modNth_getD {α : Type} (f : α → α) (d : α) : ∀ (l : List α) (n j : Nat), (modNth f l n).getD j d = if j = n ∧ j < l.length then f (l.getD j d) else l.getD j d
  | [], n, j => by simp [modNth]
  | x :: r, 0, 0 => by simp [modNth]
  | x :: r, 0, j + 1 => by simp [modNth]
  | x :: r, n + 1, 0 => by simp [modNth]
  | x :: r, n + 1, j + 1 => by
    have ih := modNth_getD f d r n j
    simp only [modNth, List.getD_cons_succ, ih, List.length_cons, Nat.add_right_cancel_iff, Nat.add_lt_add_iff_right]

theorem modNth_length {α : Type} (f : α → α) : ∀ (l : List α) (n : Nat), (modNth f l n).length = l.length
  | [], _ => rfl
  | x :: r, 0 => rfl
  | x :: r, n + 1 => by simp [modNth, modNth_length f r n]

theorem Team.modThread_thread (t : Team) (i j : Nat) (f : Thread → Thread) :
    (t.modThread i f).thread j = if j = i ∧ j < t.threads.length then f (t.thread j) else t.thread j := modNth_getD _ _ _ _ _

/-- A team that an issue has left holds no value of `PFMT` in its shadow that the next would settle. -/
theorem Team.Beside.settled {t u : Team} (a : t.Beside u) : u.fmtSettled.pfmt = t.fmtSettled.pfmt ∧ u.fmtSettled.pfmtLater = t.fmtSettled.pfmtLater := by
  have h1 := a.pfmt.1
  have h2 := a.pfmt.2
  have hn := a.native.1
  unfold Team.fmtSettled at *
  rw [hn]
  by_cases h : t.nat.started = true <;> simp_all

theorem Team.Beside.trans {t u x : Team} (a : t.Beside u) (b : u.Beside x) : t.Beside x :=
  ⟨b.tix.trans a.tix, b.lane.trans a.lane, b.slot.trans a.slot, b.masks.trans a.masks, b.loops.trans a.loops, b.prsFstat.trans a.prsFstat,
    ⟨b.pfmt.1.trans a.settled.1, b.pfmt.2.trans a.settled.2⟩, ⟨b.phases.1.trans a.phases.1, b.phases.2.trans a.phases.2⟩, ⟨b.nest.1.trans a.nest.1, b.nest.2.trans a.nest.2⟩,
    ⟨b.tokens.1.trans a.tokens.1, b.tokens.2.trans a.tokens.2⟩, ⟨b.feed.1.trans a.feed.1, b.feed.2.trans a.feed.2⟩, b.faults.trans a.faults,
    ⟨b.fabric.1.trans a.fabric.1, b.fabric.2.1.trans a.fabric.2.1, b.fabric.2.2.1.trans a.fabric.2.2.1, b.fabric.2.2.2.1.trans a.fabric.2.2.2.1,
      b.fabric.2.2.2.2.trans a.fabric.2.2.2.2⟩, b.release.trans a.release, b.halting.trans a.halting, b.brkNext.trans a.brkNext,
    ⟨b.native.1.trans a.native.1, b.native.2.trans a.native.2⟩⟩

theorem Thread.Beside.trans {t u x : Thread} (a : t.Beside u) (b : u.Beside x) : t.Beside x := by
  obtain ⟨a1, a2, a3, a4, a5⟩ := a
  obtain ⟨b1, b2, b3, b4, b5⟩ := b
  exact ⟨b1.trans a1, b2.trans a2, b3.trans a3, b4.trans a4, b5.trans a5⟩

theorem tabGet_tabSet_ne {α : Type} (k j : Nat) (x : α) (h : j ≠ k) : ∀ l : List (Nat × α), tabGet j (tabSet k x l) = tabGet j l
  | [] => by simp [tabSet, tabGet, Ne.symm h]
  | (n, y) :: r => by
    simp only [tabSet]
    split
    · rename_i hn; subst hn; simp [tabGet, Ne.symm h]
    · simp [tabGet, tabGet_tabSet_ne k j x h r]

theorem Run.units_mem {r : Run} {b : Bool} {x} (h : x ∈ r.units b) : x.1 ∈ r.parts := by
  unfold Run.units at h
  split at h
  · split at h
    · simp at h
    · rename_i hp; rw [hp]; simp at h; subst h; simp
  · simp at h; obtain ⟨a, ha, rfl⟩ := h; exact ha

theorem listMin_mem : ∀ {l : List Nat} {m : Nat}, listMin l = some m → m ∈ l
  | [], _, h => by simp [listMin] at h
  | x :: r, m, h => by
    simp only [listMin] at h
    split at h
    · rename_i y hy
      injection h with h
      by_cases hxy : x ≤ y
      · rw [Nat.min_eq_left hxy] at h; subst h; simp
      · rw [Nat.min_eq_right (by omega)] at h; subst h; exact List.mem_cons_of_mem _ (listMin_mem hy)
    · injection h with h; subst h; simp

theorem Team.lead_live {t : Team} {pc : Nat} (h : t.leadPc = some pc) (hf : t.fmask = 0) (hp : t.pend = none) (hn : t.nat.started = false) : ∃ i, i < t.threads.length ∧ (t.thread i).st = .run ∧ (t.thread i).pc = pc := by
  have hm : pc ∈ t.runPcs := by
    unfold Team.leadPc at h
    simp only [hf, hp, hn, ne_eq, not_true, if_false, Bool.false_eq_true] at h
    unfold Team.selectPc at h
    split at h
    · split at h
      · rename_i hp; injection h with h; subst h; exact (List.mem_filter.mp (listMin_mem hp)).1
      · split at h
        · rename_i hp; injection h with h; subst h; exact (List.mem_filter.mp (listMin_mem hp)).1
        · exact listMin_mem h
    · exact listMin_mem h
  simp only [Team.runPcs, List.mem_map, List.mem_filter, List.mem_range, decide_eq_true_eq] at hm
  obtain ⟨i, ⟨h1, h2⟩, h3⟩ := hm
  exact ⟨i, h1, h2, h3⟩

theorem hasBit_bit32 (i j : Nat) (h : j < 32) : hasBit (bit32 i) j = decide (i = j) := by
  simp only [hasBit, bit32]
  rw [BitVec.getLsbD_ofNat]
  simp [h, Nat.testBit_two_pow]

theorem hasBit_listMask (l : List Nat) (j : Nat) (h : j < 32) : hasBit (listMask l) j = l.contains j := by
  induction l with
  | nil => simp [listMask, hasBit]
  | cons x l ih =>
    have : hasBit (bit32 x ||| listMask l) j = (hasBit (bit32 x) j || hasBit (listMask l) j) := by simp [hasBit]
    rw [listMask, this, ih, hasBit_bit32 _ _ h]
    by_cases hx : x = j
    · subst hx; simp
    · simp [hx, Ne.symm hx]

theorem cands_fresh {s w t pc len g gn} (h1 : t.fmask = 0) (h2 : t.pend = none) : (beginIssue s w t pc len g gn).cands = t.candidates pc := by
  unfold beginIssue; simp [h1, h2]

theorem Team.hasBit_candidates {t : Team} {pc i : Nat} (h32 : t.threads.length ≤ 32) (hi : i < t.threads.length) :
    hasBit (t.candidates pc) i = decide ((t.thread i).st = .run ∧ (t.thread i).pc = pc) := by
  rw [Team.candidates, hasBit_listMask _ _ (by omega)]
  rw [List.contains_eq_mem, Bool.eq_iff_iff]
  simp [hi]

end Sys2Proof.Machine
end

