-- ==== Sys2Proof/Laws/Sound.lean ====
section
/-! SUPPORT. Soundness: the invariant `State.Inv` at or after a TAI time, as every function of the machine keeps it. What a function
answers is sound when each state in it is; and the laws by which soundness passes through matches, pairs and folds. -/
namespace Sys2Proof.Machine

/-- What holds of the fields of a sound state at or after TAI time `T`. -/
def MInv (T : Nat) (a b c : SparseB) (set : Bool) (pkg ce ue : Nat) (gen : BitVec 32) (clk stage tai : Nat) : Prop :=
  spWf 0 a = true ∧ spWf 0 b = true ∧ spWf 0 c = true ∧ (if set then pkg ≤ 191 else pkg = 0xFF) ∧
  ce ≤ 2 ^ 32 - 1 ∧ ue ≤ 65535 ∧ gen ≠ 0 ∧ clk ≤ 2 ∧ (stage ≤ 4 ∨ stage = 7) ∧ T ≤ tai

def State.Sound (T : Nat) (s : State) : Prop :=
  MInv T s.dram s.hostMem s.reqBytes s.idSet s.pkg s.memCe s.memUe s.featGen s.clockMode s.bootStage s.tai

variable {T : Nat}

/-! What a function answers is sound when each state in it is. -/
def OutSound (T : Nat) : Host.Outcome State Fault Refusal → Prop
  | .next s => s.Sound T
  | _ => True
def OptSound (T : Nat) : Option State → Prop
  | some s => s.Sound T
  | none => True
def OptRunSound (T : Nat) : Option Run → Prop
  | some r => r.s.Sound T
  | none => True
def OptSound2 (T : Nat) : Option (Nat × State) → Prop
  | some x => x.2.Sound T
  | none => True
def SumSound (T : Nat) : Nat ⊕ State → Prop
  | .inr s => s.Sound T
  | .inl _ => True
def Checked.Sound (T : Nat) : Checked → Prop
  | .halt r => r.s.Sound T
  | .ok _ => True
def Demand.Sound (T : Nat) : Demand → Prop
  | .done s => s.Sound T
  | .wait s => s.Sound T
  | .fatal s => s.Sound T
def Offer.Sound (T : Nat) : Offer → Prop
  | .gone s => s.Sound T
  | .wait s => s.Sound T
  | .noRoom s => s.Sound T
  | .noGate => True
  | .placed s => s.Sound T
def Served.Sound (T : Nat) : Served → Prop
  | .reply s _ => s.Sound T
  | .ack s => s.Sound T
  | .quiet s => s.Sound T
  | .wait => True
def EngOut.Sound {α : Type} (T : Nat) : EngOut α → Prop
  | .ok s _ => s.Sound T
  | .wait s => s.Sound T
  | .fault _ => True
def Fw.Sound {α : Type} (T : Nat) : Fw α → Prop
  | .ok s _ => s.Sound T
  | .wait s => s.Sound T
  | .bad s => s.Sound T
def Next.Sound (T : Nat) : Next → Prop
  | .instr _ => True
  | .state s => s.Sound T

section ctors
variable {s : State} {r : Run} {α β : Type} {x : α}
theorem next_sound (h : s.Sound T) : OutSound T (.next s) := h
theorem fault_sound {f : Fault} : OutSound T (.fault f) := trivial
theorem refused_sound {f : Refusal} : OutSound T (.refused f) := trivial
theorem some_sound (h : s.Sound T) : OptSound T (some s) := h
theorem none_sound : OptSound T none := trivial
theorem someRun_sound (h : r.s.Sound T) : OptRunSound T (some r) := h
theorem noneRun_sound : OptRunSound T none := trivial
theorem some2_sound {x : Nat × State} (h : x.2.Sound T) : OptSound2 T (some x) := h
theorem none2_sound : OptSound2 T none := trivial
theorem inr_sound (h : s.Sound T) : SumSound T (.inr s) := h
theorem inl_sound {n : Nat} : SumSound T (.inl n) := trivial
theorem Checked.halt_sound (h : r.s.Sound T) : Checked.Sound T (.halt r) := h
theorem Checked.ok_sound {p : Place} : Checked.Sound T (.ok p) := trivial
theorem Demand.done_sound (h : s.Sound T) : Demand.Sound T (.done s) := h
theorem Demand.wait_sound (h : s.Sound T) : Demand.Sound T (.wait s) := h
theorem Demand.fatal_sound (h : s.Sound T) : Demand.Sound T (.fatal s) := h
theorem Offer.gone_sound (h : s.Sound T) : Offer.Sound T (.gone s) := h
theorem Offer.wait_sound (h : s.Sound T) : Offer.Sound T (.wait s) := h
theorem Offer.noRoom_sound (h : s.Sound T) : Offer.Sound T (.noRoom s) := h
theorem Offer.noGate_sound : Offer.Sound T .noGate := trivial
theorem Offer.placed_sound (h : s.Sound T) : Offer.Sound T (.placed s) := h
theorem Served.reply_sound {b : List Byte} (h : s.Sound T) : Served.Sound T (.reply s b) := h
theorem Served.ack_sound (h : s.Sound T) : Served.Sound T (.ack s) := h
theorem Served.quiet_sound (h : s.Sound T) : Served.Sound T (.quiet s) := h
theorem Served.wait_sound : Served.Sound T .wait := trivial
theorem EngOut.ok_sound (h : s.Sound T) : EngOut.Sound T (.ok s x) := h
theorem EngOut.wait_sound (h : s.Sound T) : EngOut.Sound (α := α) T (.wait s) := h
theorem EngOut.fault_sound {f : FaultInfo} : EngOut.Sound (α := α) T (.fault f) := trivial
theorem Fw.ok_sound (h : s.Sound T) : Fw.Sound T (.ok s x) := h
theorem Fw.wait_sound (h : s.Sound T) : Fw.Sound (α := α) T (.wait s) := h
theorem Fw.bad_sound (h : s.Sound T) : Fw.Sound (α := α) T (.bad s) := h
theorem Next.instr_sound {i : Instr} : Next.Sound T (.instr i) := trivial
theorem Next.state_sound (h : s.Sound T) : Next.Sound T (.state s) := h

theorem next_of {o : Host.Outcome State Fault Refusal} (e : o = .next s) (h : OutSound T o) : s.Sound T := by subst e; exact h
theorem some_of {o : Option State} (e : o = some s) (h : OptSound T o) : s.Sound T := by subst e; exact h
theorem someRun_of {o : Option Run} (e : o = some r) (h : OptRunSound T o) : r.s.Sound T := by subst e; exact h
theorem some2_of {n : Nat} {o : Option (Nat × State)} (e : o = some (n, s)) (h : OptSound2 T o) : s.Sound T := by subst e; exact h
theorem inr_of {o : Nat ⊕ State} (e : o = .inr s) (h : SumSound T o) : s.Sound T := by subst e; exact h
theorem Checked.halt_of {o : Checked} (e : o = .halt r) (h : o.Sound T) : r.s.Sound T := by subst e; exact h
theorem Demand.done_of {o : Demand} (e : o = .done s) (h : o.Sound T) : s.Sound T := by subst e; exact h
theorem Demand.wait_of {o : Demand} (e : o = .wait s) (h : o.Sound T) : s.Sound T := by subst e; exact h
theorem Demand.fatal_of {o : Demand} (e : o = .fatal s) (h : o.Sound T) : s.Sound T := by subst e; exact h
theorem Offer.gone_of {o : Offer} (e : o = .gone s) (h : o.Sound T) : s.Sound T := by subst e; exact h
theorem Offer.wait_of {o : Offer} (e : o = .wait s) (h : o.Sound T) : s.Sound T := by subst e; exact h
theorem Offer.noRoom_of {o : Offer} (e : o = .noRoom s) (h : o.Sound T) : s.Sound T := by subst e; exact h
theorem Offer.placed_of {o : Offer} (e : o = .placed s) (h : o.Sound T) : s.Sound T := by subst e; exact h
theorem Served.reply_of {b : List Byte} {o : Served} (e : o = .reply s b) (h : o.Sound T) : s.Sound T := by subst e; exact h
theorem Served.ack_of {o : Served} (e : o = .ack s) (h : o.Sound T) : s.Sound T := by subst e; exact h
theorem Served.quiet_of {o : Served} (e : o = .quiet s) (h : o.Sound T) : s.Sound T := by subst e; exact h
theorem EngOut.ok_of {o : EngOut α} (e : o = .ok s x) (h : o.Sound T) : s.Sound T := by subst e; exact h
theorem EngOut.wait_of {o : EngOut α} (e : o = .wait s) (h : o.Sound T) : s.Sound T := by subst e; exact h
theorem Fw.ok_of {o : Fw α} (e : o = .ok s x) (h : o.Sound T) : s.Sound T := by subst e; exact h
theorem Fw.wait_of {o : Fw α} (e : o = .wait s) (h : o.Sound T) : s.Sound T := by subst e; exact h
theorem Fw.bad_of {o : Fw α} (e : o = .bad s) (h : o.Sound T) : s.Sound T := by subst e; exact h
theorem Next.state_of {o : Next} (e : o = .state s) (h : o.Sound T) : s.Sound T := by subst e; exact h
theorem pair_of {p : State × α} (e : p = (s, x)) (h : p.1.Sound T) : s.Sound T := by subst e; exact h
theorem pair_of2 {p : α × State} (e : p = (x, s)) (h : p.2.Sound T) : s.Sound T := by subst e; exact h
theorem pairRun_of {p : Run × α} (e : p = (r, x)) (h : p.1.s.Sound T) : r.s.Sound T := by subst e; exact h
end ctors

theorem State.Sound.fold {s : State} (h : s.Sound T) :
    MInv T s.dram s.hostMem s.reqBytes s.idSet s.pkg s.memCe s.memUe s.featGen s.clockMode s.bootStage s.tai := h

/-- Only DRAM differs. -/
theorem State.Sound.setDram {s : State} {d : SparseB} (h : s.Sound T) (hd : spWf 0 d = true) :
    MInv T d s.hostMem s.reqBytes s.idSet s.pkg s.memCe s.memUe s.featGen s.clockMode s.bootStage s.tai := ⟨hd, h.2⟩

theorem ite_sound {c : Prop} [Decidable c] {a b : State} (ha : a.Sound T) (hb : b.Sound T) : (if c then a else b).Sound T := by
  split <;> assumption

theorem ite_fst_sound {c : Prop} [Decidable c] {β : Type} {a b : State × β} (ha : a.1.Sound T) (hb : b.1.Sound T) :
    (if c then a else b).1.Sound T := by
  split <;> assumption

theorem out_fst_sound {o : Host.Outcome State Fault Refusal} (ho : OutSound T o) {g : State → State × Bool} {d : State × Bool}
    (hg : ∀ s, s.Sound T → (g s).1.Sound T) (hd : d.1.Sound T) :
    (match o with | .next s => g s | _ => d).1.Sound T := by
  cases o with
  | next s => exact hg s ho
  | fault _ => exact hd
  | refused _ => exact hd

theorem opt_fst_sound {β : Type} {o : Option State} (ho : OptSound T o) {g : State → State × β} {d : State × β}
    (hg : ∀ s, s.Sound T → (g s).1.Sound T) (hd : d.1.Sound T) :
    (match o with | none => d | some s => g s).1.Sound T := by
  cases o with
  | some s => exact hg s ho
  | none => exact hd

theorem optBind_sound {o : Option State} (ho : OptSound T o) {f : State → Option State}
    (hf : ∀ s, s.Sound T → OptSound T (f s)) : OptSound T (o.bind f) := by
  cases o with
  | some s => exact hf s ho
  | none => trivial

theorem optGetD_sound {o : Option State} {s : State} (ho : OptSound T o) (hs : s.Sound T) : (o.getD s).Sound T := by
  cases o with
  | some s => exact ho
  | none => exact hs

theorem optMap_sound {o : Option State} {f : State → State} (ho : OptSound T o) (hf : ∀ s, s.Sound T → (f s).Sound T) : OptSound T (o.map f) := by
  cases o with
  | some s => exact hf s ho
  | none => trivial

theorem optMap2_sound {α : Type} {o : Option α} {f : α → State} (hf : ∀ x, (f x).Sound T) : OptSound T (o.map f) := by
  cases o with
  | some x => exact hf x
  | none => trivial

theorem optBindAny_sound {α : Type} {o : Option α} {f : α → Option State} (hf : ∀ x, OptSound T (f x)) : OptSound T (o.bind f) := by
  cases o with
  | some x => exact hf x
  | none => trivial

theorem optBindPair_sound {o : Option (Nat × State)} {f : Nat × State → Option State} (ho : OptSound2 T o)
    (hf : ∀ y : Nat × State, y.2.Sound T → OptSound T (f y)) : OptSound T (o.bind f) := by
  cases o with
  | some y => exact hf y ho
  | none => trivial

theorem optBindPair2_sound {o : Option (Nat × State)} {f : Nat × State → Option (Nat × State)} (ho : OptSound2 T o)
    (hf : ∀ y : Nat × State, y.2.Sound T → OptSound2 T (f y)) : OptSound2 T (o.bind f) := by
  cases o with
  | some y => exact hf y ho
  | none => trivial

theorem optMapPair_sound {α : Type} {o : Option α} {f : α → Nat × State} (hf : ∀ x, (f x).2.Sound T) : OptSound2 T (o.map f) := by
  cases o with
  | some x => exact hf x
  | none => trivial

theorem foldl_wf {α : Type} {f : SparseB → α → SparseB} (hf : ∀ m x, spWf 0 m = true → spWf 0 (f m x) = true) :
    ∀ (l : List α) {m : SparseB}, spWf 0 m = true → spWf 0 (l.foldl f m) = true
  | [], _, h => h
  | x :: r, _, h => foldl_wf hf r (hf _ x h)

theorem foldl_sound {α : Type} {f : State → α → State} (hf : ∀ s x, s.Sound T → (f s x).Sound T) :
    ∀ (l : List α) {s : State}, s.Sound T → (l.foldl f s).Sound T
  | [], _, h => h
  | x :: r, _, h => foldl_sound hf r (hf _ x h)

theorem foldl_keeps {α β : Type} {P : β → Prop} {f : β → α → β} (hf : ∀ b x, P b → P (f b x)) : ∀ (l : List α) {b : β}, P b → P (l.foldl f b)
  | [], _, h => h
  | x :: r, _, h => foldl_keeps hf r (hf _ x h)

theorem foldl_runSound {α : Type} {f : Run → α → Run} (hf : ∀ r x, r.s.Sound T → (f r x).s.Sound T) :
    ∀ (l : List α) {r : Run}, r.s.Sound T → (l.foldl f r).s.Sound T
  | [], _, h => h
  | x :: r, _, h => foldl_runSound hf r (hf _ x h)

theorem State.Inv.sound {s : State} (h : s.Inv) : s.Sound s.tai :=
  ⟨h.dram, h.hostMem, h.reqBytes, h.pkg, h.memCe, h.memUe, h.featGen, h.clock, h.stage, Nat.le_refl _⟩

theorem State.Sound.inv {s : State} (h : s.Sound T) : s.Inv :=
  ⟨h.1, h.2.1, h.2.2.1, h.2.2.2.1, h.2.2.2.2.1, h.2.2.2.2.2.1, h.2.2.2.2.2.2.1, h.2.2.2.2.2.2.2.1, h.2.2.2.2.2.2.2.2.1⟩

theorem State.Sound.tai {s : State} (h : s.Sound T) : T ≤ s.tai := h.2.2.2.2.2.2.2.2.2

end Sys2Proof.Machine
end

