-- ==== Sys2Proof/Laws/SoundParts.lean ====
section
/-! SUPPORT. Each function of these files keeps soundness: the parts of the state, memory, operands and an issue. -/
namespace Sys2Proof.Machine

variable {T : Nat}

/-! `Machine/State.lean` -/

theorem State.reset_sound : State.reset.Sound 0 := by
  simp [State.Sound, MInv, State.reset, spWf]

/-! `Machine/Access.lean` -/

theorem State.putCtx_sound {a0 a1} (h0 : a0.Sound T) : (State.putCtx a0 a1).Sound T := by
  unfold State.putCtx
  dsimp only [State.Sound]
  apply State.Sound.fold
  assumption

theorem State.putCore_sound {a0 a1} (h0 : a0.Sound T) : (State.putCore a0 a1).Sound T := by
  unfold State.putCore
  dsimp only [State.Sound]
  apply State.Sound.fold
  assumption

theorem State.putWg_sound {a0 a1} (h0 : a0.Sound T) : (State.putWg a0 a1).Sound T := by
  unfold State.putWg
  dsimp only [State.Sound]
  apply State.Sound.fold
  assumption

theorem State.putOp_sound {a0 a1} (h0 : a0.Sound T) : (State.putOp a0 a1).Sound T := by
  unfold State.putOp
  dsimp only [State.Sound]
  apply State.Sound.fold
  assumption

theorem State.putQueue_sound {a0 a1} (h0 : a0.Sound T) : (State.putQueue a0 a1).Sound T := by
  unfold State.putQueue
  dsimp only [State.Sound]
  apply State.Sound.fold
  assumption

theorem State.putNode_sound {a0 a1} (h0 : a0.Sound T) : (State.putNode a0 a1).Sound T := by
  unfold State.putNode
  dsimp only [State.Sound]
  apply State.Sound.fold
  assumption

theorem State.putObj_sound {a0 a1} (h0 : a0.Sound T) : (State.putObj a0 a1).Sound T := by
  unfold State.putObj
  dsimp only [State.Sound]
  apply State.Sound.fold
  assumption

theorem State.putDir_sound {a0 a1} (h0 : a0.Sound T) : (State.putDir a0 a1).Sound T := by
  unfold State.putDir
  dsimp only [State.Sound]
  apply State.Sound.fold
  assumption

theorem State.putPeer_sound {a0 a1} (h0 : a0.Sound T) : (State.putPeer a0 a1).Sound T := by
  unfold State.putPeer
  dsimp only [State.Sound]
  apply State.Sound.fold
  assumption

theorem State.modTeam_sound {a0 a1 a2 a3} (h0 : a0.Sound T) : (State.modTeam a0 a1 a2 a3).Sound T := by
  unfold State.modTeam
  split
  · split
    · with_reducible apply State.putWg_sound
      assumption
    · assumption
  · assumption

theorem State.fresh_sound {a0} (h0 : a0.Sound T) : (State.fresh a0).2.Sound T := by
  unfold State.fresh
  dsimp only
  dsimp only [State.Sound]
  apply State.Sound.fold
  assumption

theorem State.freeValue_sound {a0} (h0 : a0.Sound T) : (State.freeValue a0).2.Sound T := by
  unfold State.freeValue
  dsimp only
  dsimp only [State.Sound]
  apply State.Sound.fold
  assumption

theorem State.emit_sound {a0 a1} (h0 : a0.Sound T) : (State.emit a0 a1).Sound T := by
  unfold State.emit
  dsimp only [State.Sound]
  apply State.Sound.fold
  assumption

/-! `Machine/Ops.lean` -/

theorem State.hostPut_sound {a0 a1 a2} (h0 : a0.Sound T) : (State.hostPut a0 a1 a2).Sound T :=
  ⟨h0.1, spWf_spPut 0 _ _ h0.2.1, h0.2.2⟩

theorem State.hostComplete_sound {a0 a1 a2 a3 a4} (h0 : a0.Sound T) : (State.hostComplete a0 a1 a2 a3 a4).Sound T := by
  unfold State.hostComplete
  split
  · assumption
  · with_reducible apply State.hostPut_sound
    assumption

theorem State.fqBreak_sound {a0 a1 a2} (h0 : a0.Sound T) : (State.fqBreak a0 a1 a2).Sound T := by
  unfold State.fqBreak
  split
  · assumption
  · split
    · with_reducible apply State.putCtx_sound
      assumption
    · with_reducible apply State.emit_sound
      with_reducible apply State.putCtx_sound
      assumption

theorem State.fqCause_sound {a0 a1 a2} (h0 : a0.Sound T) : (State.fqCause a0 a1 a2).Sound T := by
  unfold State.fqCause
  split
  · assumption
  · split
    · with_reducible apply State.putCtx_sound
      assumption
    · with_reducible apply State.emit_sound
      with_reducible apply State.putCtx_sound
      assumption

theorem overtakeGo_sound {a0 a1} (h0 : a0.Sound T) : (overtakeGo a0 a1).Sound T := by
  induction a1 generalizing a0 h0 with
  | nil =>
    unfold overtakeGo
    assumption
  | cons x r ih =>
    unfold overtakeGo
    apply ih
    with_reducible apply State.hostComplete_sound
    assumption

theorem State.removeWgs_sound {a0 a1} (h0 : a0.Sound T) : (State.removeWgs a0 a1).Sound T := by
  unfold State.removeWgs
  assumption

theorem State.freeWork_sound {a0 a1} (h0 : a0.Sound T) : (State.freeWork a0 a1).Sound T := by
  unfold State.freeWork
  dsimp only
  dsimp only [State.Sound]
  apply State.Sound.fold
  assumption

theorem State.discard_sound {a0 a1 a2 a3} (h0 : a0.Sound T) : (State.discard a0 a1 a2 a3).Sound T := by
  have h1 : (if a2.cls = clsMemUe then { a0 with memUe := min 65535 (a0.memUe + 1) } else a0 : State).Sound T := by
    split
    · exact ⟨h0.1, h0.2.1, h0.2.2.1, h0.2.2.2.1, h0.2.2.2.2.1, Nat.min_le_left _ _, h0.2.2.2.2.2.2⟩
    · exact h0
  unfold State.discard
  dsimp only
  split
  · exact h1
  · split
    · apply State.fqCause_sound
      apply State.freeWork_sound
      apply State.putCtx_sound
      exact overtakeGo_sound h1
    · split
      · exact State.putCtx_sound h1
      · exact h1

theorem State.fatal_sound {a0 a1 a2} (h0 : a0.Sound T) : (State.fatal a0 a1 a2).Sound T := by
  unfold State.fatal
  with_reducible apply State.discard_sound
  assumption

theorem State.teamFatal_sound {a0 a1 a2 a3 a4} (h0 : a0.Sound T) : (State.teamFatal a0 a1 a2 a3 a4).Sound T := by
  unfold State.teamFatal
  with_reducible apply State.fatal_sound
  assumption

theorem State.releaseReplay_sound {a0 a1 a2} (h0 : a0.Sound T) : (State.releaseReplay a0 a1 a2).Sound T := by
  unfold State.releaseReplay
  dsimp only [State.Sound]
  apply State.Sound.fold
  assumption

theorem State.releaseLock_sound {a0 a1} (h0 : a0.Sound T) : (State.releaseLock a0 a1).Sound T := by
  unfold State.releaseLock
  dsimp only [State.Sound]
  apply State.Sound.fold
  assumption

theorem State.teamEnded_sound {a0 a1 a2} (h0 : a0.Sound T) : (State.teamEnded a0 a1 a2).Sound T := by
  unfold State.teamEnded
  dsimp only
  split
  · assumption
  · dsimp only [State.Sound]
    apply State.Sound.fold
    with_reducible apply State.putWg_sound
    assumption

/-! `Machine/Memory.lean` -/

theorem State.tlbFill_sound {a0 a1 a2 a3} (h0 : a0.Sound T) : (State.tlbFill a0 a1 a2 a3).Sound T := by
  unfold State.tlbFill
  dsimp only
  split
  · assumption
  · split
    · assumption
    · dsimp only [State.Sound]
      apply State.Sound.fold
      assumption

theorem State.tlbDrop_sound {a0 a1 a2} (h0 : a0.Sound T) : (State.tlbDrop a0 a1 a2).Sound T := by
  unfold State.tlbDrop
  dsimp only [State.Sound]
  apply State.Sound.fold
  assumption

theorem State.missAdd_sound {a0 a1 a2 a3} (h0 : a0.Sound T) : (State.missAdd a0 a1 a2 a3).Sound T := by
  unfold State.missAdd
  split
  · assumption
  · dsimp only [State.Sound]
    apply State.Sound.fold
    assumption

theorem State.putLeaf_sound {a0 a1 a2} (h0 : a0.Sound T) : (State.putLeaf a0 a1 a2).Sound T := by
  unfold State.putLeaf
  split
  · assumption
  · with_reducible apply State.tlbDrop_sound
    with_reducible apply State.putCtx_sound
    assumption

theorem State.setDirty_sound {a0 a1 a2} (h0 : a0.Sound T) : (State.setDirty a0 a1 a2).Sound T := by
  unfold State.setDirty
  split
  · split
    · assumption
    · with_reducible apply State.putLeaf_sound
      assumption
  · assumption

theorem State.modCore_sound {a0 a1 a2} (h0 : a0.Sound T) : (State.modCore a0 a1 a2).Sound T := by
  unfold State.modCore
  dsimp only [State.Sound]
  apply State.Sound.fold
  assumption

theorem spWf_writeDirty : ∀ (l : List L1Byte) {m : SparseB}, spWf 0 m = true → spWf 0 (writeDirty m l) = true
  | [], _, h => h
  | b :: r, m, h => spWf_writeDirty r (by split <;> first | exact spWf_spSet 0 _ _ h | exact h)

theorem State.l1Clean_sound {a0 a1 a2} (h0 : a0.Sound T) : (State.l1Clean a0 a1 a2).Sound T := by
  unfold State.l1Clean
  split
  · exact h0
  · exact h0.setDram (spWf_writeDirty _ h0.1)

theorem State.l1Drop_sound {a0 a1 a2} (h0 : a0.Sound T) : (State.l1Drop a0 a1 a2).Sound T := by
  unfold State.l1Drop
  with_reducible apply State.modCore_sound
  assumption

theorem State.releaseAt_sound {a0 a1 a2} (h0 : a0.Sound T) : (State.releaseAt a0 a1 a2).Sound T := by
  unfold State.releaseAt
  split
  · with_reducible apply State.l1Clean_sound
    assumption
  · assumption

theorem State.acquireAt_sound {a0 a1 a2} (h0 : a0.Sound T) : (State.acquireAt a0 a1 a2).Sound T := by
  unfold State.acquireAt
  split
  · with_reducible apply State.l1Drop_sound
    assumption
  · assumption

theorem State.l1Fit_sound {a0 a1} (h0 : a0.Sound T) : (State.l1Fit a0 a1).Sound T := by
  unfold State.l1Fit
  split
  · assumption
  · split
    · assumption
    · dsimp only
      with_reducible apply State.l1Drop_sound
      with_reducible apply State.l1Clean_sound
      assumption

theorem State.l1Keep_sound {a0 a1 a2 a3} (h0 : a0.Sound T) : (State.l1Keep a0 a1 a2 a3).Sound T := by
  unfold State.l1Keep
  split
  · with_reducible apply State.l1Fit_sound
    assumption
  · assumption

theorem State.healUnits_sound {a0 a1 a2 a3} (h0 : a0.Sound T) : (State.healUnits a0 a1 a2 a3).Sound T := by
  unfold State.healUnits
  assumption

theorem State.kick_sound {a0 a1 a2 a3} (h0 : a0.Sound T) : (State.kick a0 a1 a2 a3).Sound T := by
  unfold State.kick
  split
  · assumption
  · split
    · assumption
    · with_reducible apply State.putQueue_sound
      assumption

theorem State.bellWrite_sound {a0 a1 a2 a3} (h0 : a0.Sound T) : (State.bellWrite a0 a1 a2 a3).Sound T := by
  unfold State.bellWrite
  split
  · assumption
  · split
    · with_reducible apply State.kick_sound
      assumption
    · assumption

theorem State.writePlace_sound {a0 a1 a2 a3} (h0 : a0.Sound T) : (State.writePlace a0 a1 a2 a3).Sound T := by
  unfold State.writePlace
  split
  · with_reducible apply State.healUnits_sound
    with_reducible apply State.modTeam_sound
    assumption
  · split
    · assumption
    · assumption
  · split
    · assumption
    · assumption
  · with_reducible apply State.l1Fit_sound
    assumption
  · with_reducible apply State.hostPut_sound
    assumption
  · with_reducible apply State.bellWrite_sound
    assumption
  · with_reducible apply State.putLeaf_sound
    assumption
  · assumption

theorem State.keepStale_sound {a0 a1 a2 a3} (h0 : a0.Sound T) : (State.keepStale a0 a1 a2 a3).Sound T := by
  unfold State.keepStale
  split
  · assumption
  · assumption

theorem State.staleRead_sound {a0 a1 a2 a3} (h0 : a0.Sound T) : ((State.staleRead a0 a1 a2 a3).1).Sound T := by
  unfold State.staleRead
  split
  · assumption
  · split
    · assumption
    · assumption

theorem State.acquire_sound {a0 a1 a2 a3 a4} (h0 : a0.Sound T) : (State.acquire a0 a1 a2 a3 a4).Sound T := by
  unfold State.acquire
  extract_lets s1
  have hs1 : s1.Sound T := by
    unfold s1
    with_reducible apply State.acquireAt_sound
    assumption
  clear_value s1
  split
  · assumption
  · assumption

theorem State.cover_sound {a0 a1 a2} (h0 : a0.Sound T) : (State.cover a0 a1 a2).Sound T := by
  unfold State.cover
  split
  · assumption
  · assumption

theorem State.release_sound {a0 a1 a2 a3} (h0 : a0.Sound T) : (State.release a0 a1 a2 a3).Sound T := by
  unfold State.release
  with_reducible apply State.cover_sound
  with_reducible apply State.releaseAt_sound
  assumption

theorem State.staleDrop_sound {a0 a1} (h0 : a0.Sound T) : (State.staleDrop a0 a1).Sound T := by
  unfold State.staleDrop
  assumption

theorem State.exhaust_sound {a0 a1} (h0 : a0.Sound T) : (State.exhaust a0 a1).Sound T := by
  unfold State.exhaust
  dsimp only
  with_reducible apply State.putPeer_sound
  assumption

theorem State.countTx_sound {a0 a1 a2 a3} (h0 : a0.Sound T) : (State.countTx a0 a1 a2 a3).Sound T := by
  unfold State.countTx
  split
  · split
    · with_reducible apply State.putCtx_sound
      assumption
    · assumption
  · assumption

theorem State.countRx_sound {a0 a1 a2 a3} (h0 : a0.Sound T) : (State.countRx a0 a1 a2 a3).Sound T := by
  unfold State.countRx
  split
  · split
    · with_reducible apply State.putCtx_sound
      assumption
    · assumption
  · assumption

theorem State.send_sound {a0 a1 a2} (h0 : a0.Sound T) : (State.send a0 a1 a2).Sound T := by
  unfold State.send
  dsimp only
  split
  · split
    · with_reducible apply State.countTx_sound
      assumption
    · split
      · with_reducible apply State.emit_sound
        dsimp only [State.Sound]
        apply State.Sound.fold
        with_reducible apply State.putPeer_sound
        with_reducible apply State.countTx_sound
        assumption
      · dsimp only [State.Sound]
        apply State.Sound.fold
        with_reducible apply State.putPeer_sound
        with_reducible apply State.countTx_sound
        assumption
  · dsimp only [State.Sound]
    apply State.Sound.fold
    with_reducible apply State.putPeer_sound
    with_reducible apply State.countTx_sound
    assumption

theorem State.mirrorHere_sound {a0 a1 a2 a3} (h0 : a0.Sound T) : (State.mirrorHere a0 a1 a2 a3).Sound T := by
  unfold State.mirrorHere
  split
  · split
    · exact h0.setDram (spWf_putBytesAt _ _ h0.1)
    · exact h0
  · exact h0

theorem State.sendWrites_sound {a0 a1 a2 a3 a4 a5 a6 a7 a8} (h0 : a0.Sound T) : (State.sendWrites a0 a1 a2 a3 a4 a5 a6 a7 a8).Sound T := by
  induction a8 generalizing a0 a1 a2 a3 a4 a5 a6 a7 h0 with
  | nil =>
    unfold State.sendWrites
    with_reducible apply State.mirrorHere_sound
    assumption
  | cons x r ih =>
    unfold State.sendWrites
    apply ih
    with_reducible apply State.send_sound
    assumption

theorem State.owe_sound {a0 a1 a2} (h0 : a0.Sound T) : (State.owe a0 a1 a2).Sound T := by
  unfold State.owe
  dsimp only
  split
  · with_reducible apply State.send_sound
    assumption
  · split
    · assumption
    · dsimp only [State.Sound]
      apply State.Sound.fold
      split
      · assumption
      · assumption

theorem State.pagePut_sound {a0 a1 a2 a3 a4} (h0 : a0.Sound T) : (State.pagePut a0 a1 a2 a3 a4).Sound T := by
  have h1 : (a0.setDirty a1 a3).Sound T := State.setDirty_sound h0
  unfold State.pagePut
  dsimp only
  split
  · exact State.hostPut_sound h1
  · split
    · split
      · exact State.fatal_sound (State.healUnits_sound (h1.setDram (spWf_spPut 0 _ _ h1.1)))
      · exact State.healUnits_sound (h1.setDram (spWf_spPut 0 _ _ h1.1))
    · exact State.sendWrites_sound h1

/-! `Machine/Operands.lean` -/

theorem State.countAgain_sound {a0 a1} (h0 : a0.Sound T) : (State.countAgain a0 a1).Sound T := by
  unfold State.countAgain
  split
  · assumption
  · assumption

theorem State.countRollback_sound {a0 a1 a2} (h0 : a0.Sound T) : (State.countRollback a0 a1 a2).Sound T := by
  unfold State.countRollback
  dsimp only
  split
  · with_reducible apply State.modCore_sound
    assumption
  · with_reducible apply State.putDir_sound
    with_reducible apply State.modCore_sound
    assumption

theorem Run.sync_sound {a0} (h0 : a0.s.Sound T) : (Run.sync a0).Sound T := by
  unfold Run.sync
  with_reducible apply State.putWg_sound
  assumption

theorem Run.load_sound {a0 a1} (h0 : a0.s.Sound T) (h1 : a1.Sound T) : (Run.load a0 a1).s.Sound T := by
  unfold Run.load
  split
  · assumption
  · split
    · assumption
    · assumption

theorem Run.stall_sound {a0 a1} (h0 : a0.s.Sound T) : (Run.stall a0 a1).s.Sound T := by
  unfold Run.stall
  dsimp only
  assumption

theorem Run.fatalAt_sound {a0 a1 a2} (h0 : a0.s.Sound T) : (Run.fatalAt a0 a1 a2).s.Sound T := by
  unfold Run.fatalAt
  dsimp only
  assumption

theorem Run.fatal_sound {a0 a1 a2 a3 a4} (h0 : a0.s.Sound T) : (Run.fatal a0 a1 a2 a3 a4).s.Sound T := by
  unfold Run.fatal
  with_reducible apply Run.fatalAt_sound
  assumption

theorem Run.replayAt_sound {a0 a1} (h0 : a0.s.Sound T) : (Run.replayAt a0 a1).s.Sound T := by
  unfold Run.replayAt
  dsimp only
  assumption

theorem Run.lockedAt_sound {a0 a1 a2 a3 a4} (h0 : a0.s.Sound T) : (Run.lockedAt a0 a1 a2 a3 a4).s.Sound T := by
  unfold Run.lockedAt
  dsimp only
  split
  · split
    · assumption
    · with_reducible apply Run.fatalAt_sound
      assumption
  · with_reducible apply Run.fatalAt_sound
    assumption

theorem Run.check_sound {a0 a1 a2 a3 a4 a5 a6} (h0 : a0.s.Sound T) : (Run.check a0 a1 a2 a3 a4 a5 a6).Sound T := by
  unfold Run.check
  dsimp only
  split
  · apply Checked.halt_sound
    with_reducible apply Run.fatalAt_sound
    assumption
  · apply Checked.halt_sound
    with_reducible apply Run.replayAt_sound
    assumption
  · split
    · apply Checked.halt_sound
      with_reducible apply Run.lockedAt_sound
      assumption
    · apply Checked.ok_sound

theorem Run.readAt_sound {a0 a1 a2 a3 a4 a5} (h0 : a0.s.Sound T) : (Run.readAt a0 a1 a2 a3 a4 a5).1.s.Sound T := by
  unfold Run.readAt
  dsimp only
  split
  · with_reducible apply Run.fatal_sound
    assumption
  · split
    · with_reducible apply Run.load_sound
      · assumption
      · with_reducible apply State.l1Keep_sound
        with_reducible apply State.tlbFill_sound
        with_reducible apply Run.sync_sound
        assumption
    · split
      · with_reducible apply Run.load_sound
        · assumption
        · with_reducible apply State.tlbFill_sound
          with_reducible apply Run.sync_sound
          assumption
      · assumption

theorem Run.writeAt_sound {a0 a1 a2 a3 a4 a5} (h0 : a0.s.Sound T) : (Run.writeAt a0 a1 a2 a3 a4 a5).s.Sound T := by
  unfold Run.writeAt
  extract_lets s bad s1 s2 q ds s3 r0 r1
  have hs : s.Sound T := by
    assumption
  have hs1 : s1.Sound T := by
    unfold s1
    with_reducible apply State.writePlace_sound
    with_reducible apply State.keepStale_sound
    assumption
  have hs2 : s2.Sound T := by
    unfold s2
    split
    · with_reducible apply State.setDirty_sound
      with_reducible apply State.tlbFill_sound
      assumption
    · assumption
  have hs3 : s3.Sound T := by
    unfold s3
    split
    · assumption
    · with_reducible apply State.sendWrites_sound
      assumption
  have hr0 : r0.s.Sound T := by
    unfold r0
    with_reducible apply Run.load_sound
    · assumption
    · assumption
  clear_value s bad s1 s2 q ds s3 r0 r1
  split
  · assumption
  · assumption

theorem Run.bar_sound {a0 a1 a2 a3 a4 a5} (h0 : a0.s.Sound T) : OptRunSound T (Run.bar a0 a1 a2 a3 a4 a5) := by
  unfold Run.bar
  split
  · exact noneRun_sound
  · split
    · refine someRun_sound ?_
      with_reducible apply Run.stall_sound
      assumption
    · split
      · refine someRun_sound ?_
        with_reducible apply Run.fatal_sound
        assumption
      · refine someRun_sound ?_
        with_reducible apply Run.stall_sound
        assumption
      · refine someRun_sound ?_
        with_reducible apply Run.stall_sound
        assumption
      · exact noneRun_sound

theorem sendMasked_sound {a0 a1 a2 a3 a4 a5} (h0 : a0.Sound T) : (sendMasked a0 a1 a2 a3 a4 a5).Sound T := by
  induction a5 generalizing a0 a1 a2 a3 a4 h0 with
  | nil =>
    unfold sendMasked
    with_reducible apply State.mirrorHere_sound
    assumption
  | cons x r ih =>
    unfold sendMasked
    dsimp only
    apply ih
    with_reducible apply State.send_sound
    assumption

theorem State.storeHere_sound {a0 a1 a2 a3} (h0 : a0.Sound T) : (State.storeHere a0 a1 a2 a3).Sound T := by
  unfold State.storeHere
  split
  · assumption
  · split
    · with_reducible apply State.writePlace_sound
      assumption
    · split
      · with_reducible apply State.writePlace_sound
        assumption
      · with_reducible apply State.writePlace_sound
        assumption

theorem State.storesHere_sound {a0 a1 a2 a3} (h0 : a0.Sound T) : (State.storesHere a0 a1 a2 a3).Sound T := by
  induction a3 generalizing a0 a1 a2 h0 with
  | nil =>
    unfold State.storesHere
    assumption
  | cons x r ih =>
    unfold State.storesHere
    apply ih
    with_reducible apply State.storeHere_sound
    assumption

theorem Run.drainOne_sound {a0 a1} (h0 : a0.s.Sound T) : (Run.drainOne a0 a1).s.Sound T := by
  unfold Run.drainOne
  extract_lets r0
  clear_value r0
  split
  · assumption
  · split
    · with_reducible apply Run.load_sound
      · assumption
      · with_reducible apply State.storesHere_sound
        assumption
    · dsimp only
      split
      · split
        · assumption
        · dsimp only
          with_reducible apply State.exhaust_sound
          refine someRun_of (by assumption) ?_
          with_reducible apply Run.bar_sound
          assumption
        · refine someRun_of (by assumption) ?_
          with_reducible apply Run.bar_sound
          assumption
      · dsimp only
        with_reducible apply sendMasked_sound
        assumption

theorem Run.drainList_sound {a0 a1} (h1 : a1.s.Sound T) : (Run.drainList a0 a1).s.Sound T := by
  induction a0 generalizing a1 h1 with
  | nil =>
    unfold Run.drainList
    assumption
  | cons x r ih =>
    unfold Run.drainList
    dsimp only
    split
    · apply ih
      with_reducible apply Run.drainOne_sound
      assumption
    · with_reducible apply Run.drainOne_sound
      assumption

theorem Run.drain_sound {a0 a1} (h0 : a0.s.Sound T) : (Run.drain a0 a1).s.Sound T := by
  unfold Run.drain
  with_reducible apply Run.drainList_sound
  assumption

theorem Run.settleRel_sound {a0} (h0 : a0.s.Sound T) : (Run.settleRel a0).s.Sound T := by
  unfold Run.settleRel
  split
  · assumption
  · split
    · assumption
    · dsimp only
      with_reducible apply State.release_sound
      assumption

theorem Run.remoteWrite_sound {a0 a1 a2 a3 a4 a5 a6} (h0 : a0.s.Sound T) : (Run.remoteWrite a0 a1 a2 a3 a4 a5 a6).s.Sound T := by
  unfold Run.remoteWrite
  extract_lets r
  have hr : r.s.Sound T := by
    unfold r
    with_reducible apply Run.drain_sound
    assumption
  clear_value r
  split
  · assumption
  · split
    · refine someRun_of (by assumption) ?_
      with_reducible apply Run.bar_sound
      assumption
    · dsimp only
      with_reducible apply State.sendWrites_sound
      assumption

theorem Run.streamRead_sound {a0 a1 a2} (h0 : a0.s.Sound T) : ((Run.streamRead a0 a1 a2).1).s.Sound T := by
  unfold Run.streamRead
  dsimp only
  split
  · assumption
  · split
    · split
      · split
        · dsimp only
          with_reducible apply Run.lockedAt_sound
          assumption
        · assumption
      · split
        · split
          · assumption
          · assumption
          · assumption
        · assumption
    · split
      · assumption
      · assumption

theorem Run.mayRoll_sound {a0} (h0 : a0.s.Sound T) : (Run.mayRoll a0).s.Sound T := by
  unfold Run.mayRoll
  split
  · assumption
  · extract_lets y
    have hy : y.2.Sound T := by
      assumption
    clear_value y
    dsimp only
    split
    · with_reducible apply State.countAgain_sound
      with_reducible apply State.countRollback_sound
      assumption
    · assumption

theorem Run.streamWrite_sound {a0 a1 a2 a3} (h0 : a0.s.Sound T) : (Run.streamWrite a0 a1 a2 a3).s.Sound T := by
  unfold Run.streamWrite
  extract_lets r st
  have hr : r.s.Sound T := by
    unfold r
    with_reducible apply Run.settleRel_sound
    assumption
  clear_value r st
  split
  · assumption
  · split
    · assumption
    · split
      · assumption
      · split
        · assumption
        · dsimp only
          split
          · refine Checked.halt_of (by assumption) ?_
            with_reducible apply Run.check_sound
            assumption
          · with_reducible apply Run.mayRoll_sound
            dsimp only
            split
            · with_reducible apply Run.remoteWrite_sound
              assumption
            · with_reducible apply Run.writeAt_sound
              assumption

theorem Run.read_sound {a0 a1 a2 a3 a4 a5 a6} (h0 : a0.s.Sound T) : (Run.read a0 a1 a2 a3 a4 a5 a6).1.s.Sound T := by
  unfold Run.read
  dsimp only
  split
  · assumption
  · assumption
  · assumption
  · assumption
  · with_reducible apply Run.streamRead_sound
    assumption
  · assumption
  · assumption
  · assumption
  · assumption
  · assumption

theorem Run.write_sound {a0 a1 a2 a3 a4 a5 a6} (h0 : a0.s.Sound T) : (Run.write a0 a1 a2 a3 a4 a5 a6).s.Sound T := by
  unfold Run.write
  split
  · split
    · assumption
    · assumption
  · split
    · assumption
    · assumption
  · assumption
  · with_reducible apply Run.streamWrite_sound
    assumption
  · assumption

theorem Run.flags_sound {a0 a1} (h0 : a0.s.Sound T) : (Run.flags a0 a1).s.Sound T := by
  unfold Run.flags
  dsimp only
  assumption

/-! `Machine/Issue.lean` -/

theorem State.awaited_sound {a0 a1 a2} (h0 : a0.Sound T) : (State.awaited a0 a1 a2).Sound T := by
  unfold State.awaited
  split
  · assumption
  · with_reducible apply State.acquire_sound
    assumption

theorem beginIssue_sound {a0 a1 a2 a3 a4 a5 a6} (h0 : a0.Sound T) : (beginIssue a0 a1 a2 a3 a4 a5 a6).s.Sound T := by
  unfold beginIssue
  dsimp only
  split
  · dsimp only
    with_reducible apply State.awaited_sound
    assumption
  · split
    · dsimp only
      with_reducible apply State.awaited_sound
      assumption
    · dsimp only
      with_reducible apply State.awaited_sound
      assumption

theorem Run.finish_sound {a0} (h0 : a0.s.Sound T) : (Run.finish a0).Sound T := by
  unfold Run.finish
  split
  · split
    · assumption
    · with_reducible apply State.teamFatal_sound
      assumption
  · extract_lets t s
    have hs : s.Sound T := by
      assumption
    clear_value t s
    split
    · split
      · with_reducible apply State.fatal_sound
        assumption
      · with_reducible apply State.teamEnded_sound
        assumption
    · assumption

theorem runUnits_sound {a0 a1 a2} (h0 : ∀ (r : Run) n, r.s.Sound T → (a0 r n).s.Sound T) (h2 : a2.s.Sound T)
    : (runUnits a0 a1 a2).s.Sound T := by
  induction a1 generalizing a0 a2 h0 h2 with
  | nil =>
    unfold runUnits
    assumption
  | cons x r ih =>
    unfold runUnits
    dsimp only
    split
    · apply ih
      · intro _ _ _
        apply h0
        assumption
      · apply h0
        assumption
    · apply ih
      · intro _ _ _
        apply h0
        assumption
      · assumption
    · split
      · with_reducible apply State.exhaust_sound
        assumption
      · assumption
    · assumption

theorem runHeld_sound {a0 a1 a2 a3} (h0 : ∀ b0, (b0.s.Sound T) → ∀ b1, ((a0 b0) b1).s.Sound T) (h1 : ∀ b0, (b0.s.Sound T) → ∀ b1, ((a1 b0) b1).s.Sound T) (h3 : a3.s.Sound T) : (runHeld a0 a1 a2 a3).s.Sound T := by
  induction a2 generalizing a0 a1 a3 h0 h1 h3 with
  | nil =>
    unfold runHeld
    assumption
  | cons x r ih =>
    unfold runHeld
    dsimp only
    split
    · apply ih
      · intro _ _ _
        apply h0
        assumption
      · intro _ _ _
        apply h1
        assumption
      · split
        · apply h1
          apply h0
          assumption
        · apply h0
          assumption
    · apply ih
      · intro _ _ _
        apply h0
        assumption
      · intro _ _ _
        apply h1
        assumption
      · dsimp only
        split
        · apply h0
          assumption
        · assumption
    · dsimp only
      split
      · with_reducible apply State.exhaust_sound
        split
        · apply h0
          assumption
        · assumption
      · split
        · apply h0
          assumption
        · assumption
    · dsimp only
      split
      · apply h0
        assumption
      · assumption

theorem issue_sound {a0 a1 a2 a3 a4} (h3 : ∀ r : Run, r.s.Sound T → (a3 r).s.Sound T) (h4 : a4.Sound T)
    : OutSound T (issue a0 a1 a2 a3 a4) := by
  unfold issue
  split
  · apply fault_sound
  · split
    · apply fault_sound
    · split
      · apply next_sound
        with_reducible apply State.teamFatal_sound
        assumption
      · apply next_sound
        with_reducible apply Run.finish_sound
        apply h3
        with_reducible apply beginIssue_sound
        assumption

theorem issueUnits_sound {a0 a1 a2 a3} (h2 : ∀ (r : Run) n, r.s.Sound T → (a2 r n).s.Sound T) (h3 : a3.Sound T)
    : OutSound T (issueUnits a0 a1 a2 a3) := by
  unfold issueUnits
  with_reducible apply issue_sound
  · intro _ _
    with_reducible apply runUnits_sound
    · intro _ _ _
      apply h2
      assumption
    · assumption
  · assumption

theorem issueOnce_sound {a0 a1 a2} (h1 : ∀ (r : Run) n, r.s.Sound T → (a1 r n).s.Sound T) (h2 : a2.Sound T)
    : OutSound T (issueOnce a0 a1 a2) := by
  unfold issueOnce
  with_reducible apply issue_sound
  · intro _ _
    with_reducible apply runUnits_sound
    · intro _ _ _
      apply h1
      assumption
    · assumption
  · assumption

theorem Run.kept_sound {a0} (h0 : a0.s.Sound T) : (Run.kept a0).s.Sound T := by
  unfold Run.kept
  split
  · assumption
  · assumption
  · split
    · with_reducible apply State.exhaust_sound
      assumption
    · assumption
  · assumption

theorem onceFirst_sound {a0 a1} (h0 : ∀ (r : Run) n, r.s.Sound T → (a0 r n).s.Sound T) (h1 : a1.s.Sound T)
    : (onceFirst a0 a1).s.Sound T := by
  unfold onceFirst
  split
  · assumption
  · with_reducible apply Run.kept_sound
    apply h0
    assumption

theorem Run.writeEach_sound {a0 a1 a2 a3} (h0 : a0.s.Sound T) : (Run.writeEach a0 a1 a2 a3).s.Sound T := by
  unfold Run.writeEach
  apply foldl_runSound
  · intro _ _ _
    with_reducible apply Run.write_sound
    assumption
  · assumption

theorem issueKept_sound {a0 a1 a2} (h1 : ∀ (r : Run) n, r.s.Sound T → (a1 r n).s.Sound T) (h2 : a2.Sound T)
    : OutSound T (issueKept a0 a1 a2) := by
  unfold issueKept
  with_reducible apply issue_sound
  · intro _ _
    with_reducible apply onceFirst_sound
    · intro _ _ _
      apply h1
      assumption
    · assumption
  · assumption

theorem State.ladderUse_sound {a0 a1 a2} (h0 : a0.Sound T) : (State.ladderUse a0 a1 a2).Sound T := by
  unfold State.ladderUse
  split
  · assumption
  · with_reducible apply State.putCtx_sound
    assumption

theorem Run.ladderUse_sound {a0 a1} (h0 : a0.s.Sound T) : (Run.ladderUse a0 a1).s.Sound T := by
  unfold Run.ladderUse
  split
  · with_reducible apply State.ladderUse_sound
    assumption
  · assumption

theorem aluUnit_sound {a0 a1 a2 a3 a4} (h3 : a3.s.Sound T) : (aluUnit a0 a1 a2 a3 a4).s.Sound T := by
  unfold aluUnit
  dsimp only
  split
  · split
    · split
      · split
        · split
          · with_reducible apply Run.flags_sound
            with_reducible apply Run.write_sound
            with_reducible apply Run.read_sound
            with_reducible apply Run.read_sound
            with_reducible apply Run.read_sound
            assumption
          · with_reducible apply Run.flags_sound
            with_reducible apply Run.write_sound
            with_reducible apply Run.read_sound
            with_reducible apply Run.read_sound
            with_reducible apply Run.read_sound
            assumption
        · with_reducible apply Run.read_sound
          with_reducible apply Run.read_sound
          with_reducible apply Run.read_sound
          assumption
      · split
        · split
          · with_reducible apply Run.flags_sound
            with_reducible apply Run.write_sound
            with_reducible apply Run.read_sound
            with_reducible apply Run.read_sound
            assumption
          · with_reducible apply Run.flags_sound
            with_reducible apply Run.write_sound
            with_reducible apply Run.read_sound
            with_reducible apply Run.read_sound
            assumption
        · with_reducible apply Run.read_sound
          with_reducible apply Run.read_sound
          assumption
    · split
      · split
        · split
          · with_reducible apply Run.flags_sound
            with_reducible apply Run.write_sound
            with_reducible apply Run.read_sound
            with_reducible apply Run.read_sound
            assumption
          · with_reducible apply Run.flags_sound
            with_reducible apply Run.write_sound
            with_reducible apply Run.read_sound
            with_reducible apply Run.read_sound
            assumption
        · with_reducible apply Run.read_sound
          with_reducible apply Run.read_sound
          assumption
      · split
        · split
          · with_reducible apply Run.flags_sound
            with_reducible apply Run.write_sound
            with_reducible apply Run.read_sound
            assumption
          · with_reducible apply Run.flags_sound
            with_reducible apply Run.write_sound
            with_reducible apply Run.read_sound
            assumption
        · with_reducible apply Run.read_sound
          assumption
  · split
    · split
      · split
        · split
          · with_reducible apply Run.flags_sound
            with_reducible apply Run.write_sound
            with_reducible apply Run.read_sound
            with_reducible apply Run.read_sound
            assumption
          · with_reducible apply Run.flags_sound
            with_reducible apply Run.write_sound
            with_reducible apply Run.read_sound
            with_reducible apply Run.read_sound
            assumption
        · with_reducible apply Run.read_sound
          with_reducible apply Run.read_sound
          assumption
      · split
        · split
          · with_reducible apply Run.flags_sound
            with_reducible apply Run.write_sound
            with_reducible apply Run.read_sound
            assumption
          · with_reducible apply Run.flags_sound
            with_reducible apply Run.write_sound
            with_reducible apply Run.read_sound
            assumption
        · with_reducible apply Run.read_sound
          assumption
    · split
      · split
        · split
          · with_reducible apply Run.flags_sound
            with_reducible apply Run.write_sound
            with_reducible apply Run.read_sound
            assumption
          · with_reducible apply Run.flags_sound
            with_reducible apply Run.write_sound
            with_reducible apply Run.read_sound
            assumption
        · with_reducible apply Run.read_sound
          assumption
      · split
        · split
          · with_reducible apply Run.flags_sound
            with_reducible apply Run.write_sound
            assumption
          · with_reducible apply Run.flags_sound
            with_reducible apply Run.write_sound
            assumption
        · assumption

theorem issueAlu_sound {a0 a1 a2 a3} (h3 : a3.Sound T) : OutSound T (issueAlu a0 a1 a2 a3) := by
  unfold issueAlu
  with_reducible apply issueUnits_sound
  · intro _ _ _
    with_reducible apply aluUnit_sound
    assumption
  · assumption

/-! `Machine/Fetch.lean` -/

theorem State.tellAll_sound {a0 a1 a2} (h0 : a0.Sound T) : (State.tellAll a0 a1 a2).Sound T := by
  unfold State.tellAll
  apply foldl_sound
  · intro _ _ _
    with_reducible apply State.owe_sound
    assumption
  · assumption

theorem State.requestFn_sound {a0 a1 a2 a3} (h0 : a0.Sound T) : (State.requestFn a0 a1 a2 a3).Sound T := by
  unfold State.requestFn
  split
  · assumption
  · dsimp only
    with_reducible apply State.tellAll_sound
    assumption

/-! `Machine/Remote.lean` -/

theorem Run.combine_sound {a0 a1 a2 a3} (h0 : a0.s.Sound T) : (Run.combine a0 a1 a2 a3).s.Sound T := by
  unfold Run.combine
  dsimp only
  split
  · with_reducible apply Run.drain_sound
    assumption
  · split
    · with_reducible apply Run.drain_sound
      assumption
    · split
      · split
        · with_reducible apply Run.drainList_sound
          with_reducible apply Run.drain_sound
          assumption
        · with_reducible apply Run.drainList_sound
          with_reducible apply Run.drain_sound
          assumption
      · with_reducible apply Run.drain_sound
        assumption

theorem Run.beforeRelease_sound {a0 a1} (h0 : a0.s.Sound T) : (Run.beforeRelease a0 a1).s.Sound T := by
  unfold Run.beforeRelease
  dsimp only
  split
  · with_reducible apply Run.drain_sound
    assumption
  · split
    · with_reducible apply Run.stall_sound
      with_reducible apply Run.drain_sound
      assumption
    · with_reducible apply Run.drain_sound
      assumption

theorem Run.released_sound {a0 a1 a2} (h0 : a0.s.Sound T) (h2 : ∀ r : Run, r.s.Sound T → (a2 r).s.Sound T)
    : (Run.released a0 a1 a2).s.Sound T := by
  unfold Run.released
  dsimp only
  split
  · apply h2
    assumption
  · split
    · apply h2
      with_reducible apply Run.beforeRelease_sound
      assumption
    · with_reducible apply Run.beforeRelease_sound
      assumption

theorem sendReads_sound {a0 a1 a2 a3 a4 a5 a6 a7 a8} (h8 : a8.s.Sound T) :
    (sendReads a0 a1 a2 a3 a4 a5 a6 a7 a8).s.Sound T := by
  induction a6 generalizing a7 a8 with
  | zero => unfold sendReads; exact h8
  | succ n ih =>
    cases a7 with
    | nil => exact h8
    | cons x r =>
      unfold sendReads
      apply ih
      with_reducible apply State.send_sound
      dsimp only [State.Sound]
      apply State.Sound.fold
      assumption

theorem Run.afterLoads_sound {a0 a1 a2 a3 a4 a5 a6} (h0 : a0.s.Sound T) : (Run.afterLoads a0 a1 a2 a3 a4 a5 a6).s.Sound T := by
  unfold Run.afterLoads
  split
  · assumption
  · with_reducible apply sendReads_sound
    assumption

end Sys2Proof.Machine
end

