-- ==== Sys2Proof/Laws/SoundTeam.lean ====
section
/-! SUPPORT. Each function of these files keeps soundness: control, access, barriers, the engines and the system instructions. -/
namespace Sys2Proof.Machine

variable {T : Nat}

/-! `Machine/Control.lean` -/

theorem Run.goto_sound {a0 a1 a2} (h0 : a0.s.Sound T) : (Run.goto a0 a1 a2).s.Sound T := by
  unfold Run.goto
  dsimp only
  assumption

theorem Run.gotoAll_sound {a0 a1} (h0 : a0.s.Sound T) : (Run.gotoAll a0 a1).s.Sound T := by
  unfold Run.gotoAll
  dsimp only
  assumption

theorem Run.pushRet_sound {a0 a1 a2} (h0 : a0.s.Sound T) : (Run.pushRet a0 a1 a2).s.Sound T := by
  unfold Run.pushRet
  split
  · with_reducible apply Run.fatal_sound
    assumption
  · assumption

theorem State.putLink_sound {a0 a1 a2} (h0 : a0.Sound T) : (State.putLink a0 a1 a2).Sound T := by
  unfold State.putLink
  with_reducible apply State.putObj_sound
  assumption

theorem State.bindLink_sound {a0 a1 a2 a3 a4} (h0 : a0.Sound T) : (State.bindLink a0 a1 a2 a3 a4).Sound T := by
  unfold State.bindLink
  split
  · assumption
  · split
    · with_reducible apply State.pagePut_sound
      assumption
    · with_reducible apply State.missAdd_sound
      assumption
    · assumption

theorem State.settleLinkage_sound {a0} (h0 : a0.Sound T) : (State.settleLinkage a0).Sound T := by
  unfold State.settleLinkage
  apply foldl_sound
  · intro _ _ _
    split
    · with_reducible apply State.bindLink_sound
      assumption
    · assumption
  · assumption

theorem State.nodeEnter_sound {a0 a1 a2} (h0 : a0.Sound T) : (State.nodeEnter a0 a1 a2).Sound T := by
  unfold State.nodeEnter
  dsimp only [State.Sound]
  apply State.Sound.fold
  assumption

theorem Run.enter_sound {a0 a1 a2} (h0 : a0.s.Sound T) : (Run.enter a0 a1 a2).s.Sound T := by
  unfold Run.enter
  dsimp only
  split
  · with_reducible apply Run.goto_sound
    assumption
  · split
    · with_reducible apply Run.goto_sound
      with_reducible apply State.nodeEnter_sound
      assumption
    · split
      · with_reducible apply Run.fatal_sound
        with_reducible apply State.nodeEnter_sound
        assumption
      · with_reducible apply State.requestFn_sound
        with_reducible apply Run.goto_sound
        with_reducible apply State.nodeEnter_sound
        assumption

theorem Run.indirect_sound {a0 a1 a2} (h0 : a0.s.Sound T) : (Run.indirect a0 a1 a2).s.Sound T := by
  unfold Run.indirect
  split
  · split
    · with_reducible apply Run.enter_sound
      assumption
    · with_reducible apply Run.enter_sound
      assumption
    · split
      · with_reducible apply Run.fatal_sound
        assumption
      · split
        · with_reducible apply Run.enter_sound
          with_reducible apply State.bindLink_sound
          assumption
        · with_reducible apply Run.enter_sound
          with_reducible apply State.putLink_sound
          assumption
  · split
    · with_reducible apply Run.enter_sound
      assumption
    · with_reducible apply Run.fatal_sound
      assumption

theorem execBra_sound {a0 a1} (h1 : a1.Sound T) : OutSound T (execBra a0 a1) := by
  unfold execBra
  with_reducible apply issue_sound
  · intro _ _
    with_reducible apply runUnits_sound
    · intro _ _ _
      with_reducible apply Run.goto_sound
      assumption
    · assumption
  · assumption

theorem execBrx_sound {a0 a1} (h1 : a1.Sound T) : OutSound T (execBrx a0 a1) := by
  unfold execBrx
  with_reducible apply issue_sound
  · intro _ _
    with_reducible apply runUnits_sound
    · intro _ _ _
      with_reducible apply Run.indirect_sound
      assumption
    · assumption
  · assumption

theorem execCall_sound {a0 a1} (h1 : a1.Sound T) : OutSound T (execCall a0 a1) := by
  unfold execCall
  dsimp only
  with_reducible apply issue_sound
  · intro _ _
    with_reducible apply runUnits_sound
    · intro _ _ _
      split
      · with_reducible apply Run.goto_sound
        with_reducible apply Run.pushRet_sound
        assumption
      · with_reducible apply Run.pushRet_sound
        assumption
    · assumption
  · assumption

theorem execCallx_sound {a0 a1} (h1 : a1.Sound T) : OutSound T (execCallx a0 a1) := by
  unfold execCallx
  dsimp only
  with_reducible apply issue_sound
  · intro _ _
    with_reducible apply runUnits_sound
    · intro _ _ _
      split
      · with_reducible apply Run.indirect_sound
        with_reducible apply Run.pushRet_sound
        assumption
      · with_reducible apply Run.pushRet_sound
        assumption
    · assumption
  · assumption

theorem retUnit_sound {a0 a1} (h0 : a0.s.Sound T) : (retUnit a0 a1).s.Sound T := by
  unfold retUnit
  split
  · with_reducible apply Run.fatal_sound
    assumption
  · split
    · with_reducible apply Run.goto_sound
      assumption
    · with_reducible apply Run.fatal_sound
      assumption

theorem execRet_sound {a0 a1} (h1 : a1.Sound T) : OutSound T (execRet a0 a1) := by
  unfold execRet
  with_reducible apply issue_sound
  · intro _ _
    with_reducible apply runUnits_sound
    · intro _ _ _
      with_reducible apply retUnit_sound
      assumption
    · assumption
  · assumption

theorem exitUnit_sound {a0 a1} (h0 : a0.s.Sound T) : (exitUnit a0 a1).s.Sound T := by
  unfold exitUnit
  dsimp only
  assumption

theorem execExit_sound {a0 a1} (h1 : a1.Sound T) : OutSound T (execExit a0 a1) := by
  unfold execExit
  with_reducible apply issue_sound
  · intro _ _
    with_reducible apply Run.released_sound
    · assumption
    · intro _ _
      with_reducible apply runUnits_sound
      · intro _ _ _
        with_reducible apply exitUnit_sound
        assumption
      · assumption
  · assumption

theorem teamInstr_sound {a0 a1} (h0 : a0.s.Sound T) (h1 : ∀ r : Run, r.s.Sound T → (a1 r).s.Sound T) : (teamInstr a0 a1).s.Sound T := by
  unfold teamInstr
  dsimp only
  split
  · assumption
  · split
    · apply h1
      assumption
    · split
      · assumption
      · assumption

theorem Run.stackFault_sound {a0 a1} (h0 : a0.s.Sound T) : (Run.stackFault a0 a1).s.Sound T := by
  unfold Run.stackFault
  dsimp only
  assumption

theorem execMpush_sound {a0 a1} (h1 : a1.Sound T) : OutSound T (execMpush a0 a1) := by
  unfold execMpush
  dsimp only
  with_reducible apply issue_sound
  · intro _ _
    with_reducible apply teamInstr_sound
    · assumption
    · intro _ _
      split
      · with_reducible apply Run.stackFault_sound
        assumption
      · assumption
  · assumption

theorem execMinv_sound {a0 a1} (h1 : a1.Sound T) : OutSound T (execMinv a0 a1) := by
  unfold execMinv
  dsimp only
  with_reducible apply issue_sound
  · intro _ _
    with_reducible apply teamInstr_sound
    · assumption
    · intro _ _
      split
      · assumption
      · with_reducible apply Run.stackFault_sound
        assumption
  · assumption

theorem execMpop_sound {a0 a1} (h1 : a1.Sound T) : OutSound T (execMpop a0 a1) := by
  unfold execMpop
  dsimp only
  with_reducible apply issue_sound
  · intro _ _
    with_reducible apply teamInstr_sound
    · assumption
    · intro _ _
      split
      · assumption
      · with_reducible apply Run.stackFault_sound
        assumption
  · assumption

theorem execBzm_sound {a0 a1} (h1 : a1.Sound T) : OutSound T (execBzm a0 a1) := by
  unfold execBzm
  with_reducible apply issue_sound
  · intro _ _
    with_reducible apply teamInstr_sound
    · assumption
    · intro _ _
      split
      · with_reducible apply Run.gotoAll_sound
        assumption
      · assumption
  · assumption

theorem execLoop_sound {a0 a1} (h1 : a1.Sound T) : OutSound T (execLoop a0 a1) := by
  unfold execLoop
  dsimp only
  with_reducible apply issue_sound
  · intro _ _
    with_reducible apply teamInstr_sound
    · assumption
    · intro _ _
      split
      · with_reducible apply Run.stackFault_sound
        assumption
      · split
        · with_reducible apply Run.gotoAll_sound
          assumption
        · assumption
  · assumption

theorem execEndloop_sound {a0 a1} (h1 : a1.Sound T) : OutSound T (execEndloop a0 a1) := by
  unfold execEndloop
  dsimp only
  with_reducible apply issue_sound
  · intro _ _
    with_reducible apply teamInstr_sound
    · assumption
    · intro _ _
      split
      · with_reducible apply Run.stackFault_sound
        assumption
      · split
        · with_reducible apply Run.gotoAll_sound
          assumption
        · assumption
  · assumption

theorem execYield_sound {a0 a1} (h1 : a1.Sound T) : OutSound T (execYield a0 a1) := by
  unfold execYield
  dsimp only
  with_reducible apply issue_sound
  · intro _ _
    split
    · assumption
    · assumption
  · assumption

theorem Run.hold_sound {a0 a1 a2} (h0 : a0.s.Sound T) : (Run.hold a0 a1 a2).s.Sound T := by
  unfold Run.hold
  dsimp only
  assumption

theorem Run.holdAll_sound {a0 a1} (h0 : a0.s.Sound T) : (Run.holdAll a0 a1).s.Sound T := by
  unfold Run.holdAll
  with_reducible apply runUnits_sound
  · intro _ _ _
    assumption
  · assumption

theorem execReconv_sound {a0 a1} (h1 : a1.Sound T) : OutSound T (execReconv a0 a1) := by
  unfold execReconv
  with_reducible apply issue_sound
  · intro _ _
    split
    · with_reducible apply Run.holdAll_sound
      assumption
    · assumption
  · assumption

theorem execRjoin_sound {a0 a1} (h1 : a1.Sound T) : OutSound T (execRjoin a0 a1) := by
  unfold execRjoin
  with_reducible apply issue_sound
  · intro _ _
    split
    · with_reducible apply Run.holdAll_sound
      assumption
    · assumption
  · assumption

theorem execDqpop_sound {a0 a1} (h1 : a1.Sound T) : OutSound T (execDqpop a0 a1) := by
  unfold execDqpop
  dsimp only
  with_reducible apply issue_sound
  · intro _ _
    split
    · assumption
    · split
      · with_reducible apply runUnits_sound
        · intro _ _ _
          with_reducible apply Run.write_sound
          assumption
        · assumption
      · split
        · assumption
        · split
          · with_reducible apply runUnits_sound
            · intro _ _ _
              with_reducible apply Run.write_sound
              assumption
            · assumption
          · with_reducible apply runUnits_sound
            · intro _ _ _
              with_reducible apply Run.write_sound
              assumption
            · assumption
  · assumption

theorem execNop_sound {a0 a1} (h1 : a1.Sound T) : OutSound T (execNop a0 a1) := by
  unfold execNop
  with_reducible apply issue_sound
  · intro _ _
    assumption
  · assumption

theorem execBrk_sound {a0 a1} (h1 : a1.Sound T) : OutSound T (execBrk a0 a1) := by
  unfold execBrk
  dsimp only
  with_reducible apply issue_sound
  · intro _ _
    split
    · split
      · with_reducible apply State.fqBreak_sound
        assumption
      · assumption
    · assumption
  · assumption

theorem execTrap_sound {a0 a1} (h1 : a1.Sound T) : OutSound T (execTrap a0 a1) := by
  unfold execTrap
  dsimp only
  with_reducible apply issue_sound
  · intro _ _
    split
    · assumption
    · assumption
  · assumption

theorem trapStub_sound {a0 a1 a2 a3} (h3 : a3.Sound T) : OutSound T (trapStub a0 a1 a2 a3) := by
  unfold trapStub
  dsimp only
  with_reducible apply issue_sound
  · intro _ _
    split
    · split
      · with_reducible apply Run.ladderUse_sound
        assumption
      · assumption
    · assumption
  · assumption

theorem execTrapStubIssue_sound {a0 a1 a2} (h2 : a2.Sound T) : OutSound T (execTrapStubIssue a0 a1 a2) := by
  unfold execTrapStubIssue
  with_reducible apply trapStub_sound
  assumption

theorem execLdsh_sound {a0 a1 a2} (h2 : a2.Sound T) : OutSound T (execLdsh a0 a1 a2) := by
  unfold execLdsh
  with_reducible apply trapStub_sound
  assumption

theorem execPmma_sound {a0 a1 a2} (h2 : a2.Sound T) : OutSound T (execPmma a0 a1 a2) := by
  unfold execPmma
  with_reducible apply trapStub_sound
  assumption

theorem execBwt_sound {a0 a1 a2} (h2 : a2.Sound T) : OutSound T (execBwt a0 a1 a2) := by
  unfold execBwt
  with_reducible apply trapStub_sound
  assumption

/-! `Machine/MemInstr.lean` -/

theorem seen_sound {a0 a1 a2} (h0 : a0.1.s.Sound T) : ((seen a0 a1 a2).1).s.Sound T := by
  unfold seen
  split
  · assumption
  · extract_lets y
    have hy : y.1.Sound T := by
      unfold y
      with_reducible apply State.staleRead_sound
      assumption
    clear_value y
    assumption

theorem Run.loadAt_sound {a0 a1 a2 a3 a4 a5} (h0 : a0.s.Sound T) : ((Run.loadAt a0 a1 a2 a3 a4 a5).1).s.Sound T := by
  unfold Run.loadAt
  split
  · split
    · assumption
    · extract_lets r1
      have hr1 : r1.s.Sound T := by
        unfold r1
        with_reducible apply Run.drain_sound
        assumption
      clear_value r1
      split
      · assumption
      · split
        · dsimp only
          refine someRun_of (by assumption) ?_
          with_reducible apply Run.bar_sound
          assumption
        · assumption
  · extract_lets r0
    have hr0 : r0.s.Sound T := by
      unfold r0
      split
      · assumption
      · assumption
    clear_value r0
    with_reducible apply seen_sound
    with_reducible apply Run.readAt_sound
    assumption
  · with_reducible apply seen_sound
    with_reducible apply Run.readAt_sound
    assumption

theorem Run.loadDone_sound {a0 a1 a2 a3} (h0 : a0.s.Sound T) : (Run.loadDone a0 a1 a2 a3).s.Sound T := by
  unfold Run.loadDone
  extract_lets r1
  have hr1 : r1.s.Sound T := by
    unfold r1
    split
    · dsimp only
      with_reducible apply State.acquire_sound
      assumption
    · assumption
  clear_value r1
  with_reducible apply Run.write_sound
  assumption

theorem Run.loadTo_sound {a0 a1 a2 a3} (h0 : a0.s.Sound T) : (Run.loadTo a0 a1 a2 a3).s.Sound T := by
  unfold Run.loadTo
  dsimp only
  split
  · refine Checked.halt_of (by assumption) ?_
    with_reducible apply Run.check_sound
    assumption
  · split
    · split
      · with_reducible apply Run.loadDone_sound
        with_reducible apply Run.loadAt_sound
        assumption
      · with_reducible apply Run.loadAt_sound
        assumption
    · with_reducible apply Run.loadAt_sound
      assumption

theorem Run.await_sound {a0 a1} (h0 : a0.s.Sound T) : (Run.await a0 a1).s.Sound T := by
  unfold Run.await
  split
  · assumption
  · assumption

theorem Run.storeFrom_sound {a0 a1 a2 a3} (h0 : a0.s.Sound T) : (Run.storeFrom a0 a1 a2 a3).s.Sound T := by
  unfold Run.storeFrom
  dsimp only
  split
  · with_reducible apply Run.settleRel_sound
    assumption
  · split
    · with_reducible apply Run.read_sound
      with_reducible apply Run.settleRel_sound
      assumption
    · split
      · refine Checked.halt_of (by assumption) ?_
        with_reducible apply Run.check_sound
        with_reducible apply Run.read_sound
        with_reducible apply Run.settleRel_sound
        assumption
      · split
        · split
          · with_reducible apply Run.await_sound
            with_reducible apply Run.remoteWrite_sound
            with_reducible apply Run.read_sound
            with_reducible apply Run.settleRel_sound
            assumption
          · with_reducible apply Run.combine_sound
            with_reducible apply Run.read_sound
            with_reducible apply Run.settleRel_sound
            assumption
        · with_reducible apply Run.await_sound
          split
          · dsimp only
            with_reducible apply State.l1Clean_sound
            with_reducible apply Run.writeAt_sound
            with_reducible apply Run.read_sound
            with_reducible apply Run.settleRel_sound
            assumption
          · with_reducible apply Run.writeAt_sound
            with_reducible apply Run.read_sound
            with_reducible apply Run.settleRel_sound
            assumption
        · with_reducible apply Run.writeAt_sound
          with_reducible apply Run.read_sound
          with_reducible apply Run.settleRel_sound
          assumption

theorem Run.holdRanks_sound {a0 a1 a2} (h2 : a2.s.Sound T) : (Run.holdRanks a0 a1 a2).s.Sound T := by
  induction a1 generalizing a0 a2 h2 with
  | nil =>
    unfold Run.holdRanks
    assumption
  | cons x r ih =>
    unfold Run.holdRanks
    apply ih
    assumption

theorem Run.holdAddr_sound {a0 a1 a2} (h0 : a0.s.Sound T) : (Run.holdAddr a0 a1 a2).s.Sound T := by
  unfold Run.holdAddr
  assumption

theorem Run.dropHeld_sound {a0 a1} (h0 : a0.s.Sound T) : (Run.dropHeld a0 a1).s.Sound T := by
  unfold Run.dropHeld
  dsimp only
  assumption

theorem Run.offset_sound {a0 a1 a2} (h0 : a0.s.Sound T) : (Run.offset a0 a1 a2).1.s.Sound T := by
  unfold Run.offset
  dsimp only
  with_reducible apply Run.read_sound
  assumption

theorem Run.endLoads_sound {a0 a1 a2} (h0 : a0.s.Sound T) : (Run.endLoads a0 a1 a2).s.Sound T := by
  unfold Run.endLoads
  with_reducible apply Run.afterLoads_sound
  assumption

theorem Run.before_sound {a0 a1} (h0 : a0.s.Sound T) : (Run.before a0 a1).s.Sound T := by
  unfold Run.before
  extract_lets s1
  have hs1 : s1.Sound T := by
    unfold s1
    with_reducible apply State.release_sound
    assumption
  clear_value s1
  dsimp only
  split
  · with_reducible apply State.acquire_sound
    assumption
  · assumption

theorem Run.after_sound {a0 a1} (h0 : a0.s.Sound T) : (Run.after a0 a1).s.Sound T := by
  unfold Run.after
  split
  · dsimp only
    with_reducible apply State.acquire_sound
    with_reducible apply State.release_sound
    assumption
  · assumption

theorem ordered_sound {a0 a1 a2} (h1 : ∀ b0, (b0.s.Sound T) → (a1 b0).s.Sound T) (h2 : a2.s.Sound T) : (ordered a0 a1 a2).s.Sound T := by
  unfold ordered
  split
  · with_reducible apply Run.released_sound
    · assumption
    · intro _ _
      with_reducible apply Run.after_sound
      apply h1
      split
      · assumption
      · with_reducible apply Run.before_sound
        assumption
  · apply h1
    assumption

theorem ldUnit_sound {a0 a1 a2} (h1 : a1.s.Sound T) : (ldUnit a0 a1 a2).s.Sound T := by
  unfold ldUnit
  dsimp only
  split
  · with_reducible apply Run.loadTo_sound
    with_reducible apply Run.offset_sound
    assumption
  · with_reducible apply Run.offset_sound
    assumption

theorem execLd_sound {a0 a1} (h1 : a1.Sound T) : OutSound T (execLd a0 a1) := by
  unfold execLd
  with_reducible apply issue_sound
  · intro _ _
    with_reducible apply ordered_sound
    · intro _ _
      with_reducible apply Run.endLoads_sound
      with_reducible apply runUnits_sound
      · intro _ _ _
        with_reducible apply ldUnit_sound
        assumption
      · assumption
    · assumption
  · assumption

theorem stUnit_sound {a0 a1 a2} (h1 : a1.s.Sound T) : (stUnit a0 a1 a2).s.Sound T := by
  unfold stUnit
  dsimp only
  split
  · with_reducible apply Run.storeFrom_sound
    with_reducible apply Run.offset_sound
    assumption
  · with_reducible apply Run.offset_sound
    assumption

theorem execSt_sound {a0 a1} (h1 : a1.Sound T) : OutSound T (execSt a0 a1) := by
  unfold execSt
  with_reducible apply issue_sound
  · intro _ _
    with_reducible apply ordered_sound
    · intro _ _
      with_reducible apply Run.mayRoll_sound
      with_reducible apply runUnits_sound
      · intro _ _ _
        with_reducible apply stUnit_sound
        assumption
      · assumption
    · assumption
  · assumption

theorem gatherUnit_sound {a0 a1 a2} (h1 : a1.s.Sound T) : (gatherUnit a0 a1 a2).s.Sound T := by
  unfold gatherUnit
  split
  · assumption
  · extract_lets x
    have hx : x.1.s.Sound T := by
      unfold x
      with_reducible apply Run.offset_sound
      assumption
    clear_value x
    split
    · assumption
    · assumption

theorem rankUnit_sound {a0 a1 a2} (h1 : a1.s.Sound T) : (rankUnit a0 a1 a2).s.Sound T := by
  unfold rankUnit
  split
  · assumption
  · extract_lets x
    have hx : x.1.s.Sound T := by
      unfold x
      with_reducible apply Run.read_sound
      assumption
    clear_value x
    split
    · assumption
    · assumption

theorem heldLoad_sound {a0 a1 a2} (h1 : a1.s.Sound T) : (heldLoad a0 a1 a2).s.Sound T := by
  unfold heldLoad
  with_reducible apply Run.dropHeld_sound
  with_reducible apply Run.loadTo_sound
  assumption

theorem heldStore_sound {a0 a1 a2} (h1 : a1.s.Sound T) : (heldStore a0 a1 a2).s.Sound T := by
  unfold heldStore
  with_reducible apply Run.dropHeld_sound
  with_reducible apply Run.storeFrom_sound
  assumption

theorem Run.ranked_sound {a0 a1 a2} (h0 : a0.s.Sound T) : (Run.ranked a0 a1 a2).s.Sound T := by
  unfold Run.ranked
  split
  · assumption
  · with_reducible apply Run.holdRanks_sound
    assumption

theorem execLdg_sound {a0 a1} (h1 : a1.Sound T) : OutSound T (execLdg a0 a1) := by
  unfold execLdg
  with_reducible apply issue_sound
  · intro _ _
    with_reducible apply ordered_sound
    · intro _ _
      with_reducible apply Run.endLoads_sound
      with_reducible apply runHeld_sound
      · intro _ _ _
        with_reducible apply gatherUnit_sound
        assumption
      · intro _ _ _
        with_reducible apply heldLoad_sound
        assumption
      · assumption
    · assumption
  · assumption

theorem execStsc_sound {a0 a1} (h1 : a1.Sound T) : OutSound T (execStsc a0 a1) := by
  unfold execStsc
  with_reducible apply issue_sound
  · intro _ _
    with_reducible apply ordered_sound
    · intro _ _
      with_reducible apply Run.mayRoll_sound
      with_reducible apply runHeld_sound
      · intro _ _ _
        with_reducible apply gatherUnit_sound
        assumption
      · intro _ _ _
        with_reducible apply heldStore_sound
        assumption
      · assumption
    · assumption
  · assumption

theorem execCst_sound {a0 a1} (h1 : a1.Sound T) : OutSound T (execCst a0 a1) := by
  unfold execCst
  with_reducible apply issue_sound
  · intro _ _
    with_reducible apply ordered_sound
    · intro _ _
      with_reducible apply Run.mayRoll_sound
      with_reducible apply runHeld_sound
      · intro _ _ _
        with_reducible apply rankUnit_sound
        assumption
      · intro _ _ _
        with_reducible apply heldStore_sound
        assumption
      · with_reducible apply Run.ranked_sound
        assumption
    · assumption
  · assumption

theorem execExl_sound {a0 a1} (h1 : a1.Sound T) : OutSound T (execExl a0 a1) := by
  unfold execExl
  with_reducible apply issue_sound
  · intro _ _
    with_reducible apply ordered_sound
    · intro _ _
      with_reducible apply Run.endLoads_sound
      with_reducible apply runHeld_sound
      · intro _ _ _
        with_reducible apply rankUnit_sound
        assumption
      · intro _ _ _
        with_reducible apply heldLoad_sound
        assumption
      · with_reducible apply Run.ranked_sound
        assumption
    · assumption
  · assumption

theorem Run.atomicAt_sound {a0 a1 a2 a3 a4 a5 a6 a7} (h0 : a0.s.Sound T) : (Run.atomicAt a0 a1 a2 a3 a4 a5 a6 a7).1.s.Sound T := by
  unfold Run.atomicAt
  dsimp only
  split
  · split
    · split
      · with_reducible apply Run.readAt_sound
        with_reducible apply State.l1Drop_sound
        with_reducible apply State.l1Clean_sound
        assumption
      · with_reducible apply State.l1Clean_sound
        with_reducible apply Run.flags_sound
        with_reducible apply Run.writeAt_sound
        with_reducible apply Run.readAt_sound
        with_reducible apply State.l1Drop_sound
        with_reducible apply State.l1Clean_sound
        assumption
    · split
      · with_reducible apply Run.readAt_sound
        assumption
      · with_reducible apply Run.flags_sound
        with_reducible apply Run.writeAt_sound
        with_reducible apply Run.readAt_sound
        assumption
  · split
    · with_reducible apply Run.readAt_sound
      assumption
    · with_reducible apply Run.flags_sound
      with_reducible apply Run.writeAt_sound
      with_reducible apply Run.readAt_sound
      split
      · split
        · with_reducible apply State.l1Drop_sound
          with_reducible apply State.l1Clean_sound
          assumption
        · assumption
      · assumption

theorem Run.remoteAtomic_sound {a0 a1 a2 a3 a4 a5 a6 a7 a8} (h0 : a0.s.Sound T) : (Run.remoteAtomic a0 a1 a2 a3 a4 a5 a6 a7 a8).s.Sound T := by
  unfold Run.remoteAtomic
  dsimp only
  split
  · with_reducible apply Run.drain_sound
    assumption
  · split
    · refine someRun_of (by assumption) ?_
      with_reducible apply Run.bar_sound
      with_reducible apply Run.drain_sound
      assumption
    · split
      · dsimp only
        with_reducible apply State.send_sound
        dsimp only [State.Sound]
        apply State.Sound.fold
        with_reducible apply Run.drain_sound
        assumption
      · with_reducible apply Run.await_sound
        dsimp only
        with_reducible apply State.send_sound
        split
        · with_reducible apply State.freeValue_sound
          dsimp only [State.Sound]
          apply State.Sound.fold
          with_reducible apply Run.drain_sound
          assumption
        · dsimp only
          dsimp only [State.Sound]
          apply State.Sound.fold
          with_reducible apply Run.drain_sound
          assumption

theorem atomUnit_sound {a0 a1 a2 a3} (h2 : a2.s.Sound T) : (atomUnit a0 a1 a2 a3).s.Sound T := by
  unfold atomUnit
  dsimp only
  split
  · with_reducible apply Run.settleRel_sound
    assumption
  · split
    · split
      · with_reducible apply Run.read_sound
        with_reducible apply Run.read_sound
        with_reducible apply Run.settleRel_sound
        assumption
      · split
        · refine Checked.halt_of (by assumption) ?_
          with_reducible apply Run.check_sound
          with_reducible apply Run.read_sound
          with_reducible apply Run.read_sound
          with_reducible apply Run.settleRel_sound
          assumption
        · split
          · with_reducible apply Run.remoteAtomic_sound
            with_reducible apply Run.read_sound
            with_reducible apply Run.read_sound
            with_reducible apply Run.settleRel_sound
            assumption
          · split
            · with_reducible apply Run.atomicAt_sound
              with_reducible apply Run.read_sound
              with_reducible apply Run.read_sound
              with_reducible apply Run.settleRel_sound
              assumption
            · with_reducible apply Run.await_sound
              with_reducible apply Run.write_sound
              split
              · dsimp only
                with_reducible apply State.acquire_sound
                with_reducible apply Run.atomicAt_sound
                with_reducible apply Run.read_sound
                with_reducible apply Run.read_sound
                with_reducible apply Run.settleRel_sound
                assumption
              · with_reducible apply Run.atomicAt_sound
                with_reducible apply Run.read_sound
                with_reducible apply Run.read_sound
                with_reducible apply Run.settleRel_sound
                assumption
    · split
      · dsimp only
        with_reducible apply Run.read_sound
        with_reducible apply Run.settleRel_sound
        assumption
      · split
        · refine Checked.halt_of (by assumption) ?_
          with_reducible apply Run.check_sound
          dsimp only
          with_reducible apply Run.read_sound
          with_reducible apply Run.settleRel_sound
          assumption
        · split
          · with_reducible apply Run.remoteAtomic_sound
            dsimp only
            with_reducible apply Run.read_sound
            with_reducible apply Run.settleRel_sound
            assumption
          · split
            · with_reducible apply Run.atomicAt_sound
              dsimp only
              with_reducible apply Run.read_sound
              with_reducible apply Run.settleRel_sound
              assumption
            · with_reducible apply Run.await_sound
              split
              · dsimp only
                with_reducible apply State.acquire_sound
                with_reducible apply Run.atomicAt_sound
                with_reducible apply Run.read_sound
                with_reducible apply Run.settleRel_sound
                assumption
              · with_reducible apply Run.atomicAt_sound
                dsimp only
                with_reducible apply Run.read_sound
                with_reducible apply Run.settleRel_sound
                assumption

theorem execAtom_sound {a0 a1} (h1 : a1.Sound T) : OutSound T (execAtom a0 a1) := by
  unfold execAtom
  with_reducible apply issue_sound
  · intro _ _
    with_reducible apply ordered_sound
    · intro _ _
      with_reducible apply runUnits_sound
      · intro _ _ _
        with_reducible apply atomUnit_sound
        assumption
      · assumption
    · assumption
  · assumption

theorem execRed_sound {a0 a1} (h1 : a1.Sound T) : OutSound T (execRed a0 a1) := by
  unfold execRed
  with_reducible apply issue_sound
  · intro _ _
    with_reducible apply ordered_sound
    · intro _ _
      with_reducible apply runUnits_sound
      · intro _ _ _
        with_reducible apply atomUnit_sound
        assumption
      · assumption
    · assumption
  · assumption

theorem fenceBody_sound {a0 a1} (h1 : a1.s.Sound T) : (fenceBody a0 a1).s.Sound T := by
  unfold fenceBody
  split
  · assumption
  · dsimp only
    split
    · dsimp only
      with_reducible apply State.acquire_sound
      split
      · dsimp only
        with_reducible apply State.release_sound
        assumption
      · split
        · assumption
        · assumption
    · split
      · dsimp only
        with_reducible apply State.release_sound
        assumption
      · split
        · assumption
        · assumption

theorem execFence_sound {a0 a1} (h1 : a1.Sound T) : OutSound T (execFence a0 a1) := by
  unfold execFence
  with_reducible apply issue_sound
  · intro _ _
    split
    · with_reducible apply Run.released_sound
      · assumption
      · intro _ _
        with_reducible apply fenceBody_sound
        assumption
    · split
      · with_reducible apply Run.released_sound
        · assumption
        · intro _ _
          with_reducible apply fenceBody_sound
          assumption
      · with_reducible apply fenceBody_sound
        assumption
  · assumption

theorem pfUnit_sound {a0 a1 a2} (h1 : a1.s.Sound T) : (pfUnit a0 a1 a2).s.Sound T := by
  unfold pfUnit
  dsimp only
  split
  · split
    · with_reducible apply State.l1Keep_sound
      with_reducible apply Run.offset_sound
      assumption
    · with_reducible apply Run.offset_sound
      assumption
  · with_reducible apply Run.stall_sound
    assumption
  · assumption

theorem execPf_sound {a0 a1} (h1 : a1.Sound T) : OutSound T (execPf a0 a1) := by
  unfold execPf
  with_reducible apply issueUnits_sound
  · intro _ _ _
    with_reducible apply pfUnit_sound
    assumption
  · assumption

theorem State.cacheAll_sound {a0 a1 a2 a3} (h3 : a3.Sound T) : (State.cacheAll a0 a1 a2 a3).Sound T := by
  induction a2 generalizing a0 a1 a3 h3 with
  | nil =>
    unfold State.cacheAll
    assumption
  | cons x r ih =>
    unfold State.cacheAll
    dsimp only
    apply ih
    split
    · with_reducible apply State.l1Drop_sound
      with_reducible apply State.l1Clean_sound
      assumption
    · with_reducible apply State.l1Clean_sound
      assumption

theorem cacheUnit_sound {a0 a1 a2 a3} (h2 : a2.s.Sound T) : (cacheUnit a0 a1 a2 a3).s.Sound T := by
  unfold cacheUnit
  dsimp only
  split
  · with_reducible apply Run.read_sound
    assumption
  · split
    · with_reducible apply Run.read_sound
      assumption
    · split
      · with_reducible apply Run.fatal_sound
        with_reducible apply Run.read_sound
        assumption
      · split
        · with_reducible apply Run.fatal_sound
          with_reducible apply Run.read_sound
          assumption
        · split
          · with_reducible apply Run.lockedAt_sound
            with_reducible apply Run.read_sound
            assumption
          · split
            · with_reducible apply Run.read_sound
              assumption
            · split
              · with_reducible apply Run.read_sound
                assumption
              · dsimp only
                with_reducible apply State.cacheAll_sound
                with_reducible apply Run.read_sound
                assumption

theorem execCinv_sound {a0 a1} (h1 : a1.Sound T) : OutSound T (execCinv a0 a1) := by
  unfold execCinv
  with_reducible apply issueUnits_sound
  · intro _ _ _
    with_reducible apply cacheUnit_sound
    assumption
  · assumption

theorem execCwb_sound {a0 a1} (h1 : a1.Sound T) : OutSound T (execCwb a0 a1) := by
  unfold execCwb
  with_reducible apply issueUnits_sound
  · intro _ _ _
    with_reducible apply cacheUnit_sound
    assumption
  · assumption

theorem noRecord_sound {a0} (h0 : a0.s.Sound T) : (noRecord a0).s.Sound T := by
  unfold noRecord
  dsimp only
  split
  · assumption
  · assumption

theorem sbindUnit_sound {a0 a1 a2 a3} (h2 : a2.s.Sound T) : (sbindUnit a0 a1 a2 a3).s.Sound T := by
  unfold sbindUnit
  split
  · with_reducible apply Run.stall_sound
    assumption
  · assumption

theorem execSbind_sound {a0 a1} (h1 : a1.Sound T) : OutSound T (execSbind a0 a1) := by
  unfold execSbind
  with_reducible apply issue_sound
  · intro _ _
    split
    · with_reducible apply noRecord_sound
      assumption
    · with_reducible apply runUnits_sound
      · intro _ _ _
        with_reducible apply sbindUnit_sound
        assumption
      · assumption
  · assumption

theorem scloseUnit_sound {a0 a1 a2} (h1 : a1.s.Sound T) : (scloseUnit a0 a1 a2).s.Sound T := by
  unfold scloseUnit
  dsimp only
  split
  · with_reducible apply Run.stall_sound
    assumption
  · assumption

theorem execSclose_sound {a0 a1} (h1 : a1.Sound T) : OutSound T (execSclose a0 a1) := by
  unfold execSclose
  with_reducible apply issue_sound
  · intro _ _
    split
    · with_reducible apply noRecord_sound
      assumption
    · extract_lets body
      have hbody : ∀ b0, (b0.s.Sound T) → (body b0).s.Sound T := by
        intro _ _
        unfold body
        with_reducible apply runUnits_sound
        · intro _ _ _
          with_reducible apply scloseUnit_sound
          assumption
        · assumption
      clear_value body
      split
      · with_reducible apply Run.released_sound
        · assumption
        · intro _ _
          apply hbody
          split
          · assumption
          · dsimp only
            with_reducible apply State.release_sound
            assumption
      · apply hbody
        assumption
  · assumption

/-! `Machine/Barrier.lean` -/

theorem State.cohPut_sound {a0 a1 a2} (h0 : a0.Sound T) : (State.cohPut a0 a1 a2).Sound T := by
  unfold State.cohPut
  split
  · exact State.healUnits_sound (h0.setDram (spWf_spPut 0 _ _ h0.1))
  · exact State.hostPut_sound h0
  · exact h0

theorem State.objAct_sound {a0 a1 a2 a3 a4} (h0 : a0.Sound T) : ((State.objAct a0 a1 a2 a3 a4).1).Sound T := by
  unfold State.objAct
  extract_lets bs phase count bad good armed met busy scopeBad
  have hbad : ∀ b0, ((bad b0).1).Sound T := by
    intro _
    assumption
  split
  · split
    · assumption
    · dsimp only
      with_reducible apply State.cohPut_sound
      assumption
  · split
    · assumption
    · split
      · assumption
      · split
        · assumption
        · dsimp only
          with_reducible apply State.cohPut_sound
          assumption
  · split
    · assumption
    · split
      · assumption
      · split
        · assumption
        · split
          · dsimp only
            with_reducible apply State.cohPut_sound
            assumption
          · dsimp only
            with_reducible apply State.cohPut_sound
            assumption
  · split
    · assumption
    · split
      · assumption
      · assumption
  · split
    · assumption
    · split
      · assumption
      · assumption
  · assumption

theorem barServeGo_sound {a0 a1 a2 a3 a4} (h0 : a0.Sound T) : (barServeGo a0 a1 a2 a3 a4).Sound T := by
  induction a4 generalizing a0 a1 a2 a3 h0 with
  | nil =>
    unfold barServeGo
    assumption
  | cons x r ih =>
    unfold barServeGo
    dsimp only
    split
    · apply ih
      with_reducible apply State.send_sound
      dsimp only [State.Sound]
      apply State.Sound.fold
      assumption
    · apply ih
      assumption

theorem State.objEvent_sound {a0 a1 a2 a3 a4 a5} (h0 : a0.Sound T) : (State.objEvent a0 a1 a2 a3 a4 a5).1.Sound T := by
  unfold State.objEvent
  dsimp only
  with_reducible apply barServeGo_sound
  split
  · split
    · with_reducible apply State.sendWrites_sound
      with_reducible apply State.objAct_sound
      assumption
    · with_reducible apply State.objAct_sound
      assumption
  · with_reducible apply State.objAct_sound
    assumption

theorem State.objFlush_sound {a0 a1 a2} (h0 : a0.Sound T) : (State.objFlush a0 a1 a2).Sound T := by
  unfold State.objFlush
  split
  · with_reducible apply State.l1Drop_sound
    with_reducible apply State.l1Clean_sound
    assumption
  · assumption

theorem Run.askObj_sound {a0 a1 a2 a3 a4} (h0 : a0.s.Sound T) : (Run.askObj a0 a1 a2 a3 a4).s.Sound T := by
  unfold Run.askObj
  dsimp only
  split
  · refine someRun_of (by assumption) ?_
    with_reducible apply Run.bar_sound
    assumption
  · with_reducible apply State.send_sound
    dsimp only [State.Sound]
    apply State.Sound.fold
    assumption

theorem Run.objEvent_sound {a0 a1 a2 a3} (h0 : a0.s.Sound T) : (Run.objEvent a0 a1 a2 a3).1.s.Sound T := by
  unfold Run.objEvent
  dsimp only
  split
  · with_reducible apply Run.fatalAt_sound
    assumption
  · with_reducible apply Run.replayAt_sound
    assumption
  · split
    · split
      · assumption
      · with_reducible apply Run.askObj_sound
        assumption
    · split
      · with_reducible apply Run.fatal_sound
        assumption
      · with_reducible apply Run.load_sound
        · assumption
        · split
          · with_reducible apply State.objEvent_sound
            with_reducible apply State.tlbFill_sound
            with_reducible apply State.objFlush_sound
            with_reducible apply Run.sync_sound
            assumption
          · with_reducible apply State.setDirty_sound
            with_reducible apply State.objEvent_sound
            with_reducible apply State.tlbFill_sound
            with_reducible apply State.objFlush_sound
            with_reducible apply Run.sync_sound
            assumption

theorem Run.putBar_sound {a0 a1 a2} (h0 : a0.s.Sound T) : (Run.putBar a0 a1 a2).s.Sound T := by
  unfold Run.putBar
  dsimp only
  assumption

theorem Run.misuse_sound {a0 a1 a2} (h0 : a0.s.Sound T) : (Run.misuse a0 a1 a2).s.Sound T := by
  unfold Run.misuse
  with_reducible apply Run.fatal_sound
  assumption

theorem Run.barArrive_sound {a0 a1 a2 a3} (h0 : a0.s.Sound T) : (Run.barArrive a0 a1 a2 a3).1.s.Sound T := by
  unfold Run.barArrive
  dsimp only
  split
  · split
    · with_reducible apply Run.misuse_sound
      assumption
    · split
      · with_reducible apply Run.misuse_sound
        assumption
      · with_reducible apply Run.putBar_sound
        assumption
  · split
    · with_reducible apply Run.objEvent_sound
      assumption
    · split
      · with_reducible apply Run.misuse_sound
        with_reducible apply Run.objEvent_sound
        assumption
      · with_reducible apply Run.objEvent_sound
        assumption

theorem Run.barLook_sound {a0 a1 a2 a3} (h0 : a0.s.Sound T) : (Run.barLook a0 a1 a2 a3).1.s.Sound T := by
  unfold Run.barLook
  dsimp only
  split
  · split
    · with_reducible apply Run.misuse_sound
      assumption
    · assumption
  · split
    · split
      · with_reducible apply Run.objEvent_sound
        assumption
      · split
        · with_reducible apply Run.misuse_sound
          with_reducible apply Run.objEvent_sound
          assumption
        · with_reducible apply Run.objEvent_sound
          assumption
    · split
      · with_reducible apply Run.objEvent_sound
        assumption
      · split
        · with_reducible apply Run.misuse_sound
          with_reducible apply Run.objEvent_sound
          assumption
        · with_reducible apply Run.objEvent_sound
          assumption

theorem Run.barWait_sound {a0 a1 a2 a3} (h0 : a0.s.Sound T) : (Run.barWait a0 a1 a2 a3).s.Sound T := by
  unfold Run.barWait
  split
  · dsimp only
    with_reducible apply State.acquire_sound
    assumption
  · extract_lets x
    have hx : x.1.s.Sound T := by
      unfold x
      with_reducible apply Run.barLook_sound
      assumption
    clear_value x
    split
    · assumption
    · split
      · dsimp only
        with_reducible apply State.acquire_sound
        assumption
      · assumption

theorem binitUnit_sound {a0 a1 a2} (h1 : a1.s.Sound T) : (binitUnit a0 a1 a2).s.Sound T := by
  unfold binitUnit
  dsimp only
  split
  · split
    · with_reducible apply Run.misuse_sound
      assumption
    · split
      · with_reducible apply Run.misuse_sound
        assumption
      · split
        · with_reducible apply Run.misuse_sound
          assumption
        · with_reducible apply Run.putBar_sound
          assumption
  · split
    · with_reducible apply Run.misuse_sound
      assumption
    · split
      · with_reducible apply Run.objEvent_sound
        assumption
      · split
        · with_reducible apply Run.misuse_sound
          with_reducible apply Run.objEvent_sound
          assumption
        · with_reducible apply Run.objEvent_sound
          assumption

theorem execBinit_sound {a0 a1} (h1 : a1.Sound T) : OutSound T (execBinit a0 a1) := by
  unfold execBinit
  with_reducible apply issue_sound
  · intro _ _
    split
    · with_reducible apply onceFirst_sound
      · intro _ _ _
        with_reducible apply binitUnit_sound
        assumption
      · assumption
    · with_reducible apply Run.released_sound
      · assumption
      · intro _ _
        with_reducible apply onceFirst_sound
        · intro _ _ _
          with_reducible apply binitUnit_sound
          dsimp only
          with_reducible apply State.release_sound
          assumption
        · assumption
  · assumption

theorem arriveUnit_sound {a0 a1 a2} (h1 : a1.s.Sound T) : ((arriveUnit a0 a1 a2).1).s.Sound T := by
  unfold arriveUnit
  dsimp only
  split
  · assumption
  · split
    · with_reducible apply Run.barArrive_sound
      dsimp only
      with_reducible apply State.release_sound
      assumption
    · dsimp only
      with_reducible apply Run.writeEach_sound
      with_reducible apply Run.barArrive_sound
      dsimp only
      with_reducible apply State.release_sound
      assumption

theorem barReleased_sound {a0 a1 a2} (h1 : ∀ r : Run, r.s.Sound T → (a1 r).s.Sound T) (h2 : a2.s.Sound T)
    : (barReleased a0 a1 a2).s.Sound T := by
  unfold barReleased
  split
  · assumption
  · with_reducible apply Run.released_sound
    · assumption
    · intro _ _
      apply h1
      assumption

theorem execBarr_sound {a0 a1} (h1 : a1.Sound T) : OutSound T (execBarr a0 a1) := by
  unfold execBarr
  with_reducible apply issue_sound
  · intro _ _
    with_reducible apply barReleased_sound
    · intro _ _
      with_reducible apply onceFirst_sound
      · intro _ _ _
        with_reducible apply arriveUnit_sound
        assumption
      · assumption
    · assumption
  · assumption

theorem bsyncUnit_sound {a0 a1 a2} (h1 : a1.s.Sound T) : (bsyncUnit a0 a1 a2).s.Sound T := by
  unfold bsyncUnit
  dsimp only
  split
  · with_reducible apply Run.barWait_sound
    assumption
  · split
    · with_reducible apply arriveUnit_sound
      assumption
    · with_reducible apply Run.barWait_sound
      with_reducible apply arriveUnit_sound
      assumption

theorem execBsync_sound {a0 a1} (h1 : a1.Sound T) : OutSound T (execBsync a0 a1) := by
  unfold execBsync
  with_reducible apply issue_sound
  · intro _ _
    split
    · with_reducible apply onceFirst_sound
      · intro _ _ _
        with_reducible apply bsyncUnit_sound
        assumption
      · assumption
    · with_reducible apply barReleased_sound
      · intro _ _
        with_reducible apply onceFirst_sound
        · intro _ _ _
          with_reducible apply bsyncUnit_sound
          assumption
        · assumption
      · assumption
  · assumption

theorem execBwait_sound {a0 a1} (h1 : a1.Sound T) : OutSound T (execBwait a0 a1) := by
  unfold execBwait
  with_reducible apply issueKept_sound
  · intro _ _ _
    with_reducible apply Run.barWait_sound
    assumption
  · assumption

theorem blinkUnit_sound {a0 a1 a2 a3} (h2 : a2.s.Sound T) : (blinkUnit a0 a1 a2 a3).s.Sound T := by
  unfold blinkUnit
  dsimp only
  split
  · with_reducible apply Run.barLook_sound
    assumption
  · split
    · split
      · with_reducible apply Run.misuse_sound
        with_reducible apply Run.barLook_sound
        assumption
      · with_reducible apply Run.barLook_sound
        assumption
    · split
      · with_reducible apply Run.misuse_sound
        with_reducible apply Run.barLook_sound
        assumption
      · with_reducible apply Run.barLook_sound
        assumption

theorem execBlink_sound {a0 a1} (h1 : a1.Sound T) : OutSound T (execBlink a0 a1) := by
  unfold execBlink
  with_reducible apply issueKept_sound
  · intro _ _ _
    with_reducible apply blinkUnit_sound
    assumption
  · assumption

theorem binvUnit_sound {a0 a1 a2} (h1 : a1.s.Sound T) : (binvUnit a0 a1 a2).s.Sound T := by
  unfold binvUnit
  dsimp only
  split
  · split
    · with_reducible apply Run.misuse_sound
      assumption
    · split
      · with_reducible apply Run.misuse_sound
        assumption
      · with_reducible apply Run.putBar_sound
        assumption
  · split
    · with_reducible apply Run.objEvent_sound
      assumption
    · split
      · with_reducible apply Run.misuse_sound
        with_reducible apply Run.objEvent_sound
        assumption
      · with_reducible apply Run.objEvent_sound
        assumption

theorem execBinv_sound {a0 a1} (h1 : a1.Sound T) : OutSound T (execBinv a0 a1) := by
  unfold execBinv
  with_reducible apply issueKept_sound
  · intro _ _ _
    with_reducible apply binvUnit_sound
    assumption
  · assumption

theorem btestUnit_sound {a0 a1 a2} (h1 : a1.s.Sound T) : (btestUnit a0 a1 a2).s.Sound T := by
  unfold btestUnit
  dsimp only
  split
  · with_reducible apply Run.barLook_sound
    assumption
  · split
    · split
      · dsimp only
        with_reducible apply State.acquire_sound
        with_reducible apply Run.writeEach_sound
        with_reducible apply Run.barLook_sound
        assumption
      · with_reducible apply Run.writeEach_sound
        with_reducible apply Run.barLook_sound
        assumption
    · with_reducible apply Run.writeEach_sound
      with_reducible apply Run.barLook_sound
      assumption

theorem execBtest_sound {a0 a1} (h1 : a1.Sound T) : OutSound T (execBtest a0 a1) := by
  unfold execBtest
  with_reducible apply issueKept_sound
  · intro _ _ _
    with_reducible apply btestUnit_sound
    assumption
  · assumption

theorem State.opFault_sound {a0 a1 a2} (h0 : a0.Sound T) : (State.opFault a0 a1 a2).Sound T := by
  unfold State.opFault
  dsimp only
  split
  · split
    · with_reducible apply State.fatal_sound
      assumption
    · with_reducible apply State.modTeam_sound
      assumption
  · with_reducible apply State.fatal_sound
    assumption

theorem State.opMisuse_sound {a0 a1 a2} (h0 : a0.Sound T) : (State.opMisuse a0 a1 a2).Sound T := by
  unfold State.opMisuse
  with_reducible apply State.opFault_sound
  assumption

theorem State.tryArrive_sound {a0 a1} (h0 : a0.Sound T) : (State.tryArrive a0 a1).Sound T := by
  unfold State.tryArrive
  split
  · extract_lets gone
    have hgone : gone.Sound T := by
      assumption
    clear_value gone
    split
    · with_reducible apply State.opFault_sound
      assumption
    · with_reducible apply State.missAdd_sound
      assumption
    · split
      · with_reducible apply State.opFault_sound
        assumption
      · assumption
      · assumption
      · dsimp only
        dsimp only [State.Sound]
        apply State.Sound.fold
        with_reducible apply State.send_sound
        with_reducible apply State.release_sound
        assumption
    · extract_lets s1 x
      have hs1 : s1.Sound T := by
        unfold s1
        with_reducible apply State.objFlush_sound
        with_reducible apply State.release_sound
        assumption
      have hx : x.1.Sound T := by
        unfold x
        with_reducible apply State.objEvent_sound
        assumption
      clear_value s1 x
      split
      · with_reducible apply State.opMisuse_sound
        assumption
      · with_reducible apply State.setDirty_sound
        assumption
  · assumption

theorem State.tryArrivals_sound {a0} (h0 : a0.Sound T) : (State.tryArrivals a0).Sound T := by
  unfold State.tryArrivals
  apply foldl_sound
  · intro _ _ _
    with_reducible apply State.tryArrive_sound
    assumption
  · assumption

theorem State.opArrive_sound {a0 a1} (h0 : a0.Sound T) : (State.opArrive a0 a1).Sound T := by
  unfold State.opArrive
  split
  · assumption
  · split
    · assumption
    · split
      · with_reducible apply State.opMisuse_sound
        assumption
      · split
        · with_reducible apply State.opMisuse_sound
          assumption
        · assumption
  · dsimp only
    with_reducible apply State.tryArrive_sound
    assumption

/-! `Machine/Engine.lean` -/

theorem Run.tokenAcquire_sound {a0 a1} (h0 : a0.s.Sound T) : (Run.tokenAcquire a0 a1).s.Sound T := by
  unfold Run.tokenAcquire
  split
  · split
    · dsimp only
      with_reducible apply State.acquire_sound
      assumption
    · assumption
  · assumption

theorem waitUnit_sound {a0 a1 a2} (h1 : a1.s.Sound T) : (waitUnit a0 a1 a2).s.Sound T := by
  unfold waitUnit
  split
  · with_reducible apply Run.stall_sound
    assumption
  · with_reducible apply Run.tokenAcquire_sound
    assumption

theorem Run.askBlock_sound {a0 a1 a2 a3 a4 a5} (h0 : a0.s.Sound T) : (Run.askBlock a0 a1 a2 a3 a4 a5).s.Sound T := by
  unfold Run.askBlock
  extract_lets r0
  have hr0 : r0.s.Sound T := by
    unfold r0
    with_reducible apply Run.drain_sound
    assumption
  clear_value r0
  split
  · assumption
  · split
    · refine someRun_of (by assumption) ?_
      with_reducible apply Run.bar_sound
      assumption
    · dsimp only
      with_reducible apply State.send_sound
      assumption

theorem Run.loadUnits_sound {a0 a1 a2 a3} (h0 : a0.s.Sound T) : (Run.loadUnits a0 a1 a2 a3).1.s.Sound T := by
  induction a3 generalizing a0 a1 a2 h0 with
  | zero =>
    unfold Run.loadUnits
    dsimp only
    assumption
  | succ n ih =>
    unfold Run.loadUnits
    dsimp only
    split
    · refine Checked.halt_of (by assumption) ?_
      with_reducible apply Run.check_sound
      assumption
    · split
      · split
        · split
          · assumption
          · apply ih
            assumption
        · split
          · assumption
          · apply ih
            assumption
        · split
          · with_reducible apply Run.askBlock_sound
            assumption
          · apply ih
            with_reducible apply Run.askBlock_sound
            assumption
      · split
        · with_reducible apply Run.readAt_sound
          assumption
        · apply ih
          with_reducible apply Run.readAt_sound
          assumption

theorem Run.readBlock_sound {a0 a1 a2} (h0 : a0.s.Sound T) : (Run.readBlock a0 a1 a2).1.s.Sound T := by
  unfold Run.readBlock
  dsimp only
  split
  · with_reducible apply Run.loadUnits_sound
    assumption
  · split
    · split
      · with_reducible apply Run.loadUnits_sound
        with_reducible apply Run.loadUnits_sound
        assumption
      · with_reducible apply Run.loadUnits_sound
        with_reducible apply Run.loadUnits_sound
        assumption
    · with_reducible apply Run.loadUnits_sound
      assumption

theorem Run.opReady_sound {a0 a1} (h0 : a0.s.Sound T) (h1 : ∀ b0, (b0.s.Sound T) → (a1 b0).s.Sound T) : (Run.opReady a0 a1).s.Sound T := by
  unfold Run.opReady
  extract_lets r
  have hr : r.s.Sound T := by
    unfold r
    with_reducible apply Run.settleRel_sound
    assumption
  clear_value r
  split
  · apply h1
    assumption
  · assumption

theorem State.tellLink_sound {a0 a1 a2 a3} (h2 : a2.Sound T) : (State.tellLink a0 a1 a2 a3).Sound T := by
  unfold State.tellLink
  split
  · assumption
  · split
    · split
      · assumption
      · with_reducible apply State.owe_sound
        assumption
    · assumption

theorem State.tellLinks_sound {a0 a1 a2} (h0 : a0.Sound T) : (State.tellLinks a0 a1 a2).Sound T := by
  unfold State.tellLinks
  apply foldl_sound
  · intro _ _ _
    with_reducible apply State.tellLink_sound
    assumption
  · assumption

theorem Run.newOp_sound {a0 a1 a2 a3 a4 a5} (h0 : a0.s.Sound T) : (Run.newOp a0 a1 a2 a3 a4 a5).s.Sound T := by
  unfold Run.newOp
  extract_lets id o old s1 s2
  have hs1 : s1.Sound T := by
    assumption
  have hs2 : s2.Sound T := by
    assumption
  clear_value id o old s1 s2
  dsimp only
  split
  · with_reducible apply State.tellLinks_sound
    assumption
  · assumption

theorem State.opLeave_sound {a0 a1 a2} (h0 : a0.Sound T) : (State.opLeave a0 a1 a2).Sound T := by
  unfold State.opLeave
  extract_lets s1 s2
  have hs1 : s1.Sound T := by
    assumption
  have hs2 : s2.Sound T := by
    assumption
  clear_value s1 s2
  with_reducible apply State.tellLinks_sound
  assumption

theorem State.opEnd_sound {a0 a1 a2} (h0 : a0.Sound T) : (State.opEnd a0 a1 a2).Sound T := by
  unfold State.opEnd
  with_reducible apply State.opArrive_sound
  with_reducible apply State.opLeave_sound
  assumption

theorem State.opFail_sound {a0 a1 a2} (h0 : a0.Sound T) : (State.opFail a0 a1 a2).Sound T := by
  unfold State.opFail
  with_reducible apply State.opFault_sound
  with_reducible apply State.opLeave_sound
  assumption

theorem State.engineBar_sound {a0 a1 a2 a3 a4 a5} (h0 : a0.Sound T) : (State.engineBar a0 a1 a2 a3 a4 a5).Sound T := by
  unfold State.engineBar
  dsimp only
  split
  · apply EngOut.ok_sound
    assumption
  · split
    · apply EngOut.wait_sound
      assumption
    · split
      · apply EngOut.fault_sound
      · apply EngOut.wait_sound
        dsimp only [State.Sound]
        apply State.Sound.fold
        with_reducible apply State.exhaust_sound
        assumption
      · apply EngOut.wait_sound
        assumption
      · apply EngOut.ok_sound
        assumption

theorem State.engineByte_sound {a0 a1 a2 a3} (h0 : a0.Sound T) : (State.engineByte a0 a1 a2 a3).Sound T := by
  unfold State.engineByte
  dsimp only
  split
  · apply EngOut.fault_sound
  · apply EngOut.wait_sound
    with_reducible apply State.missAdd_sound
    assumption
  · split
    · apply EngOut.ok_sound
      assumption
    · split
      · apply EngOut.wait_sound
        assumption
      · split
        · apply EngOut.fault_sound
        · apply EngOut.wait_sound
          refine EngOut.wait_of (by assumption) ?_
          with_reducible apply State.engineBar_sound
          assumption
        · apply EngOut.wait_sound
          with_reducible apply State.putOp_sound
          with_reducible apply State.send_sound
          dsimp only [State.Sound]
          apply State.Sound.fold
          refine EngOut.ok_of (by assumption) ?_
          with_reducible apply State.engineBar_sound
          assumption
  · split
    · apply EngOut.fault_sound
    · apply EngOut.ok_sound
      split
      · with_reducible apply State.tlbFill_sound
        assumption
      · assumption

theorem State.engineRead_sound {a0 a1 a2 a3 a4} (h0 : a0.Sound T) : (State.engineRead a0 a1 a2 a3 a4).Sound T := by
  induction a4 generalizing a0 a1 a2 a3 h0 with
  | zero =>
    unfold State.engineRead
    apply EngOut.ok_sound
    assumption
  | succ n ih =>
    unfold State.engineRead
    split
    · apply EngOut.fault_sound
    · apply EngOut.wait_sound
      refine EngOut.wait_of (by assumption) ?_
      with_reducible apply State.engineByte_sound
      assumption
    · split
      · apply EngOut.ok_sound
        refine EngOut.ok_of (by assumption) ?_
        apply ih
        refine EngOut.ok_of (by assumption) ?_
        with_reducible apply State.engineByte_sound
        assumption
      · apply EngOut.wait_sound
        refine EngOut.wait_of (by assumption) ?_
        apply ih
        refine EngOut.ok_of (by assumption) ?_
        with_reducible apply State.engineByte_sound
        assumption
      · apply EngOut.fault_sound

theorem State.engineSend_sound {a0 a1 a2 a3 a4} (h0 : a0.Sound T) : (State.engineSend a0 a1 a2 a3 a4).Sound T := by
  unfold State.engineSend
  dsimp only
  dsimp only [State.Sound]
  apply State.Sound.fold
  with_reducible apply State.sendWrites_sound
  dsimp only [State.Sound]
  apply State.Sound.fold
  assumption

theorem State.engineCanWrite_sound {a0 a1 a2 a3 a4} (h0 : a0.Sound T) : (State.engineCanWrite a0 a1 a2 a3 a4).Sound T := by
  induction a4 generalizing a0 a1 a2 a3 h0 with
  | zero =>
    unfold State.engineCanWrite
    apply EngOut.ok_sound
    assumption
  | succ n ih =>
    unfold State.engineCanWrite
    split
    · apply EngOut.fault_sound
    · apply EngOut.wait_sound
      with_reducible apply State.missAdd_sound
      assumption
    · apply EngOut.wait_sound
      assumption
    · split
      · apply ih
        assumption
      · with_reducible apply State.engineBar_sound
        assumption
    · split
      · split
        · apply ih
          assumption
        · with_reducible apply State.engineBar_sound
          assumption
      · apply ih
        assumption
    · apply ih
      assumption

theorem State.enginePut_sound {a0 a1 a2 a3 a4} (h0 : a0.Sound T) : (State.enginePut a0 a1 a2 a3 a4).1.Sound T := by
  induction a4 generalizing a0 a1 a2 a3 h0 with
  | nil =>
    unfold State.enginePut
    dsimp only
    assumption
  | cons x r ih =>
    unfold State.enginePut
    dsimp only
    split
    · apply ih
      with_reducible apply State.engineSend_sound
      assumption
    · apply ih
      split
      · split
        · split
          · with_reducible apply State.setDirty_sound
            with_reducible apply State.tlbFill_sound
            with_reducible apply State.writePlace_sound
            assumption
          · with_reducible apply State.engineSend_sound
            with_reducible apply State.setDirty_sound
            with_reducible apply State.tlbFill_sound
            with_reducible apply State.writePlace_sound
            assumption
        · split
          · with_reducible apply State.writePlace_sound
            assumption
          · with_reducible apply State.engineSend_sound
            with_reducible apply State.writePlace_sound
            assumption
      · split
        · with_reducible apply State.setDirty_sound
          with_reducible apply State.tlbFill_sound
          with_reducible apply State.writePlace_sound
          assumption
        · with_reducible apply State.writePlace_sound
          assumption
    · apply ih
      assumption

theorem State.engineWrite_sound {a0 a1 a2 a3 a4} (h0 : a0.Sound T) : (State.engineWrite a0 a1 a2 a3 a4).Sound T := by
  unfold State.engineWrite
  dsimp only
  split
  · apply EngOut.fault_sound
  · apply EngOut.wait_sound
    refine EngOut.wait_of (by assumption) ?_
    with_reducible apply State.engineCanWrite_sound
    assumption
  · split
    · apply EngOut.ok_sound
      with_reducible apply State.engineSend_sound
      refine EngOut.ok_of (by assumption) ?_
      with_reducible apply State.engineCanWrite_sound
      assumption
    · split
      · apply EngOut.fault_sound
      · split
        · apply EngOut.ok_sound
          split
          · with_reducible apply State.setDirty_sound
            with_reducible apply State.tlbFill_sound
            with_reducible apply State.writePlace_sound
            refine EngOut.ok_of (by assumption) ?_
            with_reducible apply State.engineCanWrite_sound
            assumption
          · with_reducible apply State.engineSend_sound
            with_reducible apply State.setDirty_sound
            with_reducible apply State.tlbFill_sound
            with_reducible apply State.writePlace_sound
            refine EngOut.ok_of (by assumption) ?_
            with_reducible apply State.engineCanWrite_sound
            assumption
        · apply EngOut.ok_sound
          with_reducible apply State.setDirty_sound
          with_reducible apply State.tlbFill_sound
          with_reducible apply State.writePlace_sound
          refine EngOut.ok_of (by assumption) ?_
          with_reducible apply State.engineCanWrite_sound
          assumption
    · split
      · apply EngOut.fault_sound
      · apply EngOut.ok_sound
        with_reducible apply State.writePlace_sound
        refine EngOut.ok_of (by assumption) ?_
        with_reducible apply State.engineCanWrite_sound
        assumption
    · split
      · apply EngOut.fault_sound
      · apply EngOut.ok_sound
        with_reducible apply State.enginePut_sound
        refine EngOut.ok_of (by assumption) ?_
        with_reducible apply State.engineCanWrite_sound
        assumption

/-! `Machine/Press.lean` -/

theorem State.linkAcquire_sound {a0 a1} (h0 : a0.Sound T) : (State.linkAcquire a0 a1).Sound T := by
  unfold State.linkAcquire
  split
  · assumption
  · assumption
  · assumption

theorem execPressActivate_sound {a0 a1} (h1 : a1.Sound T) : OutSound T (execPressActivate a0 a1) := by
  unfold execPressActivate
  dsimp only
  split
  · apply next_sound
    assumption
  · split
    · apply next_sound
      split
      · with_reducible apply State.linkAcquire_sound
        with_reducible apply State.putOp_sound
        assumption
      · assumption
    · apply next_sound
      with_reducible apply State.putOp_sound
      with_reducible apply State.send_sound
      dsimp only [State.Sound]
      apply State.Sound.fold
      assumption
    · apply next_sound
      assumption

theorem execMicrotileStart_sound {a0 a1 a2} (h2 : a2.Sound T) : OutSound T (execMicrotileStart a0 a1 a2) := by
  unfold execMicrotileStart
  dsimp only
  split
  · apply next_sound
    assumption
  · split
    · apply next_sound
      assumption
    · split
      · apply next_sound
        with_reducible apply State.modCore_sound
        with_reducible apply State.putOp_sound
        assumption
      · apply next_sound
        assumption

theorem State.retire_sound {a0 a1 a2 a3 a4} (h0 : a0.Sound T) : (State.retire a0 a1 a2 a3 a4).Sound T := by
  unfold State.retire
  dsimp only
  split
  · with_reducible apply State.opFail_sound
    assumption
  · split
    · with_reducible apply State.opEnd_sound
      with_reducible apply State.modTeam_sound
      with_reducible apply State.putWg_sound
      assumption
    · with_reducible apply State.putOp_sound
      with_reducible apply State.modTeam_sound
      with_reducible apply State.putWg_sound
      assumption

theorem State.opRetire_sound {a0 a1 a2} (h0 : a0.Sound T) : (State.opRetire a0 a1 a2).Sound T := by
  unfold State.opRetire
  split
  · assumption
  · split
    · split
      · split
        · with_reducible apply State.retire_sound
          assumption
        · assumption
      · assumption
    · assumption

theorem Run.setFmt_sound {a0 a1} (h0 : a0.s.Sound T) : (Run.setFmt a0 a1).s.Sound T := by
  unfold Run.setFmt
  dsimp only
  assumption

theorem execFmt_sound {a0 a1} (h1 : a1.Sound T) : OutSound T (execFmt a0 a1) := by
  unfold execFmt
  with_reducible apply issueKept_sound
  · intro _ _ _
    with_reducible apply Run.setFmt_sound
    assumption
  · assumption

theorem Run.setNest_sound {a0 a1 a2 a3} (h0 : a0.s.Sound T) : (Run.setNest a0 a1 a2 a3).s.Sound T := by
  unfold Run.setNest
  dsimp only
  assumption

theorem Run.nestRec_sound {a0 a1} (h0 : a0.s.Sound T) : (Run.nestRec a0 a1).s.Sound T := by
  unfold Run.nestRec
  dsimp only
  split
  · with_reducible apply noRecord_sound
    assumption
  · assumption

theorem execNestw_sound {a0 a1} (h1 : a1.Sound T) : OutSound T (execNestw a0 a1) := by
  unfold execNestw
  with_reducible apply issue_sound
  · intro _ _
    split
    · split
      · with_reducible apply noRecord_sound
        assumption
      · with_reducible apply onceFirst_sound
        · intro _ _ _
          with_reducible apply Run.nestRec_sound
          assumption
        · assumption
    · with_reducible apply onceFirst_sound
      · intro _ _ _
        with_reducible apply Run.setNest_sound
        assumption
      · assumption
  · assumption

theorem Run.pgo_sound {a0 a1 a2 a3 a4 a5} (h0 : a0.s.Sound T) : (Run.pgo a0 a1 a2 a3 a4 a5).s.Sound T := by
  unfold Run.pgo
  with_reducible apply Run.opReady_sound
  · assumption
  · intro _ _
    split
    · assumption
    · split
      · assumption
      · split
        · assumption
        · split
          · assumption
          · dsimp only
            with_reducible apply Run.newOp_sound
            assumption

theorem execPgo_sound {a0 a1} (h1 : a1.Sound T) : OutSound T (execPgo a0 a1) := by
  unfold execPgo
  with_reducible apply issue_sound
  · intro _ _
    with_reducible apply Run.released_sound
    · assumption
    · intro _ _
      with_reducible apply onceFirst_sound
      · intro _ _ _
        with_reducible apply Run.pgo_sound
        assumption
      · assumption
  · assumption

theorem execPwait_sound {a0 a1} (h1 : a1.Sound T) : OutSound T (execPwait a0 a1) := by
  unfold execPwait
  with_reducible apply issueKept_sound
  · intro _ _ _
    with_reducible apply waitUnit_sound
    assumption
  · assumption

theorem execPstat_sound {a0 a1} (h1 : a1.Sound T) : OutSound T (execPstat a0 a1) := by
  unfold execPstat
  with_reducible apply issueKept_sound
  · intro _ _ _
    split
    · with_reducible apply Run.tokenAcquire_sound
      with_reducible apply Run.writeEach_sound
      assumption
    · with_reducible apply Run.writeEach_sound
      assumption
  · assumption

theorem Run.clearTiles_sound {a0 a1 a2} (h0 : a0.s.Sound T) : (Run.clearTiles a0 a1 a2).s.Sound T := by
  unfold Run.clearTiles
  dsimp only
  dsimp only [State.Sound]
  apply State.Sound.fold
  assumption

theorem Run.vclr_sound {a0 a1 a2 a3 a4} (h0 : a0.s.Sound T) : (Run.vclr a0 a1 a2 a3 a4).s.Sound T := by
  unfold Run.vclr
  split
  · split
    · with_reducible apply Run.fatal_sound
      assumption
    · split
      · with_reducible apply Run.fatal_sound
        assumption
      · with_reducible apply Run.clearTiles_sound
        assumption
  · split
    · with_reducible apply Run.fatal_sound
      assumption
    · split
      · with_reducible apply Run.fatal_sound
        assumption
      · with_reducible apply Run.clearTiles_sound
        assumption

theorem execVclr_sound {a0 a1} (h1 : a1.Sound T) : OutSound T (execVclr a0 a1) := by
  unfold execVclr
  with_reducible apply issueKept_sound
  · intro _ _ _
    with_reducible apply Run.vclr_sound
    assumption
  · assumption

theorem Run.vatLoad_sound {a0 a1 a2 a3 a4 a5} (h0 : a0.s.Sound T) : ((Run.vatLoad a0 a1 a2 a3 a4 a5).1).s.Sound T := by
  unfold Run.vatLoad
  split
  · split
    · assumption
    · assumption
  · extract_lets x
    have hx : x.1.s.Sound T := by
      unfold x
      with_reducible apply seen_sound
      with_reducible apply Run.readAt_sound
      assumption
    clear_value x
    assumption

theorem Run.vatStore_sound {a0 a1 a2 a3 a4 a5} (h0 : a0.s.Sound T) : (Run.vatStore a0 a1 a2 a3 a4 a5).s.Sound T := by
  unfold Run.vatStore
  split
  · with_reducible apply Run.combine_sound
    assumption
  · with_reducible apply Run.writeAt_sound
    assumption

theorem vatElem_sound {a0 a1 a2 a3 a4 a5 a6 a7} (h6 : a6.s.Sound T) : (vatElem a0 a1 a2 a3 a4 a5 a6 a7).s.Sound T := by
  unfold vatElem
  dsimp only
  split
  · refine Checked.halt_of (by assumption) ?_
    with_reducible apply Run.check_sound
    assumption
  · split
    · split
      · with_reducible apply Run.fatal_sound
        assumption
      · split
        · with_reducible apply Run.flags_sound
          with_reducible apply Run.vatStore_sound
          assumption
        · with_reducible apply Run.vatLoad_sound
          assumption
        · with_reducible apply Run.flags_sound
          with_reducible apply Run.vatLoad_sound
          assumption
    · split
      · with_reducible apply Run.fatal_sound
        assumption
      · split
        · with_reducible apply Run.flags_sound
          with_reducible apply Run.vatStore_sound
          assumption
        · with_reducible apply Run.vatLoad_sound
          assumption
        · with_reducible apply Run.flags_sound
          with_reducible apply Run.vatLoad_sound
          assumption

theorem vatGo_sound {a0 a1 a2} (h0 : ∀ (r : Run) n, r.s.Sound T → (a0 r n).s.Sound T) (h2 : a2.s.Sound T) : (vatGo a0 a1 a2).s.Sound T := by
  induction a1 generalizing a0 a2 h0 h2 with
  | nil =>
    unfold vatGo
    assumption
  | cons x r ih =>
    unfold vatGo
    dsimp only
    split
    · apply ih
      · intro _ _ _
        apply h0
        assumption
      · apply h0
        assumption
    · apply h0
      assumption

theorem vatUnit_sound {a0 a1 a2 a3} (h2 : a2.s.Sound T) : (vatUnit a0 a1 a2 a3).s.Sound T := by
  unfold vatUnit
  generalize List.range 4096 = l
  extract_lets tile esz base pitch addr lrh r1
  have h1 : r1.s.Sound T := vatGo_sound (fun _ _ h => vatElem_sound h) h2
  clear_value r1
  split
  · exact Run.fatal_sound h2
  · split
    · exact Run.replayAt_sound h2
    · split
      · exact h2
      · exact Run.askBlock_sound h2
      · split
        · exact h1
        · exact h1

theorem execVld_sound {a0 a1} (h1 : a1.Sound T) : OutSound T (execVld a0 a1) := by
  unfold execVld
  with_reducible apply issueKept_sound
  · intro _ _ _
    with_reducible apply vatUnit_sound
    assumption
  · assumption

theorem execVst_sound {a0 a1} (h1 : a1.Sound T) : OutSound T (execVst a0 a1) := by
  unfold execVst
  with_reducible apply issueKept_sound
  · intro _ _ _
    with_reducible apply Run.opReady_sound
    · assumption
    · intro _ _
      with_reducible apply Run.mayRoll_sound
      with_reducible apply vatUnit_sound
      assumption
  · assumption

theorem execVacc_sound {a0 a1} (h1 : a1.Sound T) : OutSound T (execVacc a0 a1) := by
  unfold execVacc
  with_reducible apply issueKept_sound
  · intro _ _ _
    with_reducible apply vatUnit_sound
    assumption
  · assumption

theorem Run.ringinit_sound {a0 a1 a2 a3 a4} (h0 : a0.s.Sound T) : (Run.ringinit a0 a1 a2 a3 a4).s.Sound T := by
  unfold Run.ringinit
  dsimp only
  split
  · with_reducible apply Run.stall_sound
    assumption
  · split
    · with_reducible apply Run.fatal_sound
      assumption
    · assumption

theorem execRinginit_sound {a0 a1} (h1 : a1.Sound T) : OutSound T (execRinginit a0 a1) := by
  unfold execRinginit
  with_reducible apply issueKept_sound
  · intro _ _ _
    with_reducible apply Run.ringinit_sound
    assumption
  · assumption

theorem execRingstat_sound {a0 a1} (h1 : a1.Sound T) : OutSound T (execRingstat a0 a1) := by
  unfold execRingstat
  with_reducible apply issueKept_sound
  · intro _ _ _
    with_reducible apply Run.writeEach_sound
    assumption
  · assumption

/-! `Machine/Copy.lean` -/

theorem Run.copyWaits_sound {a0 a1 a2 a3} (h0 : a0.s.Sound T) : (Run.copyWaits a0 a1 a2 a3).s.Sound T := by
  unfold Run.copyWaits
  dsimp only
  split
  · split
    · with_reducible apply Run.barWait_sound
      assumption
    · split
      · with_reducible apply Run.stall_sound
        with_reducible apply Run.barWait_sound
        assumption
      · split
        · with_reducible apply Run.stall_sound
          with_reducible apply Run.barWait_sound
          assumption
        · split
          · with_reducible apply Run.stall_sound
            with_reducible apply Run.barWait_sound
            assumption
          · with_reducible apply Run.barWait_sound
            assumption
  · split
    · assumption
    · split
      · with_reducible apply Run.stall_sound
        assumption
      · split
        · with_reducible apply Run.stall_sound
          assumption
        · split
          · with_reducible apply Run.stall_sound
            assumption
          · assumption

theorem Run.arriveNow_sound {a0 a1} (h0 : a0.s.Sound T) : (Run.arriveNow a0 a1).s.Sound T := by
  unfold Run.arriveNow
  split
  · with_reducible apply Run.load_sound
    · assumption
    · with_reducible apply State.opArrive_sound
      with_reducible apply Run.sync_sound
      assumption
  · assumption

theorem Run.newEnded_sound {a0 a1 a2 a3 a4 a5} (h0 : a0.s.Sound T) : (Run.newEnded a0 a1 a2 a3 a4 a5).s.Sound T := by
  unfold Run.newEnded
  with_reducible apply Run.arriveNow_sound
  with_reducible apply Run.newOp_sound
  assumption

theorem Run.cpy_sound {a0 a1 a2 a3 a4 a5 a6} (h0 : a0.s.Sound T) : (Run.cpy a0 a1 a2 a3 a4 a5 a6).s.Sound T := by
  unfold Run.cpy
  extract_lets r0
  have hr0 : r0.s.Sound T := by
    unfold r0
    with_reducible apply Run.copyWaits_sound
    assumption
  clear_value r0
  split
  · assumption
  · split
    · with_reducible apply Run.newEnded_sound
      assumption
    · split
      · assumption
      · with_reducible apply Run.newOp_sound
        assumption

theorem Run.blockCopy_sound {a0 a1 a2 a3 a4} (h0 : a0.s.Sound T) : (Run.blockCopy a0 a1 a2 a3 a4).s.Sound T := by
  unfold Run.blockCopy
  dsimp only
  split
  · with_reducible apply Run.copyWaits_sound
    assumption
  · split
    · with_reducible apply Run.readBlock_sound
      with_reducible apply Run.copyWaits_sound
      assumption
    · split
      · with_reducible apply Run.newEnded_sound
        with_reducible apply Run.readBlock_sound
        with_reducible apply Run.copyWaits_sound
        assumption
      · split
        · with_reducible apply Run.newEnded_sound
          with_reducible apply Run.readBlock_sound
          with_reducible apply Run.copyWaits_sound
          assumption
        · split
          · with_reducible apply Run.stall_sound
            with_reducible apply Run.readBlock_sound
            with_reducible apply Run.copyWaits_sound
            assumption
          · split
            · with_reducible apply Run.fatalAt_sound
              with_reducible apply Run.readBlock_sound
              with_reducible apply Run.copyWaits_sound
              assumption
            · split
              · with_reducible apply Run.stall_sound
                with_reducible apply Run.readBlock_sound
                with_reducible apply Run.copyWaits_sound
                assumption
              · split
                · with_reducible apply Run.stall_sound
                  with_reducible apply Run.readBlock_sound
                  with_reducible apply Run.copyWaits_sound
                  assumption
                · split
                  · dsimp only
                    with_reducible apply Run.newOp_sound
                    with_reducible apply Run.readBlock_sound
                    with_reducible apply Run.copyWaits_sound
                    assumption
                  · with_reducible apply Run.newOp_sound
                    with_reducible apply Run.readBlock_sound
                    with_reducible apply Run.copyWaits_sound
                    assumption

theorem copyIssue_sound {a0 a1 a2} (h1 : ∀ b0, (b0.s.Sound T) → ∀ b1, ((a1 b0) b1).s.Sound T) (h2 : a2.s.Sound T) : (copyIssue a0 a1 a2).s.Sound T := by
  unfold copyIssue
  with_reducible apply Run.released_sound
  · assumption
  · intro _ _
    with_reducible apply onceFirst_sound
    · intro _ _ _
      with_reducible apply Run.opReady_sound
      · assumption
      · intro _ _
        apply h1
        dsimp only
        with_reducible apply State.release_sound
        assumption
    · assumption

theorem execCpy_sound {a0 a1} (h1 : a1.Sound T) : OutSound T (execCpy a0 a1) := by
  unfold execCpy
  with_reducible apply issue_sound
  · intro _ _
    with_reducible apply copyIssue_sound
    · intro _ _ _
      with_reducible apply Run.cpy_sound
      assumption
    · assumption
  · assumption

theorem blockIssue_sound {a0 a1 a2} (h2 : a2.s.Sound T) : (blockIssue a0 a1 a2).s.Sound T := by
  unfold blockIssue
  split
  · assumption
  · with_reducible apply copyIssue_sound
    · intro _ _ _
      with_reducible apply Run.blockCopy_sound
      assumption
    · assumption

theorem execCpyt_sound {a0 a1} (h1 : a1.Sound T) : OutSound T (execCpyt a0 a1) := by
  unfold execCpyt
  with_reducible apply issue_sound
  · intro _ _
    with_reducible apply blockIssue_sound
    assumption
  · assumption

theorem execCpyg_sound {a0 a1} (h1 : a1.Sound T) : OutSound T (execCpyg a0 a1) := by
  unfold execCpyg
  with_reducible apply issue_sound
  · intro _ _
    with_reducible apply blockIssue_sound
    assumption
  · assumption

theorem execRingpush_sound {a0 a1} (h1 : a1.Sound T) : OutSound T (execRingpush a0 a1) := by
  unfold execRingpush
  with_reducible apply issue_sound
  · intro _ _
    with_reducible apply blockIssue_sound
    assumption
  · assumption

theorem execKvpatch_sound {a0 a1} (h1 : a1.Sound T) : OutSound T (execKvpatch a0 a1) := by
  unfold execKvpatch
  with_reducible apply issue_sound
  · intro _ _
    with_reducible apply blockIssue_sound
    assumption
  · assumption

theorem execRerot_sound {a0 a1} (h1 : a1.Sound T) : OutSound T (execRerot a0 a1) := by
  unfold execRerot
  with_reducible apply issue_sound
  · intro _ _
    with_reducible apply blockIssue_sound
    assumption
  · assumption

theorem execCwait_sound {a0 a1} (h1 : a1.Sound T) : OutSound T (execCwait a0 a1) := by
  unfold execCwait
  with_reducible apply issueKept_sound
  · intro _ _ _
    with_reducible apply waitUnit_sound
    assumption
  · assumption

theorem execCstat_sound {a0 a1} (h1 : a1.Sound T) : OutSound T (execCstat a0 a1) := by
  unfold execCstat
  dsimp only
  with_reducible apply issueKept_sound
  · intro _ _ _
    split
    · with_reducible apply Run.tokenAcquire_sound
      with_reducible apply Run.writeEach_sound
      assumption
    · with_reducible apply Run.writeEach_sound
      assumption
  · assumption

theorem State.moveElem_sound {a0 a1 a2 a3 a4 a5 a6} (h0 : a0.Sound T) : (State.moveElem a0 a1 a2 a3 a4 a5 a6).Sound T := by
  unfold State.moveElem
  split
  · apply EngOut.fault_sound
  · apply EngOut.wait_sound
    refine EngOut.wait_of (by assumption) ?_
    with_reducible apply State.engineRead_sound
    assumption
  · with_reducible apply State.engineWrite_sound
    refine EngOut.ok_of (by assumption) ?_
    with_reducible apply State.engineRead_sound
    assumption

theorem State.streamElem_sound {a0 a1 a2 a3} (h0 : a0.Sound T) : (State.streamElem a0 a1 a2 a3).Sound T := by
  unfold State.streamElem
  dsimp only
  split
  · apply EngOut.fault_sound
  · apply EngOut.wait_sound
    refine EngOut.wait_of (by assumption) ?_
    with_reducible apply State.engineRead_sound
    assumption
  · apply EngOut.ok_sound
    with_reducible apply State.modTeam_sound
    refine EngOut.ok_of (by assumption) ?_
    with_reducible apply State.engineRead_sound
    assumption

theorem State.gatherRow_sound {a0 a1 a2 a3} (h0 : a0.Sound T) : (State.gatherRow a0 a1 a2 a3).Sound T := by
  unfold State.gatherRow
  dsimp only
  split
  · apply EngOut.fault_sound
  · apply EngOut.wait_sound
    refine EngOut.wait_of (by assumption) ?_
    with_reducible apply State.engineRead_sound
    assumption
  · split
    · with_reducible apply State.moveElem_sound
      refine EngOut.ok_of (by assumption) ?_
      with_reducible apply State.engineRead_sound
      assumption
    · with_reducible apply State.engineWrite_sound
      refine EngOut.ok_of (by assumption) ?_
      with_reducible apply State.engineRead_sound
      assumption

theorem State.patchRow_sound {a0 a1 a2 a3} (h0 : a0.Sound T) : (State.patchRow a0 a1 a2 a3).Sound T := by
  unfold State.patchRow
  dsimp only
  split
  · split
    · with_reducible apply State.moveElem_sound
      assumption
    · with_reducible apply State.moveElem_sound
      assumption
  · with_reducible apply State.moveElem_sound
    assumption

theorem State.rotElem_sound {a0 a1 a2 a3} (h0 : a0.Sound T) : (State.rotElem a0 a1 a2 a3).Sound T := by
  unfold State.rotElem
  dsimp only
  split
  · apply EngOut.fault_sound
  · apply EngOut.wait_sound
    refine EngOut.wait_of (by assumption) ?_
    with_reducible apply State.engineRead_sound
    assumption
  · split
    · apply EngOut.fault_sound
    · apply EngOut.wait_sound
      refine EngOut.wait_of (by assumption) ?_
      with_reducible apply State.engineRead_sound
      refine EngOut.ok_of (by assumption) ?_
      with_reducible apply State.engineRead_sound
      assumption
    · split
      · apply EngOut.fault_sound
      · apply EngOut.wait_sound
        refine EngOut.wait_of (by assumption) ?_
        with_reducible apply State.engineRead_sound
        refine EngOut.ok_of (by assumption) ?_
        with_reducible apply State.engineRead_sound
        refine EngOut.ok_of (by assumption) ?_
        with_reducible apply State.engineRead_sound
        assumption
      · split
        · apply EngOut.fault_sound
        · apply EngOut.wait_sound
          refine EngOut.wait_of (by assumption) ?_
          with_reducible apply State.engineCanWrite_sound
          refine EngOut.ok_of (by assumption) ?_
          with_reducible apply State.engineRead_sound
          refine EngOut.ok_of (by assumption) ?_
          with_reducible apply State.engineRead_sound
          refine EngOut.ok_of (by assumption) ?_
          with_reducible apply State.engineRead_sound
          assumption
        · split
          · apply EngOut.fault_sound
          · apply EngOut.wait_sound
            refine EngOut.wait_of (by assumption) ?_
            with_reducible apply State.engineWrite_sound
            refine EngOut.ok_of (by assumption) ?_
            with_reducible apply State.engineRead_sound
            refine EngOut.ok_of (by assumption) ?_
            with_reducible apply State.engineRead_sound
            refine EngOut.ok_of (by assumption) ?_
            with_reducible apply State.engineRead_sound
            assumption
          · split
            · apply EngOut.fault_sound
            · apply EngOut.wait_sound
              refine EngOut.wait_of (by assumption) ?_
              with_reducible apply State.engineWrite_sound
              refine EngOut.ok_of (by assumption) ?_
              with_reducible apply State.engineWrite_sound
              refine EngOut.ok_of (by assumption) ?_
              with_reducible apply State.engineRead_sound
              refine EngOut.ok_of (by assumption) ?_
              with_reducible apply State.engineRead_sound
              refine EngOut.ok_of (by assumption) ?_
              with_reducible apply State.engineRead_sound
              assumption
            · apply EngOut.ok_sound
              refine EngOut.ok_of (by assumption) ?_
              with_reducible apply State.engineWrite_sound
              refine EngOut.ok_of (by assumption) ?_
              with_reducible apply State.engineWrite_sound
              refine EngOut.ok_of (by assumption) ?_
              with_reducible apply State.engineRead_sound
              refine EngOut.ok_of (by assumption) ?_
              with_reducible apply State.engineRead_sound
              refine EngOut.ok_of (by assumption) ?_
              with_reducible apply State.engineRead_sound
              assumption

theorem State.copyElem_sound {a0 a1 a2} (h0 : a0.Sound T) : (State.copyElem a0 a1 a2).Sound T := by
  unfold State.copyElem
  dsimp only
  split
  · split
    · apply EngOut.ok_sound
      refine EngOut.ok_of (by assumption) ?_
      with_reducible apply State.moveElem_sound
      assumption
    · apply EngOut.wait_sound
      refine EngOut.wait_of (by assumption) ?_
      with_reducible apply State.moveElem_sound
      assumption
    · apply EngOut.fault_sound
  · split
    · split
      · split
        · apply EngOut.ok_sound
          refine EngOut.ok_of (by assumption) ?_
          with_reducible apply State.streamElem_sound
          assumption
        · apply EngOut.wait_sound
          refine EngOut.wait_of (by assumption) ?_
          with_reducible apply State.streamElem_sound
          assumption
        · apply EngOut.fault_sound
      · split
        · apply EngOut.ok_sound
          refine EngOut.ok_of (by assumption) ?_
          with_reducible apply State.moveElem_sound
          assumption
        · apply EngOut.wait_sound
          refine EngOut.wait_of (by assumption) ?_
          with_reducible apply State.moveElem_sound
          assumption
        · apply EngOut.fault_sound
    · split
      · split
        · apply EngOut.ok_sound
          refine EngOut.ok_of (by assumption) ?_
          with_reducible apply State.gatherRow_sound
          assumption
        · apply EngOut.wait_sound
          refine EngOut.wait_of (by assumption) ?_
          with_reducible apply State.gatherRow_sound
          assumption
        · apply EngOut.fault_sound
      · split
        · split
          · apply EngOut.ok_sound
            refine EngOut.ok_of (by assumption) ?_
            with_reducible apply State.patchRow_sound
            assumption
          · apply EngOut.wait_sound
            refine EngOut.wait_of (by assumption) ?_
            with_reducible apply State.patchRow_sound
            assumption
          · apply EngOut.fault_sound
        · with_reducible apply State.rotElem_sound
          assumption

theorem State.elemDone_sound {a0 a1 a2 a3} (h0 : a0.Sound T) : (State.elemDone a0 a1 a2 a3).Sound T := by
  unfold State.elemDone
  dsimp only [State.Sound]
  apply State.Sound.fold
  assumption

theorem State.killEnd_sound {a0 a1} (h0 : a0.Sound T) : (State.killEnd a0 a1).Sound T := by
  unfold State.killEnd
  extract_lets s1
  have hs1 : s1.Sound T := by
    assumption
  clear_value s1
  split
  · assumption
  · assumption

theorem State.copyEnd_sound {a0 a1} (h0 : a0.Sound T) : (State.copyEnd a0 a1).Sound T := by
  unfold State.copyEnd
  split
  · assumption
  · split
    · with_reducible apply State.killEnd_sound
      assumption
    · with_reducible apply State.opEnd_sound
      with_reducible apply State.release_sound
      assumption

theorem State.copyFault_sound {a0 a1 a2} (h0 : a0.Sound T) : (State.copyFault a0 a1 a2).Sound T := by
  unfold State.copyFault
  split
  · with_reducible apply State.killEnd_sound
    with_reducible apply State.fatal_sound
    assumption
  · with_reducible apply State.opFail_sound
    assumption

theorem State.copySteps_sound {a0 a1 a2} (h0 : a0.Sound T) : (State.copySteps a0 a1 a2).Sound T := by
  induction a2 generalizing a0 a1 h0 with
  | zero =>
    unfold State.copySteps
    assumption
  | succ n ih =>
    unfold State.copySteps
    split
    · assumption
    · split
      · split
        · assumption
        · split
          · with_reducible apply State.copyEnd_sound
            assumption
          · split
            · assumption
            · split
              · with_reducible apply State.copyFault_sound
                assumption
              · refine EngOut.wait_of (by assumption) ?_
                with_reducible apply State.copyElem_sound
                assumption
              · apply ih
                with_reducible apply State.elemDone_sound
                refine EngOut.ok_of (by assumption) ?_
                with_reducible apply State.copyElem_sound
                assumption
      · assumption

theorem execCopyComplete_sound {a0 a1 a2} (h2 : a2.Sound T) : OutSound T (execCopyComplete a0 a1 a2) := by
  unfold execCopyComplete
  apply next_sound
  with_reducible apply State.copySteps_sound
  assumption

theorem State.pushSlot_sound {a0 a1 a2 a3} (h0 : a0.Sound T) : (State.pushSlot a0 a1 a2 a3).Sound T := by
  unfold State.pushSlot
  dsimp only
  split
  · apply EngOut.fault_sound
  · apply EngOut.wait_sound
    refine EngOut.wait_of (by assumption) ?_
    with_reducible apply State.engineRead_sound
    assumption
  · split
    · apply EngOut.ok_sound
      with_reducible apply State.putWg_sound
      with_reducible apply State.writePlace_sound
      with_reducible apply State.writePlace_sound
      refine EngOut.ok_of (by assumption) ?_
      with_reducible apply State.engineRead_sound
      assumption
    · apply EngOut.ok_sound
      with_reducible apply State.writePlace_sound
      with_reducible apply State.writePlace_sound
      refine EngOut.ok_of (by assumption) ?_
      with_reducible apply State.engineRead_sound
      assumption

theorem execRingTailAdvance_sound {a0 a1} (h1 : a1.Sound T) : OutSound T (execRingTailAdvance a0 a1) := by
  unfold execRingTailAdvance
  split
  · assumption
  · split
    · split
      · split
        · apply next_sound
          with_reducible apply State.copyFault_sound
          assumption
        · apply next_sound
          refine EngOut.wait_of (by assumption) ?_
          with_reducible apply State.pushSlot_sound
          assumption
        · apply next_sound
          with_reducible apply State.elemDone_sound
          refine EngOut.ok_of (by assumption) ?_
          with_reducible apply State.pushSlot_sound
          assumption
      · assumption
    · assumption

/-! `Machine/System.lean` -/

theorem State.memErrClear_sound {a0 a1} (h0 : a0.Sound T) : (State.memErrClear a0 a1).Sound T :=
  ⟨h0.1, h0.2.1, h0.2.2.1, h0.2.2.2.1, Nat.le_trans Nat.and_le_left h0.2.2.2.2.1, Nat.le_trans Nat.and_le_left h0.2.2.2.2.2.1,
    h0.2.2.2.2.2.2⟩

theorem Run.modCtx_sound {a0 a1} (h0 : a0.s.Sound T) : (Run.modCtx a0 a1).s.Sound T := by
  unfold Run.modCtx
  split
  · with_reducible apply State.putCtx_sound
    assumption
  · assumption

theorem Run.due_sound {a0} (h0 : a0.s.Sound T) : (Run.due a0).s.Sound T := by
  unfold Run.due
  dsimp only
  dsimp only [State.Sound]
  apply State.Sound.fold
  assumption

theorem Run.regPut_sound {a0 a1 a2 a3} (h0 : a0.s.Sound T) : (Run.regPut a0 a1 a2 a3).s.Sound T := by
  have hc : ∀ f, (a0.modCtx f).s.Sound T := fun f => Run.modCtx_sound h0
  unfold Run.regPut
  by_cases h : a1 = 0x003
  · rw [if_pos h]; split <;> first | exact hc _ | exact h0
  rw [if_neg h]; clear h
  by_cases h : a1 = 0x004
  · rw [if_pos h]; exact State.memErrClear_sound h0
  rw [if_neg h]; clear h
  by_cases h : a1 = 0x022
  · rw [if_pos h]; exact h0
  rw [if_neg h]; clear h
  by_cases h : a1 = 0x030
  · rw [if_pos h]; exact Run.setFmt_sound h0
  rw [if_neg h]; clear h
  by_cases h : a1 = 0x031
  · rw [if_pos h]; exact h0
  rw [if_neg h]; clear h
  by_cases h : a1 = 0x050
  · rw [if_pos h]; split <;> first | exact hc _ | exact h0
  rw [if_neg h]; clear h
  by_cases h : a1 = 0x051
  · rw [if_pos h]
    split
    · split
      · exact State.putQueue_sound h0
      · exact h0
    · exact h0
  rw [if_neg h]; clear h
  by_cases h : a1 = 0x060
  · rw [if_pos h]; exact Run.due_sound (hc _)
  rw [if_neg h]; clear h
  by_cases h : a1 = 0x071
  · rw [if_pos h]; split <;> first | exact hc _ | exact h0
  rw [if_neg h]; clear h
  by_cases h : a1 = 0x072
  · rw [if_pos h]; exact hc _
  rw [if_neg h]; clear h
  by_cases h : a1 = 0x073
  · rw [if_pos h]; exact hc _
  rw [if_neg h]; clear h
  by_cases h : a1 = 0x0C4
  · rw [if_pos h]; split
    · exact h0
    · exact h0
  rw [if_neg h]
  exact h0

theorem Run.swr_sound {a0 a1 a2 a3 a4 a5} (h0 : a0.s.Sound T) : (Run.swr a0 a1 a2 a3 a4 a5).s.Sound T := by
  unfold Run.swr
  split
  · assumption
  · split
    · with_reducible apply Run.fatal_sound
      assumption
    · with_reducible apply Run.regPut_sound
      assumption

theorem execSrd_sound {a0 a1} (h1 : a1.Sound T) : OutSound T (execSrd a0 a1) := by
  unfold execSrd
  with_reducible apply issueKept_sound
  · intro _ _ _
    with_reducible apply Run.writeEach_sound
    assumption
  · assumption

theorem execSwr_sound {a0 a1} (h1 : a1.Sound T) : OutSound T (execSwr a0 a1) := by
  unfold execSwr
  with_reducible apply issueKept_sound
  · intro _ _ _
    with_reducible apply Run.swr_sound
    assumption
  · assumption

theorem execClk_sound {a0 a1} (h1 : a1.Sound T) : OutSound T (execClk a0 a1) := by
  unfold execClk
  with_reducible apply issueKept_sound
  · intro _ _ _
    with_reducible apply Run.writeEach_sound
    assumption
  · assumption

theorem Run.prof_sound {a0 a1} (h0 : a0.s.Sound T) : ((Run.prof a0 a1).1).s.Sound T := by
  unfold Run.prof
  split
  · assumption
  · split
    · assumption
    · split
      · assumption
      · split
        · assumption
        · assumption

theorem execProf_sound {a0 a1} (h1 : a1.Sound T) : OutSound T (execProf a0 a1) := by
  unfold execProf
  dsimp only
  with_reducible apply issueKept_sound
  · intro _ _ _
    with_reducible apply Run.writeEach_sound
    with_reducible apply Run.prof_sound
    assumption
  · assumption

theorem State.haltTeam_sound {a0 a1 a2} (h2 : a2.Sound T) : (State.haltTeam a0 a1 a2).Sound T := by
  unfold State.haltTeam
  split
  · assumption
  · split
    · assumption
    · split
      · with_reducible apply State.teamFatal_sound
        assumption
      · with_reducible apply State.teamEnded_sound
        with_reducible apply State.modTeam_sound
        assumption

theorem State.haltWg_sound {a0 a1} (h0 : a0.Sound T) : (State.haltWg a0 a1).Sound T := by
  unfold State.haltWg
  dsimp only
  split
  · assumption
  · split
    · with_reducible apply State.teamFatal_sound
      assumption
    · apply foldl_sound
      · intro _ _ _
        with_reducible apply State.teamEnded_sound
        assumption
      · with_reducible apply State.putWg_sound
        assumption

theorem State.haltNode_sound {a0 a1} (h0 : a0.Sound T) : (State.haltNode a0 a1).Sound T := by
  unfold State.haltNode
  dsimp only
  apply foldl_sound
  · intro _ _ _
    with_reducible apply State.haltWg_sound
    assumption
  · dsimp only [State.Sound]
    apply State.Sound.fold
    assumption

theorem Run.haltIssue_sound {a0 a1} (h0 : a0.s.Sound T) : (Run.haltIssue a0 a1).s.Sound T := by
  unfold Run.haltIssue
  extract_lets r1
  have hr1 : r1.s.Sound T := by
    unfold r1
    with_reducible apply Run.load_sound
    · assumption
    · with_reducible apply State.haltTeam_sound
      split
      · with_reducible apply State.haltNode_sound
        assumption
      · with_reducible apply State.haltWg_sound
        assumption
  clear_value r1
  assumption

theorem execHalt_sound {a0 a1} (h1 : a1.Sound T) : OutSound T (execHalt a0 a1) := by
  unfold execHalt
  with_reducible apply issue_sound
  · intro _ _
    with_reducible apply onceFirst_sound
    · intro _ _ _
      with_reducible apply Run.haltIssue_sound
      assumption
    · assumption
  · assumption

theorem Run.sleep_sound {a0 a1 a2} (h0 : a0.s.Sound T) : (Run.sleep a0 a1 a2).s.Sound T := by
  unfold Run.sleep
  dsimp only
  assumption

theorem execSleep_sound {a0 a1} (h1 : a1.Sound T) : OutSound T (execSleep a0 a1) := by
  unfold execSleep
  with_reducible apply issueKept_sound
  · intro _ _ _
    split
    · with_reducible apply Run.sleep_sound
      assumption
    · with_reducible apply Run.sleep_sound
      assumption
  · assumption

theorem execSleepExpiry_sound {a0 a1 a2} (h2 : a2.Sound T) : OutSound T (execSleepExpiry a0 a1 a2) := by
  unfold execSleepExpiry
  dsimp only
  apply next_sound
  split
  · split
    · with_reducible apply State.modTeam_sound
      assumption
    · assumption
  · assumption

/-! `Machine/Rpart.lean` -/

theorem Run.rpart_sound {a0 a1 a2 a3} (h0 : a0.s.Sound T) : (Run.rpart a0 a1 a2 a3).s.Sound T := by
  unfold Run.rpart
  dsimp only
  split
  · with_reducible apply Run.copyWaits_sound
    assumption
  · split
    · with_reducible apply Run.readBlock_sound
      with_reducible apply Run.copyWaits_sound
      assumption
    · split
      · with_reducible apply Run.arriveNow_sound
        with_reducible apply Run.newOp_sound
        with_reducible apply Run.readBlock_sound
        with_reducible apply Run.copyWaits_sound
        assumption
      · split
        · with_reducible apply Run.fatalAt_sound
          with_reducible apply Run.readBlock_sound
          with_reducible apply Run.copyWaits_sound
          assumption
        · with_reducible apply Run.newOp_sound
          with_reducible apply Run.readBlock_sound
          with_reducible apply Run.copyWaits_sound
          assumption

theorem execRpart_sound {a0 a1} (h1 : a1.Sound T) : OutSound T (execRpart a0 a1) := by
  unfold execRpart
  with_reducible apply issue_sound
  · intro _ _
    split
    · assumption
    · with_reducible apply copyIssue_sound
      · intro _ _ _
        with_reducible apply Run.rpart_sound
        assumption
      · assumption
  · assumption

theorem State.rpSend_sound {a0 a1 a2 a3 a4 a5 a6} (h0 : a0.Sound T) : (State.rpSend a0 a1 a2 a3 a4 a5 a6).Sound T := by
  unfold State.rpSend
  dsimp only
  apply foldl_sound
  · intro _ _ _
    dsimp only [State.Sound]
    apply State.Sound.fold
    with_reducible apply State.send_sound
    dsimp only [State.Sound]
    apply State.Sound.fold
    assumption
  · assumption

theorem State.rpBar_sound {a0 a1 a2} (h0 : a0.Sound T) : (State.rpBar a0 a1 a2).Sound T := by
  unfold State.rpBar
  dsimp only
  with_reducible apply State.engineBar_sound
  assumption

theorem State.setRpart_sound {a0 a1 a2} (h0 : a0.Sound T) : (State.setRpart a0 a1 a2).Sound T := by
  unfold State.setRpart
  dsimp only [State.Sound]
  apply State.Sound.fold
  assumption

theorem State.rpRecords_sound {a0 a1 a2} (h0 : a0.Sound T) : (State.rpRecords a0 a1 a2).Sound T := by
  unfold State.rpRecords
  split
  · apply EngOut.ok_sound
    refine EngOut.ok_of (by assumption) ?_
    with_reducible apply State.engineRead_sound
    assumption
  · apply EngOut.wait_sound
    refine EngOut.wait_of (by assumption) ?_
    with_reducible apply State.engineRead_sound
    assumption
  · apply EngOut.fault_sound

theorem State.rpForget_sound {a0 a1 a2} (h0 : a0.Sound T) : (State.rpForget a0 a1 a2).Sound T := by
  unfold State.rpForget
  split
  · with_reducible apply State.putCtx_sound
    assumption
  · assumption

theorem State.rpReject_sound {a0 a1 a2 a3} (h0 : a0.Sound T) : (State.rpReject a0 a1 a2 a3).Sound T := by
  unfold State.rpReject
  with_reducible apply State.rpForget_sound
  apply foldl_sound
  · intro _ _ _
    split
    · with_reducible apply State.opEnd_sound
      assumption
    · assumption
  · assumption

theorem State.rpAnnounce_sound {a0 a1 a2} (h0 : a0.Sound T) : (State.rpAnnounce a0 a1 a2).Sound T := by
  unfold State.rpAnnounce
  dsimp only
  split
  · split
    · with_reducible apply State.opFail_sound
      assumption
    · refine EngOut.wait_of (by assumption) ?_
      with_reducible apply State.engineRead_sound
      assumption
    · split
      · with_reducible apply State.opFail_sound
        refine EngOut.ok_of (by assumption) ?_
        with_reducible apply State.engineRead_sound
        assumption
      · refine EngOut.wait_of (by assumption) ?_
        with_reducible apply State.rpBar_sound
        refine EngOut.ok_of (by assumption) ?_
        with_reducible apply State.engineRead_sound
        assumption
      · with_reducible apply State.setRpart_sound
        split
        · with_reducible apply State.putCtx_sound
          apply foldl_sound
          · intro _ _ _
            with_reducible apply State.send_sound
            assumption
          · refine EngOut.ok_of (by assumption) ?_
            with_reducible apply State.rpBar_sound
            refine EngOut.ok_of (by assumption) ?_
            with_reducible apply State.engineRead_sound
            assumption
        · apply foldl_sound
          · intro _ _ _
            with_reducible apply State.send_sound
            assumption
          · refine EngOut.ok_of (by assumption) ?_
            with_reducible apply State.rpBar_sound
            refine EngOut.ok_of (by assumption) ?_
            with_reducible apply State.engineRead_sound
            assumption
  · split
    · with_reducible apply State.opFail_sound
      assumption
    · refine EngOut.wait_of (by assumption) ?_
      with_reducible apply State.rpBar_sound
      assumption
    · with_reducible apply State.setRpart_sound
      split
      · with_reducible apply State.putCtx_sound
        apply foldl_sound
        · intro _ _ _
          with_reducible apply State.send_sound
          assumption
        · refine EngOut.ok_of (by assumption) ?_
          with_reducible apply State.rpBar_sound
          assumption
      · apply foldl_sound
        · intro _ _ _
          with_reducible apply State.send_sound
          assumption
        · refine EngOut.ok_of (by assumption) ?_
          with_reducible apply State.rpBar_sound
          assumption

theorem State.rpSpread_sound {a0 a1 a2 a3 a4} (h0 : a0.Sound T) : (State.rpSpread a0 a1 a2 a3 a4).Sound T := by
  unfold State.rpSpread
  apply foldl_sound
  · intro _ _ _
    with_reducible apply State.rpSend_sound
    assumption
  · assumption

theorem State.rpCompare_sound {a0 a1 a2} (h0 : a0.Sound T) : (State.rpCompare a0 a1 a2).Sound T := by
  unfold State.rpCompare
  split
  · assumption
  · dsimp only
    split
    · assumption
    · split
      · with_reducible apply State.rpReject_sound
        assumption
      · split
        · with_reducible apply State.rpReject_sound
          assumption
        · assumption

theorem State.rpProduce_sound {a0 a1 a2} (h0 : a0.Sound T) : (State.rpProduce a0 a1 a2).Sound T := by
  unfold State.rpProduce
  dsimp only
  split
  · with_reducible apply State.opFail_sound
    assumption
  · refine EngOut.wait_of (by assumption) ?_
    with_reducible apply State.rpBar_sound
    assumption
  · split
    · with_reducible apply State.opFail_sound
      refine EngOut.ok_of (by assumption) ?_
      with_reducible apply State.rpBar_sound
      assumption
    · refine EngOut.wait_of (by assumption) ?_
      with_reducible apply State.rpRecords_sound
      refine EngOut.ok_of (by assumption) ?_
      with_reducible apply State.rpBar_sound
      assumption
    · split
      · split
        · with_reducible apply State.setRpart_sound
          with_reducible apply State.rpSpread_sound
          refine EngOut.ok_of (by assumption) ?_
          with_reducible apply State.rpRecords_sound
          refine EngOut.ok_of (by assumption) ?_
          with_reducible apply State.rpBar_sound
          assumption
        · with_reducible apply State.setRpart_sound
          with_reducible apply State.rpSpread_sound
          refine EngOut.ok_of (by assumption) ?_
          with_reducible apply State.rpRecords_sound
          refine EngOut.ok_of (by assumption) ?_
          with_reducible apply State.rpBar_sound
          assumption
      · split
        · split
          · with_reducible apply State.setRpart_sound
            with_reducible apply State.rpSpread_sound
            refine EngOut.ok_of (by assumption) ?_
            with_reducible apply State.rpRecords_sound
            refine EngOut.ok_of (by assumption) ?_
            with_reducible apply State.rpBar_sound
            assumption
          · assumption
        · split
          · split
            · with_reducible apply State.setRpart_sound
              apply foldl_sound
              · intro _ _ _
                split
                · assumption
                · with_reducible apply State.rpSend_sound
                  assumption
              · refine EngOut.ok_of (by assumption) ?_
                with_reducible apply State.rpRecords_sound
                refine EngOut.ok_of (by assumption) ?_
                with_reducible apply State.rpBar_sound
                assumption
            · assumption
          · assumption

theorem execRpartJoin_sound {a0 a1} (h1 : a1.Sound T) : OutSound T (execRpartJoin a0 a1) := by
  unfold execRpartJoin
  apply next_sound
  split
  · assumption
  · split
    · assumption
    · split
      · assumption
      · split
        · with_reducible apply State.rpAnnounce_sound
          assumption
        · split
          · with_reducible apply State.rpReject_sound
            assumption
          · split
            · with_reducible apply State.rpCompare_sound
              assumption
            · with_reducible apply State.rpProduce_sound
              assumption

theorem State.writeRuns_sound {a0 a1 a2} (h0 : a0.Sound T) : (State.writeRuns a0 a1 a2).Sound T := by
  induction a2 generalizing a0 a1 h0 with
  | nil =>
    unfold State.writeRuns
    apply EngOut.ok_sound
    assumption
  | cons x r ih =>
    unfold State.writeRuns
    split
    · apply ih
      refine EngOut.ok_of (by assumption) ?_
      with_reducible apply State.engineWrite_sound
      assumption
    · with_reducible apply State.engineWrite_sound
      assumption

theorem State.runsReady_sound {a0 a1 a2} (h0 : a0.Sound T) : (State.runsReady a0 a1 a2).Sound T := by
  induction a2 generalizing a0 a1 h0 with
  | nil =>
    unfold State.runsReady
    apply EngOut.ok_sound
    assumption
  | cons x r ih =>
    unfold State.runsReady
    split
    · apply ih
      refine EngOut.ok_of (by assumption) ?_
      with_reducible apply State.engineCanWrite_sound
      assumption
    · with_reducible apply State.engineCanWrite_sound
      assumption

theorem execRpartComplete_sound {a0 a1} (h1 : a1.Sound T) : OutSound T (execRpartComplete a0 a1) := by
  unfold execRpartComplete
  apply next_sound
  split
  · assumption
  · split
    · assumption
    · dsimp only
      split
      · assumption
      · split
        · with_reducible apply State.rpReject_sound
          assumption
        · split
          · split
            · with_reducible apply State.rpForget_sound
              with_reducible apply State.opEnd_sound
              with_reducible apply State.release_sound
              assumption
            · assumption
          · split
            · assumption
            · split
              · assumption
              · split
                · with_reducible apply State.opFail_sound
                  assumption
                · refine EngOut.wait_of (by assumption) ?_
                  with_reducible apply State.rpRecords_sound
                  assumption
                · split
                  · with_reducible apply State.opFail_sound
                    refine EngOut.ok_of (by assumption) ?_
                    with_reducible apply State.rpRecords_sound
                    assumption
                  · refine EngOut.wait_of (by assumption) ?_
                    with_reducible apply State.runsReady_sound
                    refine EngOut.ok_of (by assumption) ?_
                    with_reducible apply State.rpRecords_sound
                    assumption
                  · split
                    · with_reducible apply State.opFail_sound
                      refine EngOut.ok_of (by assumption) ?_
                      with_reducible apply State.runsReady_sound
                      refine EngOut.ok_of (by assumption) ?_
                      with_reducible apply State.rpRecords_sound
                      assumption
                    · refine EngOut.wait_of (by assumption) ?_
                      with_reducible apply State.writeRuns_sound
                      refine EngOut.ok_of (by assumption) ?_
                      with_reducible apply State.runsReady_sound
                      refine EngOut.ok_of (by assumption) ?_
                      with_reducible apply State.rpRecords_sound
                      assumption
                    · with_reducible apply State.setRpart_sound
                      refine EngOut.ok_of (by assumption) ?_
                      with_reducible apply State.writeRuns_sound
                      refine EngOut.ok_of (by assumption) ?_
                      with_reducible apply State.runsReady_sound
                      refine EngOut.ok_of (by assumption) ?_
                      with_reducible apply State.rpRecords_sound
                      assumption

end Sys2Proof.Machine
end

