-- ==== Sys2Proof/Laws/SoundNative.lean ====
section
/-! SUPPORT. Each function of these files keeps soundness: firmware access, the queue, arithmetic, exchange and the native form. -/
namespace Sys2Proof.Machine

variable {T : Nat}

/-! `Machine/Firmware.lean` -/

theorem State.fwClear_sound {a0 a1} (h0 : a0.Sound T) : (State.fwClear a0 a1).Sound T := by
  unfold State.fwClear
  split
  · with_reducible apply State.putCtx_sound
    assumption
  · assumption

theorem State.fwAsk_sound {a0 a1 a2 a3 a4} (h0 : a0.Sound T) : (State.fwAsk a0 a1 a2 a3 a4).Sound T := by
  unfold State.fwAsk
  dsimp only
  split
  · assumption
  · with_reducible apply State.putCtx_sound
    with_reducible apply State.send_sound
    dsimp only [State.Sound]
    apply State.Sound.fold
    assumption

theorem State.fwByte_sound {a0 a1 a2} (h0 : a0.Sound T) : (State.fwByte a0 a1 a2).Sound T := by
  unfold State.fwByte
  split
  · apply Fw.bad_sound
    assumption
  · split
    · apply Fw.bad_sound
      assumption
    · split
      · apply Fw.wait_sound
        with_reducible apply State.missAdd_sound
        assumption
      · split
        · apply Fw.ok_sound
          assumption
        · split
          · apply Fw.ok_sound
            assumption
          · split
            · apply Fw.ok_sound
              assumption
            · apply Fw.wait_sound
              with_reducible apply State.fwAsk_sound
              assumption

theorem State.fwRead_sound {a0 a1 a2 a3} (h0 : a0.Sound T) : (State.fwRead a0 a1 a2 a3).Sound T := by
  induction a3 generalizing a0 a1 a2 h0 with
  | zero =>
    unfold State.fwRead
    apply Fw.ok_sound
    assumption
  | succ n ih =>
    unfold State.fwRead
    split
    · apply Fw.bad_sound
      refine Fw.bad_of (by assumption) ?_
      with_reducible apply State.fwByte_sound
      assumption
    · apply Fw.wait_sound
      refine Fw.wait_of (by assumption) ?_
      with_reducible apply State.fwByte_sound
      assumption
    · split
      · apply Fw.ok_sound
        refine Fw.ok_of (by assumption) ?_
        apply ih
        refine Fw.ok_of (by assumption) ?_
        with_reducible apply State.fwByte_sound
        assumption
      · apply Fw.wait_sound
        refine Fw.wait_of (by assumption) ?_
        apply ih
        refine Fw.ok_of (by assumption) ?_
        with_reducible apply State.fwByte_sound
        assumption
      · apply Fw.bad_sound
        refine Fw.bad_of (by assumption) ?_
        apply ih
        refine Fw.ok_of (by assumption) ?_
        with_reducible apply State.fwByte_sound
        assumption

theorem State.fwWrite_sound {a0 a1 a2 a3} (h0 : a0.Sound T) : (State.fwWrite a0 a1 a2 a3).Sound T := by
  unfold State.fwWrite
  split
  · apply Fw.bad_sound
    assumption
  · split
    · apply Fw.bad_sound
      assumption
    · apply Fw.wait_sound
      with_reducible apply State.missAdd_sound
      assumption
    · split
      · apply Fw.ok_sound
        with_reducible apply State.pagePut_sound
        assumption
      · apply Fw.bad_sound
        assumption
      · apply Fw.wait_sound
        assumption

/-! `Machine/Queue.lean` -/

theorem State.hostAct_sound {a0 a1 a2} (h0 : a0.Sound T) (h2 : ∀ s : State, s.Sound T → (a2 s).Sound T)
    : (State.hostAct a0 a1 a2).Sound T := by
  unfold State.hostAct
  split
  · assumption
  · split
    · dsimp only [State.Sound]
      apply State.Sound.fold
      assumption
    · apply h2
      assumption

theorem State.publish_sound {a0 a1} (h0 : a0.Sound T) : (State.publish a0 a1).Sound T := by
  unfold State.publish
  split
  · assumption
  · split
    · with_reducible apply State.putQueue_sound
      refine Fw.ok_of (by assumption) ?_
      with_reducible apply State.fwWrite_sound
      assumption
    · with_reducible apply State.putQueue_sound
      refine Fw.wait_of (by assumption) ?_
      with_reducible apply State.fwWrite_sound
      assumption
    · with_reducible apply State.putQueue_sound
      refine Fw.bad_of (by assumption) ?_
      with_reducible apply State.fwWrite_sound
      assumption

theorem State.advance_sound {a0 a1 a2} (h0 : a0.Sound T) : (State.advance a0 a1 a2).Sound T := by
  unfold State.advance
  split
  · assumption
  · with_reducible apply State.publish_sound
    with_reducible apply State.putQueue_sound
    assumption

theorem State.queueReset_sound {a0 a1} (h0 : a0.Sound T) : (State.queueReset a0 a1).Sound T := by
  unfold State.queueReset
  split
  · assumption
  · with_reducible apply State.publish_sound
    with_reducible apply State.putQueue_sound
    assumption

theorem State.nodeFatal_sound {a0 a1 a2 a3} (h0 : a0.Sound T) : (State.nodeFatal a0 a1 a2 a3).Sound T := by
  unfold State.nodeFatal
  dsimp only
  with_reducible apply State.fatal_sound
  assumption

theorem State.askKernel_sound {a0 a1} (h0 : a0.Sound T) : (State.askKernel a0 a1).Sound T := by
  unfold State.askKernel
  dsimp only
  split
  · assumption
  · split
    · assumption
    · split
      · with_reducible apply State.nodeFatal_sound
        assumption
      · split
        · with_reducible apply State.requestFn_sound
          assumption
        · split
          · with_reducible apply State.putNode_sound
            with_reducible apply State.requestFn_sound
            assumption
          · split
            · with_reducible apply State.nodeFatal_sound
              with_reducible apply State.requestFn_sound
              assumption
            · with_reducible apply State.putNode_sound
              with_reducible apply State.requestFn_sound
              assumption

theorem State.nodeReady_sound {a0 a1} (h0 : a0.Sound T) : (State.nodeReady a0 a1).Sound T := by
  unfold State.nodeReady
  dsimp only
  split
  · assumption
  · split
    · with_reducible apply State.askKernel_sound
      dsimp only [State.Sound]
      apply State.Sound.fold
      with_reducible apply State.putNode_sound
      assumption
    · dsimp only [State.Sound]
      apply State.Sound.fold
      with_reducible apply State.putNode_sound
      assumption

theorem decrementAll_sound {a0 a1} (h1 : a1.Sound T) : (decrementAll a0 a1).Sound T := by
  induction a0 generalizing a1 h1 with
  | nil =>
    unfold decrementAll
    assumption
  | cons x r ih =>
    unfold decrementAll
    dsimp only
    split
    · apply ih
      assumption
    · apply ih
      split
      · with_reducible apply State.nodeReady_sound
        with_reducible apply State.putNode_sound
        assumption
      · with_reducible apply State.putNode_sound
        assumption

theorem State.nodeAfter_sound {a0 a1} (h0 : a0.Sound T) : (State.nodeAfter a0 a1).Sound T := by
  unfold State.nodeAfter
  dsimp only
  split
  · with_reducible apply decrementAll_sound
    dsimp only [State.Sound]
    apply State.Sound.fold
    assumption
  · with_reducible apply decrementAll_sound
    split
    · with_reducible apply State.emit_sound
      with_reducible apply State.putQueue_sound
      dsimp only [State.Sound]
      apply State.Sound.fold
      assumption
    · with_reducible apply State.putQueue_sound
      dsimp only [State.Sound]
      apply State.Sound.fold
      assumption

theorem State.nodeRecord_sound {a0 a1} (h0 : a0.Sound T) : (State.nodeRecord a0 a1).Sound T := by
  unfold State.nodeRecord
  split
  · assumption
  · split
    · with_reducible apply State.nodeAfter_sound
      assumption
    · split
      · with_reducible apply State.nodeAfter_sound
        refine Fw.ok_of (by assumption) ?_
        with_reducible apply State.fwWrite_sound
        assumption
      · refine Fw.wait_of (by assumption) ?_
        with_reducible apply State.fwWrite_sound
        assumption
      · with_reducible apply State.nodeAfter_sound
        split
        · with_reducible apply State.putQueue_sound
          refine Fw.bad_of (by assumption) ?_
          with_reducible apply State.fwWrite_sound
          assumption
        · refine Fw.bad_of (by assumption) ?_
          with_reducible apply State.fwWrite_sound
          assumption

theorem State.nodeEnd_sound {a0 a1 a2 a3 a4} (h0 : a0.Sound T) : (State.nodeEnd a0 a1 a2 a3 a4).Sound T := by
  unfold State.nodeEnd
  dsimp only
  with_reducible apply State.nodeRecord_sound
  split
  · with_reducible apply State.putNode_sound
    assumption
  · dsimp only [State.Sound]
    apply State.Sound.fold
    assumption

theorem edgesGo_sound {a0 a1 a2} (h2 : a2.Sound T) : (edgesGo a0 a1 a2).Sound T := by
  induction a1 generalizing a0 a2 h2 with
  | nil =>
    unfold edgesGo
    assumption
  | cons x r ih =>
    unfold edgesGo
    split
    · apply ih
      with_reducible apply State.putNode_sound
      with_reducible apply State.putNode_sound
      assumption
    · apply ih
      assumption

theorem State.nodeEnters_sound {a0 a1 a2 a3} (h0 : a0.Sound T) : (State.nodeEnters a0 a1 a2 a3).Sound T := by
  unfold State.nodeEnters
  dsimp only
  split
  · with_reducible apply State.nodeEnd_sound
    with_reducible apply State.advance_sound
    with_reducible apply State.putQueue_sound
    dsimp only [State.Sound]
    apply State.Sound.fold
    assumption
  · split
    · split
      · with_reducible apply State.nodeReady_sound
        with_reducible apply edgesGo_sound
        dsimp only [State.Sound]
        apply State.Sound.fold
        with_reducible apply State.advance_sound
        with_reducible apply State.putQueue_sound
        dsimp only [State.Sound]
        apply State.Sound.fold
        assumption
      · with_reducible apply edgesGo_sound
        dsimp only [State.Sound]
        apply State.Sound.fold
        with_reducible apply State.advance_sound
        with_reducible apply State.putQueue_sound
        dsimp only [State.Sound]
        apply State.Sound.fold
        assumption
    · with_reducible apply edgesGo_sound
      dsimp only [State.Sound]
      apply State.Sound.fold
      with_reducible apply State.advance_sound
      with_reducible apply State.putQueue_sound
      dsimp only [State.Sound]
      apply State.Sound.fold
      assumption

theorem State.parse_sound {a0 a1 a2} (h0 : a0.Sound T) : (State.parse a0 a1 a2).Sound T := by
  unfold State.parse
  split
  · assumption
  · split
    · assumption
    · dsimp only
      split
      · refine Fw.bad_of (by assumption) ?_
        with_reducible apply State.fwRead_sound
        assumption
      · refine Fw.wait_of (by assumption) ?_
        with_reducible apply State.fwRead_sound
        assumption
      · split
        · with_reducible apply State.putQueue_sound
          dsimp only [State.Sound]
          apply State.Sound.fold
          with_reducible apply State.fwClear_sound
          refine Fw.ok_of (by assumption) ?_
          with_reducible apply State.fwRead_sound
          assumption
        · split
          · assumption
          · split
            · split
              · with_reducible apply State.advance_sound
                dsimp only [State.Sound]
                apply State.Sound.fold
                with_reducible apply State.fwClear_sound
                refine Fw.ok_of (by assumption) ?_
                with_reducible apply State.fwRead_sound
                assumption
              · assumption
            · split
              · with_reducible apply State.advance_sound
                with_reducible apply State.putQueue_sound
                dsimp only [State.Sound]
                apply State.Sound.fold
                with_reducible apply State.fwClear_sound
                refine Fw.ok_of (by assumption) ?_
                with_reducible apply State.fwRead_sound
                assumption
              · split
                · refine Fw.bad_of (by assumption) ?_
                  with_reducible apply State.fwRead_sound
                  refine Fw.ok_of (by assumption) ?_
                  with_reducible apply State.fwRead_sound
                  assumption
                · refine Fw.wait_of (by assumption) ?_
                  with_reducible apply State.fwRead_sound
                  refine Fw.ok_of (by assumption) ?_
                  with_reducible apply State.fwRead_sound
                  assumption
                · split
                  · with_reducible apply State.putQueue_sound
                    dsimp only [State.Sound]
                    apply State.Sound.fold
                    with_reducible apply State.fwClear_sound
                    refine Fw.ok_of (by assumption) ?_
                    with_reducible apply State.fwRead_sound
                    assumption
                  · split
                    · assumption
                    · split
                      · with_reducible apply State.nodeFatal_sound
                        dsimp only [State.Sound]
                        apply State.Sound.fold
                        with_reducible apply State.fwClear_sound
                        refine Fw.ok_of (by assumption) ?_
                        with_reducible apply State.fwRead_sound
                        assumption
                      · split
                        · assumption
                        · with_reducible apply State.nodeEnters_sound
                          dsimp only [State.Sound]
                          apply State.Sound.fold
                          with_reducible apply State.fwClear_sound
                          refine Fw.ok_of (by assumption) ?_
                          with_reducible apply State.fwRead_sound
                          assumption

theorem execParsePad_sound {a0 a1} (h1 : a1.Sound T) : OutSound T (execParsePad a0 a1) := by
  unfold execParsePad
  apply next_sound
  with_reducible apply State.parse_sound
  assumption

theorem execParseLaunch_sound {a0 a1} (h1 : a1.Sound T) : OutSound T (execParseLaunch a0 a1) := by
  unfold execParseLaunch
  apply next_sound
  with_reducible apply State.parse_sound
  assumption

theorem execParseLoad_sound {a0 a1} (h1 : a1.Sound T) : OutSound T (execParseLoad a0 a1) := by
  unfold execParseLoad
  apply next_sound
  with_reducible apply State.parse_sound
  assumption

theorem execParseUnload_sound {a0 a1} (h1 : a1.Sound T) : OutSound T (execParseUnload a0 a1) := by
  unfold execParseUnload
  apply next_sound
  with_reducible apply State.parse_sound
  assumption

theorem execParseJoin_sound {a0 a1} (h1 : a1.Sound T) : OutSound T (execParseJoin a0 a1) := by
  unfold execParseJoin
  apply next_sound
  with_reducible apply State.parse_sound
  assumption

theorem execQueKick_sound {a0 a1 a2} (h2 : a2.Sound T) : OutSound T (execQueKick a0 a1 a2) := by
  unfold execQueKick
  dsimp only
  apply next_sound
  with_reducible apply State.hostAct_sound
  · assumption
  · intro _ _
    dsimp only [State.Sound]
    apply State.Sound.fold
    with_reducible apply State.kick_sound
    assumption

theorem withdrawWalk_sound {a0 a1 a2 a3 a4 a5} (h5 : a5.Sound T) : Fw.Sound T (withdrawWalk a0 a1 a2 a3 a4 a5) := by
  induction a2 generalizing a0 a1 a3 a4 a5 h5 with
  | zero =>
    unfold withdrawWalk
    assumption
  | succ n ih =>
    unfold withdrawWalk
    dsimp only
    split
    · assumption
    · split
      · apply Fw.wait_sound
        refine Fw.wait_of (by assumption) ?_
        with_reducible apply State.fwRead_sound
        assumption
      · apply Fw.ok_sound
        refine Fw.bad_of (by assumption) ?_
        with_reducible apply State.fwRead_sound
        assumption
      · split
        · apply Fw.ok_sound
          refine Fw.ok_of (by assumption) ?_
          with_reducible apply State.fwRead_sound
          assumption
        · split
          · apply Fw.ok_sound
            refine Fw.ok_of (by assumption) ?_
            apply ih
            refine Fw.ok_of (by assumption) ?_
            with_reducible apply State.fwRead_sound
            assumption
          · apply ih
            refine Fw.ok_of (by assumption) ?_
            with_reducible apply State.fwRead_sound
            assumption

theorem withdrawFind_sound {a0 a1 a2} (h2 : a2.Sound T) : Fw.Sound T (withdrawFind a0 a1 a2) := by
  induction a1 generalizing a0 a2 h2 with
  | nil =>
    unfold withdrawFind
    assumption
  | cons x r ih =>
    unfold withdrawFind
    split
    · split
      · apply Fw.ok_sound
        refine Fw.ok_of (by assumption) ?_
        apply ih
        refine Fw.ok_of (by assumption) ?_
        with_reducible apply withdrawWalk_sound
        assumption
      · apply ih
        refine Fw.ok_of (by assumption) ?_
        with_reducible apply withdrawWalk_sound
        assumption
    · apply Fw.wait_sound
      refine Fw.wait_of (by assumption) ?_
      with_reducible apply withdrawWalk_sound
      assumption
    · apply Fw.bad_sound
      refine Fw.bad_of (by assumption) ?_
      with_reducible apply withdrawWalk_sound
      assumption

theorem withdrawPackets_sound {a0 a1 a2} (h2 : a2.Sound T) : (withdrawPackets a0 a1 a2).Sound T := by
  induction a1 generalizing a0 a2 h2 with
  | nil =>
    unfold withdrawPackets
    assumption
  | cons x r ih =>
    unfold withdrawPackets
    dsimp only
    split
    · assumption
    · apply ih
      with_reducible apply State.nodeEnd_sound
      with_reducible apply State.putQueue_sound
      dsimp only [State.Sound]
      apply State.Sound.fold
      assumption

theorem withdrawQueues_sound {a0 a1 a2} (h2 : a2.Sound T) : (withdrawQueues a0 a1 a2).Sound T := by
  induction a1 generalizing a0 a2 h2 with
  | nil =>
    unfold withdrawQueues
    assumption
  | cons x r ih =>
    unfold withdrawQueues
    apply ih
    with_reducible apply withdrawPackets_sound
    assumption

theorem withdrawNodes_sound {a0 a1} (h1 : a1.Sound T) : (withdrawNodes a0 a1).Sound T := by
  induction a0 generalizing a1 h1 with
  | nil =>
    unfold withdrawNodes
    assumption
  | cons x r ih =>
    unfold withdrawNodes
    split
    · apply ih
      with_reducible apply State.nodeEnd_sound
      assumption
    · apply ih
      assumption

theorem State.withdrawNow_sound {a0 a1 a2} (h0 : a0.Sound T) : ((State.withdrawNow a0 a1 a2).1).Sound T := by
  unfold State.withdrawNow
  split
  · assumption
  · split
    · dsimp only
      refine Fw.bad_of (by assumption) ?_
      with_reducible apply withdrawFind_sound
      assumption
    · dsimp only
      refine Fw.wait_of (by assumption) ?_
      with_reducible apply withdrawFind_sound
      assumption
    · extract_lets ns marked
      have hmarked : marked.Sound T := by
        unfold marked
        with_reducible apply State.fwClear_sound
        refine Fw.ok_of (by assumption) ?_
        with_reducible apply withdrawFind_sound
        assumption
      clear_value ns marked
      dsimp only
      with_reducible apply withdrawQueues_sound
      with_reducible apply withdrawNodes_sound
      assumption

theorem State.withdraw_sound {a0 a1 a2} (h0 : a0.Sound T) : (State.withdraw a0 a1 a2).Sound T := by
  unfold State.withdraw
  split
  · assumption
  · split
    · assumption
    · split
      · assumption
      · split
        · refine pair_of (by assumption) ?_
          with_reducible apply State.withdrawNow_sound
          assumption
        · split
          · with_reducible apply State.putCtx_sound
            refine pair_of (by assumption) ?_
            with_reducible apply State.withdrawNow_sound
            assumption
          · refine pair_of (by assumption) ?_
            with_reducible apply State.withdrawNow_sound
            assumption

theorem withdrawHeld_sound {a0 a1 a2} (h2 : a2.Sound T) : (withdrawHeld a0 a1 a2).Sound T := by
  induction a1 generalizing a0 a2 h2 with
  | nil =>
    unfold withdrawHeld
    split
    · assumption
    · assumption
  | cons x r ih =>
    unfold withdrawHeld
    split
    · apply ih
      refine pair_of (by assumption) ?_
      with_reducible apply State.withdrawNow_sound
      assumption
    · split
      · with_reducible apply State.putCtx_sound
        refine pair_of (by assumption) ?_
        with_reducible apply State.withdrawNow_sound
        assumption
      · refine pair_of (by assumption) ?_
        with_reducible apply State.withdrawNow_sound
        assumption

theorem execQueWdraw_sound {a0 a1} (h1 : a1.Sound T) : OutSound T (execQueWdraw a0 a1) := by
  unfold execQueWdraw
  apply next_sound
  with_reducible apply State.hostAct_sound
  · assumption
  · intro _ _
    with_reducible apply State.withdraw_sound
    assumption

theorem execWdraw_sound {a0 a1} (h1 : a1.Sound T) : OutSound T (execWdraw a0 a1) := by
  unfold execWdraw
  with_reducible apply issueKept_sound
  · intro _ _ _
    split
    · with_reducible apply Run.writeEach_sound
      with_reducible apply Run.load_sound
      · assumption
      · refine pair_of (by assumption) ?_
        with_reducible apply State.withdrawNow_sound
        assumption
    · with_reducible apply Run.stall_sound
      with_reducible apply Run.load_sound
      · assumption
      · refine pair_of (by assumption) ?_
        with_reducible apply State.withdrawNow_sound
        assumption
  · assumption

/-! `Machine/IntAlu.lean` -/

theorem execMov_sound {a0 a1} (h1 : a1.Sound T) : OutSound T (execMov a0 a1) := by
  unfold execMov
  with_reducible apply issueAlu_sound
  assumption

theorem moviUnit_sound {a0 a1 a2 a3} (h2 : a2.s.Sound T) : (moviUnit a0 a1 a2 a3).s.Sound T := by
  unfold moviUnit
  with_reducible apply Run.write_sound
  assumption

theorem execMovi_sound {a0 a1 a2} (h2 : a2.Sound T) : OutSound T (execMovi a0 a1 a2) := by
  unfold execMovi
  with_reducible apply issue_sound
  · intro _ _
    with_reducible apply runUnits_sound
    · intro _ _ _
      with_reducible apply moviUnit_sound
      assumption
    · assumption
  · assumption

theorem execAdd_sound {a0 a1} (h1 : a1.Sound T) : OutSound T (execAdd a0 a1) := by
  unfold execAdd
  with_reducible apply issueAlu_sound
  assumption

theorem execSub_sound {a0 a1} (h1 : a1.Sound T) : OutSound T (execSub a0 a1) := by
  unfold execSub
  with_reducible apply issueAlu_sound
  assumption

theorem execAddc_sound {a0 a1} (h1 : a1.Sound T) : OutSound T (execAddc a0 a1) := by
  unfold execAddc
  with_reducible apply issueAlu_sound
  assumption

theorem execSubb_sound {a0 a1} (h1 : a1.Sound T) : OutSound T (execSubb a0 a1) := by
  unfold execSubb
  with_reducible apply issueAlu_sound
  assumption

theorem execMul_sound {a0 a1} (h1 : a1.Sound T) : OutSound T (execMul a0 a1) := by
  unfold execMul
  with_reducible apply issueAlu_sound
  assumption

theorem execMulhi_sound {a0 a1} (h1 : a1.Sound T) : OutSound T (execMulhi a0 a1) := by
  unfold execMulhi
  with_reducible apply issueAlu_sound
  assumption

theorem execMad_sound {a0 a1} (h1 : a1.Sound T) : OutSound T (execMad a0 a1) := by
  unfold execMad
  with_reducible apply issueAlu_sound
  assumption

theorem execMadhi_sound {a0 a1} (h1 : a1.Sound T) : OutSound T (execMadhi a0 a1) := by
  unfold execMadhi
  with_reducible apply issueAlu_sound
  assumption

theorem execDiv_sound {a0 a1} (h1 : a1.Sound T) : OutSound T (execDiv a0 a1) := by
  unfold execDiv
  with_reducible apply issueAlu_sound
  assumption

theorem execRem_sound {a0 a1} (h1 : a1.Sound T) : OutSound T (execRem a0 a1) := by
  unfold execRem
  with_reducible apply issueAlu_sound
  assumption

theorem execNeg_sound {a0 a1} (h1 : a1.Sound T) : OutSound T (execNeg a0 a1) := by
  unfold execNeg
  with_reducible apply issueAlu_sound
  assumption

theorem execAbs_sound {a0 a1} (h1 : a1.Sound T) : OutSound T (execAbs a0 a1) := by
  unfold execAbs
  with_reducible apply issueAlu_sound
  assumption

theorem execMin_sound {a0 a1} (h1 : a1.Sound T) : OutSound T (execMin a0 a1) := by
  unfold execMin
  with_reducible apply issueAlu_sound
  assumption

theorem execMax_sound {a0 a1} (h1 : a1.Sound T) : OutSound T (execMax a0 a1) := by
  unfold execMax
  with_reducible apply issueAlu_sound
  assumption

theorem execClamp_sound {a0 a1} (h1 : a1.Sound T) : OutSound T (execClamp a0 a1) := by
  unfold execClamp
  with_reducible apply issueAlu_sound
  assumption

theorem execSad_sound {a0 a1} (h1 : a1.Sound T) : OutSound T (execSad a0 a1) := by
  unfold execSad
  with_reducible apply issueAlu_sound
  assumption

theorem execAnd_sound {a0 a1} (h1 : a1.Sound T) : OutSound T (execAnd a0 a1) := by
  unfold execAnd
  with_reducible apply issueAlu_sound
  assumption

theorem execOr_sound {a0 a1} (h1 : a1.Sound T) : OutSound T (execOr a0 a1) := by
  unfold execOr
  with_reducible apply issueAlu_sound
  assumption

theorem execXor_sound {a0 a1} (h1 : a1.Sound T) : OutSound T (execXor a0 a1) := by
  unfold execXor
  with_reducible apply issueAlu_sound
  assumption

theorem execNot_sound {a0 a1} (h1 : a1.Sound T) : OutSound T (execNot a0 a1) := by
  unfold execNot
  with_reducible apply issueAlu_sound
  assumption

theorem execAndn_sound {a0 a1} (h1 : a1.Sound T) : OutSound T (execAndn a0 a1) := by
  unfold execAndn
  with_reducible apply issueAlu_sound
  assumption

theorem execShl_sound {a0 a1} (h1 : a1.Sound T) : OutSound T (execShl a0 a1) := by
  unfold execShl
  with_reducible apply issueAlu_sound
  assumption

theorem execShr_sound {a0 a1} (h1 : a1.Sound T) : OutSound T (execShr a0 a1) := by
  unfold execShr
  with_reducible apply issueAlu_sound
  assumption

theorem execSar_sound {a0 a1} (h1 : a1.Sound T) : OutSound T (execSar a0 a1) := by
  unfold execSar
  with_reducible apply issueAlu_sound
  assumption

theorem execRotl_sound {a0 a1} (h1 : a1.Sound T) : OutSound T (execRotl a0 a1) := by
  unfold execRotl
  with_reducible apply issueAlu_sound
  assumption

theorem execRotr_sound {a0 a1} (h1 : a1.Sound T) : OutSound T (execRotr a0 a1) := by
  unfold execRotr
  with_reducible apply issueAlu_sound
  assumption

theorem execClz_sound {a0 a1} (h1 : a1.Sound T) : OutSound T (execClz a0 a1) := by
  unfold execClz
  with_reducible apply issueAlu_sound
  assumption

theorem execCtz_sound {a0 a1} (h1 : a1.Sound T) : OutSound T (execCtz a0 a1) := by
  unfold execCtz
  with_reducible apply issueAlu_sound
  assumption

theorem execPopc_sound {a0 a1} (h1 : a1.Sound T) : OutSound T (execPopc a0 a1) := by
  unfold execPopc
  with_reducible apply issueAlu_sound
  assumption

theorem execBrev_sound {a0 a1} (h1 : a1.Sound T) : OutSound T (execBrev a0 a1) := by
  unfold execBrev
  with_reducible apply issueAlu_sound
  assumption

theorem execBfe_sound {a0 a1} (h1 : a1.Sound T) : OutSound T (execBfe a0 a1) := by
  unfold execBfe
  with_reducible apply issueAlu_sound
  assumption

theorem execBfi_sound {a0 a1} (h1 : a1.Sound T) : OutSound T (execBfi a0 a1) := by
  unfold execBfi
  with_reducible apply issueAlu_sound
  assumption

theorem execSel_sound {a0 a1} (h1 : a1.Sound T) : OutSound T (execSel a0 a1) := by
  unfold execSel
  with_reducible apply issueAlu_sound
  assumption

theorem execSetp_sound {a0 a1} (h1 : a1.Sound T) : OutSound T (execSetp a0 a1) := by
  unfold execSetp
  with_reducible apply issueAlu_sound
  assumption

theorem execLea_sound {a0 a1} (h1 : a1.Sound T) : OutSound T (execLea a0 a1) := by
  unfold execLea
  with_reducible apply issueAlu_sound
  assumption

theorem execMad24_sound {a0 a1} (h1 : a1.Sound T) : OutSound T (execMad24 a0 a1) := by
  unfold execMad24
  dsimp only
  with_reducible apply issue_sound
  · intro _ _
    with_reducible apply runUnits_sound
    · intro _ _ _
      with_reducible apply aluUnit_sound
      assumption
    · with_reducible apply Run.ladderUse_sound
      assumption
  · assumption

/-! `Machine/FloatAlu.lean` -/

theorem issueDot_sound {a0 a1 a2 a3} (h3 : a3.Sound T) : OutSound T (issueDot a0 a1 a2 a3) := by
  unfold issueDot
  with_reducible apply issueUnits_sound
  · intro _ _ _
    with_reducible apply aluUnit_sound
    assumption
  · assumption

theorem execFadd_sound {a0 a1} (h1 : a1.Sound T) : OutSound T (execFadd a0 a1) := by
  unfold execFadd
  with_reducible apply issueAlu_sound
  assumption

theorem execFsub_sound {a0 a1} (h1 : a1.Sound T) : OutSound T (execFsub a0 a1) := by
  unfold execFsub
  with_reducible apply issueAlu_sound
  assumption

theorem execFmul_sound {a0 a1} (h1 : a1.Sound T) : OutSound T (execFmul a0 a1) := by
  unfold execFmul
  with_reducible apply issueAlu_sound
  assumption

theorem execFma_sound {a0 a1} (h1 : a1.Sound T) : OutSound T (execFma a0 a1) := by
  unfold execFma
  with_reducible apply issueAlu_sound
  assumption

theorem execFmin_sound {a0 a1} (h1 : a1.Sound T) : OutSound T (execFmin a0 a1) := by
  unfold execFmin
  with_reducible apply issueAlu_sound
  assumption

theorem execFmax_sound {a0 a1} (h1 : a1.Sound T) : OutSound T (execFmax a0 a1) := by
  unfold execFmax
  with_reducible apply issueAlu_sound
  assumption

theorem execFabs_sound {a0 a1} (h1 : a1.Sound T) : OutSound T (execFabs a0 a1) := by
  unfold execFabs
  with_reducible apply issueAlu_sound
  assumption

theorem execFneg_sound {a0 a1} (h1 : a1.Sound T) : OutSound T (execFneg a0 a1) := by
  unfold execFneg
  with_reducible apply issueAlu_sound
  assumption

theorem execFsgn_sound {a0 a1} (h1 : a1.Sound T) : OutSound T (execFsgn a0 a1) := by
  unfold execFsgn
  with_reducible apply issueAlu_sound
  assumption

theorem execFsetp_sound {a0 a1} (h1 : a1.Sound T) : OutSound T (execFsetp a0 a1) := by
  unfold execFsetp
  with_reducible apply issueAlu_sound
  assumption

theorem execFclass_sound {a0 a1} (h1 : a1.Sound T) : OutSound T (execFclass a0 a1) := by
  unfold execFclass
  with_reducible apply issueAlu_sound
  assumption

theorem execFrnd_sound {a0 a1} (h1 : a1.Sound T) : OutSound T (execFrnd a0 a1) := by
  unfold execFrnd
  with_reducible apply issueAlu_sound
  assumption

theorem execFrcp_sound {a0 a1} (h1 : a1.Sound T) : OutSound T (execFrcp a0 a1) := by
  unfold execFrcp
  with_reducible apply issueAlu_sound
  assumption

theorem execFrsq_sound {a0 a1} (h1 : a1.Sound T) : OutSound T (execFrsq a0 a1) := by
  unfold execFrsq
  with_reducible apply issueAlu_sound
  assumption

theorem execFsqrt_sound {a0 a1} (h1 : a1.Sound T) : OutSound T (execFsqrt a0 a1) := by
  unfold execFsqrt
  with_reducible apply issueAlu_sound
  assumption

theorem execFdiv_sound {a0 a1} (h1 : a1.Sound T) : OutSound T (execFdiv a0 a1) := by
  unfold execFdiv
  with_reducible apply issueAlu_sound
  assumption

theorem execFexp2_sound {a0 a1} (h1 : a1.Sound T) : OutSound T (execFexp2 a0 a1) := by
  unfold execFexp2
  with_reducible apply issueAlu_sound
  assumption

theorem execFlog2_sound {a0 a1} (h1 : a1.Sound T) : OutSound T (execFlog2 a0 a1) := by
  unfold execFlog2
  with_reducible apply issueAlu_sound
  assumption

theorem execFsin_sound {a0 a1} (h1 : a1.Sound T) : OutSound T (execFsin a0 a1) := by
  unfold execFsin
  with_reducible apply issueAlu_sound
  assumption

theorem execFcos_sound {a0 a1} (h1 : a1.Sound T) : OutSound T (execFcos a0 a1) := by
  unfold execFcos
  with_reducible apply issueAlu_sound
  assumption

theorem execFtanh_sound {a0 a1} (h1 : a1.Sound T) : OutSound T (execFtanh a0 a1) := by
  unfold execFtanh
  with_reducible apply issueAlu_sound
  assumption

theorem execFscale_sound {a0 a1} (h1 : a1.Sound T) : OutSound T (execFscale a0 a1) := by
  unfold execFscale
  with_reducible apply issueAlu_sound
  assumption

theorem execFexpo_sound {a0 a1} (h1 : a1.Sound T) : OutSound T (execFexpo a0 a1) := by
  unfold execFexpo
  with_reducible apply issueAlu_sound
  assumption

theorem execFrcpa_sound {a0 a1} (h1 : a1.Sound T) : OutSound T (execFrcpa a0 a1) := by
  unfold execFrcpa
  dsimp only
  with_reducible apply issue_sound
  · intro _ _
    with_reducible apply runUnits_sound
    · intro _ _ _
      with_reducible apply aluUnit_sound
      assumption
    · with_reducible apply Run.ladderUse_sound
      assumption
  · assumption

theorem execCvt_sound {a0 a1} (h1 : a1.Sound T) : OutSound T (execCvt a0 a1) := by
  unfold execCvt
  with_reducible apply issueAlu_sound
  assumption

theorem execPack_sound {a0 a1} (h1 : a1.Sound T) : OutSound T (execPack a0 a1) := by
  unfold execPack
  with_reducible apply issueAlu_sound
  assumption

theorem execPrm_sound {a0 a1} (h1 : a1.Sound T) : OutSound T (execPrm a0 a1) := by
  unfold execPrm
  with_reducible apply issueAlu_sound
  assumption

theorem execDot2_sound {a0 a1} (h1 : a1.Sound T) : OutSound T (execDot2 a0 a1) := by
  unfold execDot2
  with_reducible apply issueDot_sound
  assumption

theorem execDot4_sound {a0 a1} (h1 : a1.Sound T) : OutSound T (execDot4 a0 a1) := by
  unfold execDot4
  with_reducible apply issueDot_sound
  assumption

theorem execDot8_sound {a0 a1} (h1 : a1.Sound T) : OutSound T (execDot8 a0 a1) := by
  unfold execDot8
  with_reducible apply issueDot_sound
  assumption

theorem execLcdec_sound {a0 a1} (h1 : a1.Sound T) : OutSound T (execLcdec a0 a1) := by
  unfold execLcdec
  with_reducible apply issueAlu_sound
  assumption

/-! `Machine/Exchange.lean` -/

theorem readA_sound {a0 a1 a2 a3} (h2 : a2.s.Sound T) : ((readA a0 a1 a2 a3).1).s.Sound T := by
  unfold readA
  split
  · with_reducible apply Run.read_sound
    assumption
  · assumption

theorem readB_sound {a0 a1 a2 a3} (h2 : a2.s.Sound T) : ((readB a0 a1 a2 a3).1).s.Sound T := by
  unfold readB
  split
  · with_reducible apply Run.read_sound
    assumption
  · assumption

theorem readAB_sound {a0 a1 a2 a3} (h2 : a2.s.Sound T) : ((readAB a0 a1 a2 a3).1).s.Sound T := by
  unfold readAB
  extract_lets ra rb
  have hra : ra.1.s.Sound T := by
    unfold ra
    with_reducible apply readA_sound
    assumption
  have hrb : rb.1.s.Sound T := by
    unfold rb
    split
    · with_reducible apply readB_sound
      assumption
    · assumption
  clear_value ra rb
  assumption

theorem gather_sound {a0 a1 a2 a3} (h3 : a3.s.Sound T) : (gather a0 a1 a2 a3).1.s.Sound T := by
  induction a2 generalizing a0 a1 a3 h3 with
  | nil =>
    unfold gather
    dsimp only
    assumption
  | cons x r ih =>
    unfold gather
    dsimp only
    split
    · apply ih
      with_reducible apply readAB_sound
      assumption
    · apply ih
      assumption
    · assumption
    · assumption

theorem iterate_sound {a0 a1 a2 a3 a4 a5 a6 a7} (h7 : a7.s.Sound T) : (iterate a0 a1 a2 a3 a4 a5 a6 a7).s.Sound T := by
  induction a5 generalizing a0 a1 a2 a3 a4 a6 a7 h7 with
  | nil =>
    unfold iterate
    assumption
  | cons x r ih =>
    unfold iterate
    dsimp only
    split
    · apply ih
      with_reducible apply Run.flags_sound
      with_reducible apply Run.write_sound
      assumption
    · apply ih
      assumption
    · assumption
    · assumption

theorem Run.exchWait_sound {a0 a1} (h0 : a0.s.Sound T) (h1 : a1.s.Sound T) : (Run.exchWait a0 a1).s.Sound T := by
  unfold Run.exchWait
  split
  · dsimp only
    split
    · assumption
    · assumption
  · assumption

theorem issueExchange_sound {a0 a1 a2 a3 a4} (h4 : a4.Sound T) : OutSound T (issueExchange a0 a1 a2 a3 a4) := by
  unfold issueExchange
  with_reducible apply issue_sound
  · intro _ _
    extract_lets x
    have hx : x.1.s.Sound T := by
      unfold x
      with_reducible apply gather_sound
      assumption
    clear_value x
    with_reducible apply Run.exchWait_sound
    · assumption
    · split
      · with_reducible apply iterate_sound
        assumption
      · assumption
  · assumption

theorem execXprev_sound {a0 a1} (h1 : a1.Sound T) : OutSound T (execXprev a0 a1) := by
  unfold execXprev
  with_reducible apply issueExchange_sound
  assumption

theorem execXnext_sound {a0 a1} (h1 : a1.Sound T) : OutSound T (execXnext a0 a1) := by
  unfold execXnext
  with_reducible apply issueExchange_sound
  assumption

theorem execXbcast_sound {a0 a1} (h1 : a1.Sound T) : OutSound T (execXbcast a0 a1) := by
  unfold execXbcast
  with_reducible apply issueExchange_sound
  assumption

theorem execXscan_sound {a0 a1} (h1 : a1.Sound T) : OutSound T (execXscan a0 a1) := by
  unfold execXscan
  with_reducible apply issueExchange_sound
  assumption

theorem execXred_sound {a0 a1} (h1 : a1.Sound T) : OutSound T (execXred a0 a1) := by
  unfold execXred
  with_reducible apply issue_sound
  · intro _ _
    extract_lets x
    have hx : x.1.s.Sound T := by
      unfold x
      with_reducible apply gather_sound
      assumption
    clear_value x
    with_reducible apply Run.exchWait_sound
    · assumption
    · split
      · with_reducible apply iterate_sound
        assumption
      · assumption
  · assumption

theorem execBallot_sound {a0 a1} (h1 : a1.Sound T) : OutSound T (execBallot a0 a1) := by
  unfold execBallot
  with_reducible apply issueExchange_sound
  assumption

theorem execVote_sound {a0 a1} (h1 : a1.Sound T) : OutSound T (execVote a0 a1) := by
  unfold execVote
  with_reducible apply issueExchange_sound
  assumption

theorem execXmatch_sound {a0 a1} (h1 : a1.Sound T) : OutSound T (execXmatch a0 a1) := by
  unfold execXmatch
  with_reducible apply issueExchange_sound
  assumption

theorem execTidx_sound {a0 a1} (h1 : a1.Sound T) : OutSound T (execTidx a0 a1) := by
  unfold execTidx
  with_reducible apply issue_sound
  · intro _ _
    with_reducible apply runUnits_sound
    · intro _ _ _
      with_reducible apply Run.write_sound
      assumption
    · assumption
  · assumption

theorem execActc_sound {a0 a1} (h1 : a1.Sound T) : OutSound T (execActc a0 a1) := by
  unfold execActc
  dsimp only
  with_reducible apply issue_sound
  · intro _ _
    with_reducible apply runUnits_sound
    · intro _ _ _
      with_reducible apply Run.write_sound
      assumption
    · assumption
  · assumption

theorem Run.sendTo_sound {a0 a1 a2 a3} (h0 : a0.s.Sound T) : (Run.sendTo a0 a1 a2 a3).s.Sound T := by
  unfold Run.sendTo
  split
  · split
    · with_reducible apply Run.stall_sound
      assumption
    · assumption
  · split
    · assumption
    · split
      · with_reducible apply Run.stall_sound
        assumption
      · with_reducible apply State.putWg_sound
        assumption

theorem nsendUnit_sound {a0 a1 a2} (h1 : a1.s.Sound T) : (nsendUnit a0 a1 a2).s.Sound T := by
  unfold nsendUnit
  dsimp only
  split
  · with_reducible apply Run.fatal_sound
    assumption
  · split
    · with_reducible apply Run.fatal_sound
      assumption
    · split
      · with_reducible apply Run.sendTo_sound
        with_reducible apply Run.read_sound
        assumption
      · with_reducible apply Run.read_sound
        assumption

theorem execNsend_sound {a0 a1} (h1 : a1.Sound T) : OutSound T (execNsend a0 a1) := by
  unfold execNsend
  with_reducible apply issue_sound
  · intro _ _
    extract_lets body
    have hbody : ∀ b0, (b0.s.Sound T) → (body b0).s.Sound T := by
      intro _ _
      unfold body
      with_reducible apply runUnits_sound
      · intro _ _ _
        with_reducible apply nsendUnit_sound
        assumption
      · assumption
    clear_value body
    split
    · with_reducible apply Run.released_sound
      · assumption
      · intro _ _
        apply hbody
        split
        · assumption
        · dsimp only
          with_reducible apply State.release_sound
          assumption
    · apply hbody
      assumption
  · assumption

theorem nrecvUnit_sound {a0 a1 a2} (h1 : a1.s.Sound T) : (nrecvUnit a0 a1 a2).s.Sound T := by
  unfold nrecvUnit
  dsimp only
  split
  · assumption
  · split
    · dsimp only
      with_reducible apply State.acquire_sound
      with_reducible apply Run.write_sound
      assumption
    · with_reducible apply Run.write_sound
      assumption

theorem execNrecv_sound {a0 a1} (h1 : a1.Sound T) : OutSound T (execNrecv a0 a1) := by
  unfold execNrecv
  with_reducible apply issueUnits_sound
  · intro _ _ _
    with_reducible apply nrecvUnit_sound
    assumption
  · assumption

/-! `Machine/Native.lean` -/

/-- A meaning keeps soundness. -/
def Means (T : Nat) (f : Enc → State → Host.Outcome State Fault Refusal) : Prop := ∀ e s, s.Sound T → OutSound T (f e s)

theorem look_means {k : Nat} {f} : ∀ {l : List (Nat × (Enc → State → Host.Outcome State Fault Refusal))},
    (∀ p ∈ l, Means T p.2) → Legal.look k l = some f → Means T f
  | [], _, h => by simp [Legal.look] at h
  | (n, x) :: r, hl, h => by
    unfold Legal.look at h
    split at h
    · injection h with h; subst h; exact hl _ (List.mem_cons_self ..)
    · exact look_means (fun p hp => hl p (List.mem_cons_of_mem _ hp)) h

theorem meansInt_sound : ∀ p ∈ meansInt, Means T p.2 := by
  simp only [meansInt, List.forall_mem_cons]
  exact ⟨fun _ _ h => execMov_sound h, fun _ _ h => execMov_sound h, fun _ _ h => execAdd_sound h, fun _ _ h => execSub_sound h, fun _ _ h =>
    execAddc_sound h, fun _ _ h => execSubb_sound h, fun _ _ h => execMul_sound h, fun _ _ h => execMulhi_sound h, fun _
    _ h => execMad_sound h, fun _ _ h => execMadhi_sound h, fun _ _ h => execDiv_sound h, fun _ _ h => execRem_sound h,
    fun _ _ h => execNeg_sound h, fun _ _ h => execAbs_sound h, fun _ _ h => execMin_sound h, fun _ _ h => execMax_sound
    h, fun _ _ h => execClamp_sound h, fun _ _ h => execSad_sound h, fun _ _ h => execAnd_sound h, fun _ _ h =>
    execOr_sound h, fun _ _ h => execXor_sound h, fun _ _ h => execNot_sound h, fun _ _ h => execAndn_sound h, fun _ _ h
    => execShl_sound h, fun _ _ h => execShr_sound h, fun _ _ h => execSar_sound h, fun _ _ h => execRotl_sound h, fun _
    _ h => execRotr_sound h, fun _ _ h => execClz_sound h, fun _ _ h => execCtz_sound h, fun _ _ h => execPopc_sound h,
    fun _ _ h => execBrev_sound h, fun _ _ h => execBfe_sound h, fun _ _ h => execBfi_sound h, fun _ _ h =>
    execSel_sound h, fun _ _ h => execSetp_sound h, fun _ _ h => execLea_sound h, by simp⟩

theorem meansFloat_sound : ∀ p ∈ meansFloat, Means T p.2 := by
  simp only [meansFloat, List.forall_mem_cons]
  exact ⟨fun _ _ h => execFadd_sound h, fun _ _ h => execFsub_sound h, fun _ _ h => execFmul_sound h, fun _ _ h =>
    execFma_sound h, fun _ _ h => execFmin_sound h, fun _ _ h => execFmax_sound h, fun _ _ h => execFabs_sound h, fun _
    _ h => execFneg_sound h, fun _ _ h => execFsgn_sound h, fun _ _ h => execFsetp_sound h, fun _ _ h =>
    execFclass_sound h, fun _ _ h => execFrnd_sound h, fun _ _ h => execFrcp_sound h, fun _ _ h => execFrsq_sound h, fun
    _ _ h => execFsqrt_sound h, fun _ _ h => execFdiv_sound h, fun _ _ h => execFexp2_sound h, fun _ _ h =>
    execFlog2_sound h, fun _ _ h => execFsin_sound h, fun _ _ h => execFcos_sound h, fun _ _ h => execFtanh_sound h, fun
    _ _ h => execFscale_sound h, fun _ _ h => execFexpo_sound h, fun _ _ h => execFrcpa_sound h, fun _ _ h =>
    execCvt_sound h, fun _ _ h => execPack_sound h, fun _ _ h => execPrm_sound h, fun _ _ h => execDot2_sound h, fun _ _
    h => execDot4_sound h, fun _ _ h => execDot8_sound h, fun _ _ h => execLcdec_sound h, by simp⟩

theorem meansCtl_sound : ∀ p ∈ meansCtl, Means T p.2 := by
  simp only [meansCtl, List.forall_mem_cons]
  exact ⟨fun _ _ h => execBrx_sound h, fun _ _ h => execCallx_sound h, fun _ _ h => execRet_sound h, fun _ _ h =>
    execExit_sound h, fun _ _ h => execYield_sound h, fun _ _ h => execReconv_sound h, fun _ _ h => execRjoin_sound h,
    fun _ _ h => execMpush_sound h, fun _ _ h => execMinv_sound h, fun _ _ h => execMpop_sound h, fun _ _ h =>
    execDqpop_sound h, fun _ _ h => execNop_sound h, fun _ _ h => execBrk_sound h, fun _ _ h => execTrap_sound h, fun _
    _ h => execXprev_sound h, fun _ _ h => execXnext_sound h, fun _ _ h => execXbcast_sound h, fun _ _ h =>
    execXscan_sound h, fun _ _ h => execXred_sound h, fun _ _ h => execBallot_sound h, fun _ _ h => execVote_sound h,
    fun _ _ h => execXmatch_sound h, fun _ _ h => execTidx_sound h, fun _ _ h => execActc_sound h, by simp⟩

theorem meansLs_sound : ∀ p ∈ meansLs, Means T p.2 := by
  simp only [meansLs, List.forall_mem_cons]
  exact ⟨fun _ _ h => execLd_sound h, fun _ _ h => execSt_sound h, fun _ _ h => execLdg_sound h, fun _ _ h =>
    execStsc_sound h, fun _ _ h => execCst_sound h, fun _ _ h => execExl_sound h, fun _ _ h => execAtom_sound h, fun _ _
    h => execRed_sound h, fun _ _ h => execFence_sound h, fun _ _ h => execPf_sound h, fun _ _ h => execCinv_sound h,
    fun _ _ h => execCwb_sound h, fun _ _ h => execSbind_sound h, fun _ _ h => execSclose_sound h, by simp⟩

theorem meansEngine_sound : ∀ p ∈ meansEngine, Means T p.2 := by
  simp only [meansEngine, List.forall_mem_cons]
  exact ⟨fun _ _ h => execCpy_sound h, fun _ _ h => execCpyt_sound h, fun _ _ h => execCpyg_sound h, fun _ _ h =>
    execRingpush_sound h, fun _ _ h => execKvpatch_sound h, fun _ _ h => execRerot_sound h, fun _ _ h => execCwait_sound
    h, fun _ _ h => execCstat_sound h, fun _ _ h => execFmt_sound h, fun _ _ h => execNestw_sound h, fun _ _ h =>
    execPgo_sound h, fun _ _ h => execPwait_sound h, fun _ _ h => execPstat_sound h, fun _ _ h => execVclr_sound h, fun
    _ _ h => execVld_sound h, fun _ _ h => execVst_sound h, fun _ _ h => execVacc_sound h, fun _ _ h =>
    execRinginit_sound h, fun _ _ h => execRingstat_sound h, fun _ _ h => execBinit_sound h, fun _ _ h => execBarr_sound
    h, fun _ _ h => execBwait_sound h, fun _ _ h => execBsync_sound h, fun _ _ h => execBlink_sound h, fun _ _ h =>
    execBinv_sound h, fun _ _ h => execBtest_sound h, fun _ _ h => execSrd_sound h, fun _ _ h => execSwr_sound h, fun _
    _ h => execClk_sound h, fun _ _ h => execNsend_sound h, fun _ _ h => execNrecv_sound h, fun _ _ h => execRpart_sound
    h, fun _ _ h => execWdraw_sound h, fun _ _ h => execProf_sound h, fun _ _ h => execHalt_sound h, fun _ _ h =>
    execSleep_sound h, by simp⟩

theorem meansOf_sound {op : Nat} {f} (h : meansOf op = some f) : Means T f := by
  unfold meansOf at h
  split at h
  · exact look_means meansInt_sound h
  · split at h
    · exact look_means meansFloat_sound h
    · split at h
      · exact look_means meansCtl_sound h
      · split at h
        · exact look_means meansLs_sound h
        · exact look_means meansEngine_sound h

theorem Run.feedPop_sound {a0} (h0 : a0.s.Sound T) : (Run.feedPop a0).1.s.Sound T := by
  unfold Run.feedPop
  dsimp only
  split
  · assumption
  · split
    · with_reducible apply Run.stall_sound
      assumption
    · assumption

theorem Run.moveRead_sound {a0 a1 a2 a3 a4} (h0 : a0.s.Sound T) : (Run.moveRead a0 a1 a2 a3 a4).1.s.Sound T := by
  unfold Run.moveRead
  dsimp only
  split
  · assumption
  · split
    · assumption
    · split
      · with_reducible apply Run.streamRead_sound
        assumption
      · split
        · with_reducible apply Run.feedPop_sound
          assumption
        · split
          · assumption
          · split
            · assumption
            · split
              · assumption
              · assumption

theorem Run.moveTo_sound {a0 a1 a2 a3 a4} (h0 : a0.s.Sound T) : (Run.moveTo a0 a1 a2 a3 a4).s.Sound T := by
  unfold Run.moveTo
  dsimp only
  split
  · split
    · assumption
    · assumption
  · split
    · assumption
    · split
      · with_reducible apply Run.streamWrite_sound
        assumption
      · split
        · split
          · assumption
          · assumption
        · split
          · assumption
          · assumption

theorem readStage_sound {a0 a1 a2 a3 a4} (h4 : a4.s.Sound T) : (readStage a0 a1 a2 a3 a4).1.s.Sound T := by
  induction a3 generalizing a0 a1 a2 a4 h4 with
  | nil =>
    unfold readStage
    dsimp only
    assumption
  | cons x r ih =>
    unfold readStage
    dsimp only
    split
    · apply ih
      assumption
    · split
      · with_reducible apply Run.moveRead_sound
        assumption
      · apply ih
        with_reducible apply Run.moveRead_sound
        assumption

theorem deliver_sound {a0 a1 a2 a3} (h3 : a3.s.Sound T) : (deliver a0 a1 a2 a3).s.Sound T := by
  induction a2 generalizing a0 a1 a3 h3 with
  | nil =>
    unfold deliver
    assumption
  | cons x r ih =>
    unfold deliver
    dsimp only
    split
    · with_reducible apply Run.moveTo_sound
      assumption
    · apply ih
      with_reducible apply Run.moveTo_sound
      assumption

theorem Run.trigger_sound {a0 a1 a2 a3 a4 a5} (h0 : a0.s.Sound T) : (Run.trigger a0 a1 a2 a3 a4 a5).s.Sound T := by
  unfold Run.trigger
  dsimp only
  split
  · with_reducible apply Run.fatal_sound
    assumption
  · split
    · with_reducible apply Run.fatal_sound
      assumption
    · assumption

theorem triggerAll_sound {a0 a1 a2 a3 a4 a5} (h5 : a5.s.Sound T) : (triggerAll a0 a1 a2 a3 a4 a5).s.Sound T := by
  induction a4 generalizing a0 a1 a2 a3 a5 h5 with
  | nil =>
    unfold triggerAll
    assumption
  | cons x r ih =>
    unfold triggerAll
    dsimp only
    split
    · apply ih
      assumption
    · split
      · with_reducible apply Run.trigger_sound
        assumption
      · apply ih
        with_reducible apply Run.trigger_sound
        assumption

theorem bundleUnit_sound {a0 a1 a2 a3 a4 a5} (h4 : a4.s.Sound T) : (bundleUnit a0 a1 a2 a3 a4 a5).s.Sound T := by
  unfold bundleUnit
  dsimp only
  split
  · with_reducible apply readStage_sound
    assumption
  · split
    · with_reducible apply deliver_sound
      with_reducible apply readStage_sound
      assumption
    · with_reducible apply triggerAll_sound
      with_reducible apply deliver_sound
      with_reducible apply readStage_sound
      assumption

theorem runOf_sound {a0 a1 a2 a3} (h0 : a0.Sound T) : (runOf a0 a1 a2 a3).s.Sound T := by
  unfold runOf
  dsimp only
  assumption

theorem State.aliasDrop_sound {a0 a1 a2 a3} (h0 : a0.Sound T) : (State.aliasDrop a0 a1 a2 a3).Sound T := by
  unfold State.aliasDrop
  dsimp only [State.Sound]
  apply State.Sound.fold
  assumption

theorem State.rollback_sound {a0 a1 a2} (h0 : a0.Sound T) : (State.rollback a0 a1 a2).Sound T := by
  unfold State.rollback
  dsimp only
  split
  · with_reducible apply State.countRollback_sound
    with_reducible apply State.aliasDrop_sound
    with_reducible apply State.modTeam_sound
    assumption
  · with_reducible apply State.modTeam_sound
    assumption

theorem aliasStep_sound {a0 a1 a2} (h0 : a0.Sound T) (h1 : a1.s.Sound T) : (aliasStep a0 a1 a2).1.Sound T := by
  unfold aliasStep
  dsimp only
  split
  · split
    · assumption
    · with_reducible apply State.modCore_sound
      assumption
  · split
    · split
      · assumption
      · assumption
    · assumption

theorem State.runUnit_sound {a0 a1 a2 a3 a4 a5} (h0 : a0.Sound T) : (State.runUnit a0 a1 a2 a3 a4 a5).Sound T := by
  unfold State.runUnit
  extract_lets x n s1 out
  have hx : x.1.Sound T := by
    unfold x
    split
    · exact aliasStep_sound h0 (runOf_sound h0)
    · exact h0
  have h1 : s1.Sound T := State.modTeam_sound hx
  have ho : OutSound T out := by
    unfold out
    split
    · rename_i f e; exact meansOf_sound e _ _ h1
    · exact h1
  clear_value x n s1 out
  cases out with
  | fault _ => exact h1
  | refused _ => exact h1
  | next s2 =>
    dsimp only
    cases s2.teamOf a1.uid a2.tix with
    | none => exact ho
    | some t2 => exact ite_sound (State.rollback_sound (State.modTeam_sound ho)) (State.modTeam_sound ho)

theorem ctlTransfer_sound {a0 a1 a2 a3 f} (h : ctlTransfer a0 a1 a2 a3 = some f) {s : State} (hs : s.Sound T) : OutSound T (f s) := by
  unfold ctlTransfer at h
  split at h
  · injection h with h; subst h
    refine issue_sound (fun r hr => runUnits_sound (fun r i hr => Run.goto_sound hr) hr) hs
  · split at h
    · injection h with h; subst h
      refine issue_sound (fun r hr => runUnits_sound (fun r i hr => ?_) hr) hs
      have hp : ((r.pushRet i (nextClause a0 r.pc)).s).Sound T := Run.pushRet_sound hr
      dsimp only
      split
      · exact Run.goto_sound hp
      · exact hp
    · split at h
      · injection h with h; subst h
        refine issue_sound (fun r hr => teamInstr_sound hr (fun r hr => ?_)) hs
        split
        · exact Run.gotoAll_sound hr
        · exact hr
      · split at h
        · injection h with h; subst h
          refine issue_sound (fun r hr => teamInstr_sound hr (fun r hr => ?_)) hs
          dsimp only
          split
          · exact Run.stackFault_sound hr
          · split
            · exact Run.gotoAll_sound hr
            · exact hr
        · split at h
          · injection h with h; subst h
            refine issue_sound (fun r hr => teamInstr_sound hr (fun r hr => ?_)) hs
            split
            · exact Run.stackFault_sound hr
            · split
              · exact Run.gotoAll_sound hr
              · exact hr
          · cases h

theorem execPdirOn_sound {a0} (h0 : a0.Sound T) : OutSound T (execPdirOn a0) := by
  unfold execPdirOn
  dsimp only
  with_reducible apply issue_sound
  · intro _ _
    with_reducible apply onceFirst_sound
    · intro _ _ _
      split
      · split
        · assumption
        · with_reducible apply Run.stall_sound
          assumption
      · split
        · with_reducible apply State.modCore_sound
          assumption
        · with_reducible apply Run.stall_sound
          assumption
    · assumption
  · assumption

theorem execPdirMt_sound {a0 a1 a2 a3} (h3 : a3.Sound T) : OutSound T (execPdirMt a0 a1 a2 a3) := by
  unfold execPdirMt
  dsimp only
  with_reducible apply issue_sound
  · intro _ _
    with_reducible apply Run.released_sound
    · assumption
    · intro _ _
      with_reducible apply onceFirst_sound
      · intro _ _ _
        split
        · with_reducible apply Run.fatal_sound
          assumption
        · split
          · with_reducible apply Run.fatal_sound
            assumption
          · split
            · with_reducible apply Run.fatal_sound
              assumption
            · split
              · with_reducible apply Run.fatal_sound
                assumption
              · split
                · with_reducible apply Run.fatal_sound
                  assumption
                · with_reducible apply State.modCore_sound
                  assumption
      · assumption
  · assumption

theorem execPdirOff_sound {a0} (h0 : a0.Sound T) : OutSound T (execPdirOff a0) := by
  unfold execPdirOff
  with_reducible apply issue_sound
  · intro _ _
    with_reducible apply onceFirst_sound
    · intro _ _ _
      split
      · assumption
      · split
        · with_reducible apply Run.stall_sound
          assumption
        · with_reducible apply State.modCore_sound
          assumption
    · assumption
  · assumption

theorem State.directRetire_sound {a0 a1} (h0 : a0.Sound T) : (State.directRetire a0 a1).Sound T := by
  unfold State.directRetire
  dsimp only
  split
  · assumption
  · split
    · assumption
    · split
      · with_reducible apply State.modCore_sound
        assumption
      · split
        · with_reducible apply State.modTeam_sound
          with_reducible apply State.modCore_sound
          assumption
        · with_reducible apply State.modTeam_sound
          with_reducible apply State.putWg_sound
          with_reducible apply State.modCore_sound
          assumption

theorem execMicrotileRetire_sound {a0 a1 a2} (h2 : a2.Sound T) : OutSound T (execMicrotileRetire a0 a1 a2) := by
  unfold execMicrotileRetire
  apply next_sound
  split
  · with_reducible apply State.directRetire_sound
    assumption
  · with_reducible apply State.opRetire_sound
    assumption

theorem State.exitFaulted_sound {a0 a1 a2 a3 a4} (h0 : a0.Sound T) : (State.exitFaulted a0 a1 a2 a3 a4).Sound T := by
  unfold State.exitFaulted
  split
  · with_reducible apply State.teamFatal_sound
    assumption
  · with_reducible apply State.modTeam_sound
    assumption

theorem ctlMeans_sound {a0 a1 a2 a3 a4 f} (h : ctlMeans a0 a1 a2 a3 a4 = some f) {s : State} (hs : s.Sound T) : OutSound T (f s) := by
  unfold ctlMeans at h
  split at h
  · split at h
    · injection h with h; subst h; exact execPdirOn_sound hs
    · split at h
      · split at h
        · injection h with h; subst h; exact execPdirMt_sound hs
        · cases h
      · injection h with h; subst h; exact execPdirOff_sound hs
  · split at h
    · rename_i e; injection h with h; subst h; exact ctlTransfer_sound e hs
    · cases hm : meansOf a1 with
      | none => rw [hm] at h; cases h
      | some g =>
        rw [hm] at h
        injection h with h; subst h
        exact meansOf_sound hm _ _ hs

theorem State.runCtl_sound {a0 a1 a2 a3 a4 a5 a6} (h0 : a0.Sound T) : (State.runCtl a0 a1 a2 a3 a4 a5 a6).Sound T := by
  unfold State.runCtl
  extract_lets uni first f0 bad now done
  have hb : bad.Sound T := State.teamFatal_sound h0
  have hd : done.Sound T := State.modTeam_sound h0
  clear_value bad done now
  split
  · exact hb
  · extract_lets e0 e
    split
    · exact hb
    · rename_i f hf
      have hf : ∀ s : State, s.Sound T → OutSound T (f s) := by
        split at hf
        · exact fun s hs => ctlMeans_sound hf hs
        · cases hf
      split
      · exact hd
      · split
        · exact State.modTeam_sound hd
        · split
          · exact State.rollback_sound h0
          · split
            · exact State.exitFaulted_sound h0
            · split
              · rename_i s2 h2
                have hs2 := next_of h2 (hf _ (State.modTeam_sound h0))
                split
                · exact hs2
                · exact State.modTeam_sound hs2
              · exact h0

theorem State.threadMoves_sound {a0 a1 a2 a3 a4 a5 a6} (h0 : a0.Sound T) : (State.threadMoves a0 a1 a2 a3 a4 a5 a6).Sound T := by
  unfold State.threadMoves
  dsimp only
  split
  · split
    · split
      · split
        · with_reducible apply State.rollback_sound
          assumption
        · split
          · with_reducible apply State.teamFatal_sound
            with_reducible apply Run.sync_sound
            with_reducible apply bundleUnit_sound
            assumption
          · with_reducible apply State.modTeam_sound
            split
            · assumption
            · assumption
          · with_reducible apply State.modTeam_sound
            assumption
          · split
            · with_reducible apply State.modTeam_sound
              assumption
            · with_reducible apply Run.sync_sound
              dsimp only
              with_reducible apply bundleUnit_sound
              assumption
      · split
        · with_reducible apply State.rollback_sound
          assumption
        · split
          · with_reducible apply State.teamFatal_sound
            with_reducible apply Run.sync_sound
            with_reducible apply bundleUnit_sound
            assumption
          · with_reducible apply State.modTeam_sound
            split
            · assumption
            · assumption
          · with_reducible apply State.modTeam_sound
            assumption
          · split
            · with_reducible apply State.modTeam_sound
              assumption
            · with_reducible apply Run.sync_sound
              dsimp only
              with_reducible apply bundleUnit_sound
              assumption
    · split
      · with_reducible apply State.rollback_sound
        assumption
      · split
        · with_reducible apply State.teamFatal_sound
          with_reducible apply Run.sync_sound
          with_reducible apply bundleUnit_sound
          assumption
        · with_reducible apply State.modTeam_sound
          split
          · assumption
          · assumption
        · with_reducible apply State.modTeam_sound
          assumption
        · split
          · with_reducible apply State.modTeam_sound
            assumption
          · with_reducible apply Run.sync_sound
            dsimp only
            with_reducible apply bundleUnit_sound
            assumption
  · split
    · split
      · split
        · with_reducible apply State.rollback_sound
          assumption
        · split
          · with_reducible apply State.teamFatal_sound
            with_reducible apply Run.sync_sound
            with_reducible apply bundleUnit_sound
            assumption
          · with_reducible apply State.modTeam_sound
            split
            · assumption
            · assumption
          · with_reducible apply State.modTeam_sound
            assumption
          · split
            · with_reducible apply State.modTeam_sound
              assumption
            · with_reducible apply Run.sync_sound
              dsimp only
              with_reducible apply bundleUnit_sound
              assumption
      · split
        · with_reducible apply State.rollback_sound
          assumption
        · split
          · with_reducible apply State.teamFatal_sound
            with_reducible apply Run.sync_sound
            with_reducible apply bundleUnit_sound
            assumption
          · with_reducible apply State.modTeam_sound
            split
            · assumption
            · assumption
          · with_reducible apply State.modTeam_sound
            assumption
          · split
            · with_reducible apply State.modTeam_sound
              assumption
            · with_reducible apply Run.sync_sound
              dsimp only
              with_reducible apply bundleUnit_sound
              assumption
    · split
      · with_reducible apply State.rollback_sound
        assumption
      · split
        · with_reducible apply State.teamFatal_sound
          with_reducible apply Run.sync_sound
          with_reducible apply bundleUnit_sound
          assumption
        · with_reducible apply State.modTeam_sound
          split
          · assumption
          · assumption
        · with_reducible apply State.modTeam_sound
          assumption
        · split
          · with_reducible apply State.modTeam_sound
            assumption
          · with_reducible apply Run.sync_sound
            dsimp only
            with_reducible apply bundleUnit_sound
            assumption

theorem bundleGo_sound {a0 a1 a2 a3 a4 a5 a6} (h6 : a6.Sound T) : (bundleGo a0 a1 a2 a3 a4 a5 a6).Sound T := by
  induction a5 generalizing a6 with
  | zero => exact h6
  | succ k ih =>
    unfold bundleGo
    split
    · exact h6
    · split
      · exact h6
      · split
        · exact ih (State.runUnit_sound h6)
        · exact ih (State.runCtl_sound h6)
        · exact ih (State.threadMoves_sound h6)
        · split
          · exact ih (State.modTeam_sound h6)
          · split
            · exact ih (State.modTeam_sound h6)
            · exact State.modTeam_sound h6

theorem State.deliverDue_sound {a0 a1 a2 a3 a4} (h0 : a0.Sound T) : (State.deliverDue a0 a1 a2 a3 a4).Sound T := by
  unfold State.deliverDue
  dsimp only
  split
  · with_reducible apply State.teamFatal_sound
    assumption
  · with_reducible apply State.aliasDrop_sound
    with_reducible apply State.modTeam_sound
    assumption

theorem State.regainDirect_sound {a0 a1 a2 a3} (h0 : a0.Sound T) : (State.regainDirect a0 a1 a2 a3).Sound T := by
  unfold State.regainDirect
  with_reducible apply State.modTeam_sound
  assumption

theorem State.enterClause_sound {a0 a1 a2 a3 a4} (h0 : a0.Sound T) : (State.enterClause a0 a1 a2 a3 a4).Sound T := by
  unfold State.enterClause
  extract_lets s0 s1 s2
  have hs0 : s0.Sound T := by
    assumption
  have hs1 : s1.Sound T := by
    unfold s1
    with_reducible apply State.modTeam_sound
    assumption
  have hs2 : s2.Sound T := by
    unfold s2
    split
    · with_reducible apply State.regainDirect_sound
      assumption
    · assumption
  clear_value s0 s1 s2
  split
  · assumption
  · assumption

theorem execClauseStart_sound {a0 a1} (h1 : a1.Sound T) : OutSound T (execClauseStart a0 a1) := by
  unfold execClauseStart
  split
  · apply fault_sound
  · split
    · apply fault_sound
    · dsimp only
      split
      · apply next_sound
        with_reducible apply State.modTeam_sound
        assumption
      · split
        · apply next_sound
          with_reducible apply State.modTeam_sound
          assumption
        · split
          · apply next_sound
            with_reducible apply State.deliverDue_sound
            assumption
          · split
            · apply next_sound
              with_reducible apply State.haltTeam_sound
              assumption
            · split
              · apply next_sound
                split
                · with_reducible apply State.teamFatal_sound
                  assumption
                · with_reducible apply State.enterClause_sound
                  assumption
              · apply next_sound
                with_reducible apply State.enterClause_sound
                assumption

theorem State.beginBundle_sound {a0 a1 a2 a3 a4} (h0 : a0.Sound T) : (State.beginBundle a0 a1 a2 a3 a4).Sound T := by
  unfold State.beginBundle
  extract_lets s1
  have hs1 : s1.Sound T := by
    unfold s1
    with_reducible apply State.modTeam_sound
    assumption
  clear_value s1
  split
  · assumption
  · assumption

theorem execBundleIssue_sound {a0 a1} (h1 : a1.Sound T) : OutSound T (execBundleIssue a0 a1) := by
  unfold execBundleIssue
  split
  · apply fault_sound
  · split
    · apply fault_sound
    · split
      · apply next_sound
        with_reducible apply State.teamFatal_sound
        assumption
      · extract_lets s1
        have hs1 : s1.Sound T := by
          unfold s1
          split
          · assumption
          · with_reducible apply State.enterClause_sound
            assumption
        clear_value s1
        split
        · assumption
        · extract_lets s2
          have hs2 : s2.Sound T := by
            unfold s2
            split
            · with_reducible apply State.modTeam_sound
              assumption
            · with_reducible apply State.beginBundle_sound
              assumption
          clear_value s2
          apply next_sound
          with_reducible apply bundleGo_sound
          assumption

theorem execLongLatencyComplete_sound {a0 a1 a2 a3} (h3 : a3.Sound T) : OutSound T (execLongLatencyComplete a0 a1 a2 a3) := by
  unfold execLongLatencyComplete
  apply next_sound
  split
  · assumption
  · split
    · assumption
    · split
      · assumption
      · extract_lets s1
        have hs1 : s1.Sound T := by
          unfold s1
          with_reducible apply State.modTeam_sound
          assumption
        clear_value s1
        split
        · with_reducible apply State.acquire_sound
          assumption
        · assumption

end Sys2Proof.Machine
end

