-- ==== Sys2Proof/Laws/SoundWorld.lean ====
section
/-! SUPPORT. Each function of these files keeps soundness: loading, placement, contexts, pages, the link, the host and the choice of what comes next. -/
namespace Sys2Proof.Machine

variable {T : Nat}

/-! `Machine/Pool.lean` -/

theorem State.takeFrame_sound {a0 a1 a2} (h0 : a0.Sound T) : OptSound2 T (State.takeFrame a0 a1 a2) := by
  unfold State.takeFrame
  dsimp only
  split
  · exact none2_sound
  · split
    · exact none2_sound
    · refine some2_sound ?_
      with_reducible apply State.putCtx_sound
      with_reducible apply State.freeValue_sound
      assumption

theorem State.giveFrame_sound {a0 a1 a2 a3} (h0 : a0.Sound T) : (State.giveFrame a0 a1 a2 a3).Sound T := by
  unfold State.giveFrame
  split
  · assumption
  · with_reducible apply State.putCtx_sound
    assumption

theorem State.addTable_sound {a0 a1 a2} (h0 : a0.Sound T) : OptSound2 T (State.addTable a0 a1 a2) := by
  unfold State.addTable
  split
  · exact none2_sound
  · dsimp only
    split
    · exact some2_sound (State.putCtx_sound h0)
    · exact optBindPair2_sound (State.takeFrame_sound h0) (fun _ hy => optMapPair_sound (fun _ => State.putCtx_sound hy))

theorem State.setNext_sound {a0 a1 a2 a3 a4 a5} (h0 : a0.Sound T) : (State.setNext a0 a1 a2 a3 a4 a5).Sound T := by
  unfold State.setNext
  split
  · assumption
  · assumption

theorem growGo_sound {a0 a1 a2 a3 a4 a5} (h5 : a5.Sound T) : OptSound T (growGo a0 a1 a2 a3 a4 a5) := by
  induction a3 generalizing a4 a5 with
  | zero => exact h5
  | succ n ih =>
    unfold growGo
    split
    · exact h5
    · split
      · exact ih h5
      · exact optBindPair_sound (State.addTable_sound h5) (fun _ hy => ih (State.setNext_sound hy))

theorem State.growTree_sound {a0 a1 a2} (h0 : a0.Sound T) : OptSound T (State.growTree a0 a1 a2) := by
  unfold State.growTree
  split
  · with_reducible apply growGo_sound
    assumption
  · apply optBindPair_sound
    · with_reducible apply State.addTable_sound
      assumption
    · intro _ _
      with_reducible apply growGo_sound
      assumption

theorem State.mapPage_sound {a0 a1 a2} (h0 : a0.Sound T) : OptSound T (State.mapPage a0 a1 a2) := by
  unfold State.mapPage
  apply optBind_sound
  · with_reducible apply State.growTree_sound
    assumption
  · intro _ _
    apply optMap2_sound
    intro _
    assumption

theorem State.frameZero_sound {a0 a1 a2} (h0 : a0.Sound T) : (State.frameZero a0 a1 a2).Sound T :=
  h0.setDram (spWf_filter 0 _ h0.1)

theorem State.frameFlush_sound {a0 a1 a2} (h0 : a0.Sound T) : (State.frameFlush a0 a1 a2).Sound T := by
  unfold State.frameFlush
  apply foldl_sound
  · intro _ _ _
    with_reducible apply State.l1Clean_sound
    assumption
  · assumption

theorem State.dropFrame_sound {a0 a1 a2} (h0 : a0.Sound T) : (State.dropFrame a0 a1 a2).Sound T := by
  unfold State.dropFrame
  split
  · with_reducible apply State.giveFrame_sound
    assumption
  · assumption

theorem State.unmapLeaf_sound {a0 a1 a2} (h0 : a0.Sound T) : (State.unmapLeaf a0 a1 a2).Sound T := by
  unfold State.unmapLeaf
  split
  · assumption
  · with_reducible apply State.dropFrame_sound
    with_reducible apply State.tlbDrop_sound
    with_reducible apply State.putCtx_sound
    assumption

/-! `Machine/Kernel.lean` -/

theorem mapSection_sound {a0 a1 a2 a3 a4 a5 a6} (h6 : a6.Sound T) : OptSound T (mapSection a0 a1 a2 a3 a4 a5 a6) := by
  induction a3 generalizing a4 a5 a6 with
  | zero => exact h6
  | succ n ih =>
    unfold mapSection
    split
    · trivial
    · rename_i f s1 e
      have h1 : s1.Sound T := some2_of e (State.takeFrame_sound h6)
      have h2 := State.frameZero_sound (a1 := f) (a2 := 0) h1
      extract_lets s2 l
      split
      · trivial
      · rename_i e3
        refine ih (some_of e3 (State.mapPage_sound ?_))
        exact h2.setDram (spWf_spPut 0 _ _ h2.1)

theorem mapSections_sound {a0 a1 a2 a3} (h3 : a3.Sound T) : OptSound T (mapSections a0 a1 a2 a3) := by
  induction a2 generalizing a3 with
  | nil => exact h3
  | cons x r ih =>
    unfold mapSections
    exact optBind_sound (mapSection_sound h3) (fun _ h => ih h)

theorem State.loadFile_sound {a0 a1 a2} (h0 : a0.Sound T) : (State.loadFile a0 a1 a2).1.Sound T := by
  have h1 : a0.freeValue.2.Sound T := State.freeValue_sound h0
  unfold State.loadFile
  extract_lets no ss y s n w pl syms relas
  have hn : ∀ k, (no k).1.Sound T := fun _ => h0
  clear_value no ss w pl syms relas
  by_cases c1 : (!elfOk a2) = true
  · rw [if_pos c1]; exact hn _
  rw [if_neg c1]
  by_cases c2 : (!flagsOk a2) = true
  · rw [if_pos c2]; exact hn _
  rw [if_neg c2]
  by_cases c3 : (!sectionsOk a2 ss) = true
  · rw [if_pos c3]; exact hn _
  rw [if_neg c3]
  by_cases c4 : (!notesOk a2 ss) = true
  · rw [if_pos c4]; exact hn _
  rw [if_neg c4]
  by_cases c5 : (!declsOk a2 ss) = true
  · rw [if_pos c5]; exact hn _
  rw [if_neg c5]
  cases relocateAll (isNative a2) s a1 syms pl relas (pl.map (fun x => (x.1, x.2.2.1.bytes a2))) with
  | none => exact hn _
  | some im0 =>
    refine ite_fst_sound (hn _) (ite_fst_sound (hn _) (ite_fst_sound (hn _) ?_))
    split
    · exact hn _
    · rename_i e
      have h2 := some_of e (mapSections_sound h1)
      exact h2

theorem State.quarantine_sound {a0 a1 a2} (h0 : a0.Sound T) : (State.quarantine a0 a1 a2).Sound T := by
  unfold State.quarantine
  dsimp only
  split
  · assumption
  · apply foldl_sound
    · intro _ _ _
      split
      · with_reducible apply State.send_sound
        assumption
      · assumption
    · dsimp only [State.Sound]
      apply State.Sound.fold
      assumption

theorem State.demandPage_sound {a0 a1 a2} (h0 : a0.Sound T) : (State.demandPage a0 a1 a2).Sound T := by
  unfold State.demandPage
  dsimp only
  split
  · apply Demand.done_sound
    assumption
  · split
    · apply Demand.fatal_sound
      with_reducible apply State.fatal_sound
      assumption
    · apply Demand.fatal_sound
      with_reducible apply State.fatal_sound
      assumption
    · split
      · apply Demand.fatal_sound
        with_reducible apply State.fatal_sound
        refine Fw.bad_of (by assumption) ?_
        with_reducible apply State.fwRead_sound
        assumption
      · apply Demand.wait_sound
        refine Fw.wait_of (by assumption) ?_
        with_reducible apply State.fwRead_sound
        assumption
      · split
        · apply Demand.fatal_sound
          with_reducible apply State.fatal_sound
          refine Fw.ok_of (by assumption) ?_
          with_reducible apply State.fwRead_sound
          assumption
        · apply Demand.done_sound
          split
          · dsimp only [State.Sound]
            apply State.Sound.fold
            with_reducible apply State.fwClear_sound
            refine Fw.ok_of (by assumption) ?_
            with_reducible apply State.fwRead_sound
            assumption
          · with_reducible apply State.quarantine_sound
            dsimp only [State.Sound]
            apply State.Sound.fold
            with_reducible apply State.fwClear_sound
            refine Fw.ok_of (by assumption) ?_
            with_reducible apply State.fwRead_sound
            assumption

theorem State.demandPages_sound {a0 a1 a2} (h2 : a2.Sound T) : (State.demandPages a0 a1 a2).Sound T := by
  induction a1 generalizing a0 a2 h2 with
  | nil =>
    unfold State.demandPages
    apply Demand.done_sound
    assumption
  | cons x r ih =>
    unfold State.demandPages
    split
    · apply ih
      refine Demand.done_of (by assumption) ?_
      with_reducible apply State.demandPage_sound
      assumption
    · with_reducible apply State.demandPage_sound
      assumption

theorem State.failRequesters_sound {a0 a1 a2} (h0 : a0.Sound T) : (State.failRequesters a0 a1 a2).Sound T := by
  unfold State.failRequesters
  dsimp only
  apply foldl_sound
  · intro _ _ _
    with_reducible apply State.teamFatal_sound
    assumption
  · apply foldl_sound
    · intro _ _ _
      with_reducible apply State.nodeFatal_sound
      assumption
    · assumption

theorem State.endResolve_sound {a0 a1 a2} (h0 : a0.Sound T) : (State.endResolve a0 a1 a2).Sound T := by
  unfold State.endResolve
  dsimp only
  apply foldl_sound
  · intro _ _ _
    split
    · split
      · with_reducible apply State.bindLink_sound
        assumption
      · with_reducible apply State.putLink_sound
        assumption
    · assumption
  · assumption

theorem State.evictEntry_sound {a0 a1} (h0 : a0.Sound T) : (State.evictEntry a0 a1).Sound T := by
  unfold State.evictEntry
  dsimp only [State.Sound]
  apply State.Sound.fold
  assumption

theorem State.cellarRoom_sound {a0 a1} (h0 : a0.Sound T) : (State.cellarRoom a0 a1).Sound T := by
  unfold State.cellarRoom
  dsimp only
  split
  · split
    · with_reducible apply State.evictEntry_sound
      with_reducible apply State.freeValue_sound
      assumption
    · with_reducible apply State.freeValue_sound
      assumption
  · with_reducible apply State.freeValue_sound
    assumption

theorem State.entryDone_sound {a0 a1 a2} (h0 : a0.Sound T) : (State.entryDone a0 a1 a2).Sound T := by
  unfold State.entryDone
  dsimp only
  with_reducible apply State.cellarRoom_sound
  dsimp only [State.Sound]
  apply State.Sound.fold
  with_reducible apply State.endResolve_sound
  with_reducible apply State.putDir_sound
  with_reducible apply State.freeValue_sound
  assumption

theorem State.sharedEntry_sound {a0 a1 a2 a3} (h0 : a0.Sound T) : (State.sharedEntry a0 a1 a2 a3).Sound T := by
  unfold State.sharedEntry
  split
  · assumption
  · assumption

theorem State.entryFailed_sound {a0 a1 a2} (h0 : a0.Sound T) : (State.entryFailed a0 a1 a2).Sound T := by
  unfold State.entryFailed
  with_reducible apply State.failRequesters_sound
  with_reducible apply State.endResolve_sound
  with_reducible apply State.putDir_sound
  assumption

theorem State.transAsked_sound {a0 a1 a2 a3 a4} (h0 : a0.Sound T) : (State.transAsked a0 a1 a2 a3 a4).Sound T := by
  unfold State.transAsked
  extract_lets no
  have hno : no.Sound T := by
    unfold no
    with_reducible apply State.tellAll_sound
    assumption
  clear_value no
  split
  · split
    · dsimp only
      with_reducible apply State.tellAll_sound
      assumption
    · assumption
  · assumption

theorem State.transNone_sound {a0 a1 a2 a3 a4} (h0 : a0.Sound T) : (State.transNone a0 a1 a2 a3 a4).Sound T := by
  unfold State.transNone
  split
  · assumption
  · assumption

theorem State.transFound_sound {a0 a1 a2 a3 a4 a5 a6 a7 a8 a9} (h0 : a0.Sound T) : (State.transFound a0 a1 a2 a3 a4 a5 a6 a7 a8 a9).Sound T := by
  unfold State.transFound
  split
  · assumption
  · split
    · extract_lets s1
      have hs1 : s1.Sound T := by
        assumption
      clear_value s1
      split
      · assumption
      · with_reducible apply State.sharedEntry_sound
        with_reducible apply State.entryDone_sound
        assumption
    · with_reducible apply State.transNone_sound
      assumption

theorem execTranslationComplete_sound {a0 a1} (h1 : a1.Sound T) : OutSound T (execTranslationComplete a0 a1) := by
  unfold execTranslationComplete
  apply next_sound
  split
  · assumption
  · split
    · assumption
    · split
      · with_reducible apply State.entryFailed_sound
        assumption
      · split
        · dsimp only [State.Sound]
          apply State.Sound.fold
          assumption
        · split
          · refine Demand.wait_of (by assumption) ?_
            with_reducible apply State.demandPages_sound
            assumption
          · refine Demand.fatal_of (by assumption) ?_
            with_reducible apply State.demandPages_sound
            assumption
          · split
            · with_reducible apply State.entryFailed_sound
              refine Demand.done_of (by assumption) ?_
              with_reducible apply State.demandPages_sound
              assumption
            · with_reducible apply State.entryDone_sound
              refine Demand.done_of (by assumption) ?_
              with_reducible apply State.demandPages_sound
              assumption

theorem execReoptimisationComplete_sound {a0 a1} (h1 : a1.Sound T) : OutSound T (execReoptimisationComplete a0 a1) := by
  unfold execReoptimisationComplete
  dsimp only
  apply next_sound
  split
  · assumption
  · split
    · with_reducible apply State.putDir_sound
      with_reducible apply State.freeValue_sound
      assumption
    · assumption

theorem execStokerFailure_sound {a0 a1} (h1 : a1.Sound T) : OutSound T (execStokerFailure a0 a1) := by
  unfold execStokerFailure
  apply next_sound
  dsimp only [State.Sound]
  apply State.Sound.fold
  assumption

theorem State.dispatchOn_sound {a0 a1 a2} (h0 : a0.Sound T) : (State.dispatchOn a0 a1 a2).Sound T := by
  unfold State.dispatchOn
  dsimp only
  split
  · assumption
  · with_reducible apply State.putDir_sound
    with_reducible apply State.freeValue_sound
    assumption

theorem State.resetLinks_sound {a0 a1} (h0 : a0.Sound T) : (State.resetLinks a0 a1).Sound T := by
  unfold State.resetLinks
  dsimp only
  apply foldl_sound
  · intro _ _ _
    split
    · assumption
    · split
      · with_reducible apply State.pagePut_sound
        with_reducible apply State.putLink_sound
        assumption
      · with_reducible apply State.putLink_sound
        assumption
  · assumption

theorem State.unmapRanges_sound {a0 a1} (h0 : a0.Sound T) : (State.unmapRanges a0 a1).Sound T := by
  unfold State.unmapRanges
  split
  · assumption
  · apply foldl_sound
    · intro _ _ _
      with_reducible apply State.unmapLeaf_sound
      assumption
    · assumption

theorem State.dropObj_sound {a0 a1} (h0 : a0.Sound T) : (State.dropObj a0 a1).Sound T := by
  unfold State.dropObj
  dsimp only
  dsimp only [State.Sound]
  apply State.Sound.fold
  assumption

theorem State.removeObj_sound {a0 a1} (h0 : a0.Sound T) : (State.removeObj a0 a1).Sound T := by
  unfold State.removeObj
  with_reducible apply State.dropObj_sound
  with_reducible apply State.unmapRanges_sound
  with_reducible apply State.resetLinks_sound
  assumption

theorem execUnloadComplete_sound {a0 a1} (h1 : a1.Sound T) : OutSound T (execUnloadComplete a0 a1) := by
  unfold execUnloadComplete
  apply next_sound
  split
  · assumption
  · split
    · assumption
    · split
      · with_reducible apply State.missAdd_sound
        assumption
      · extract_lets s1
        have hs1 : s1.Sound T := by
          unfold s1
          with_reducible apply State.removeObj_sound
          assumption
        clear_value s1
        split
        · with_reducible apply State.nodeEnd_sound
          assumption
        · assumption

theorem State.loadEnd_sound {a0 a1 a2 a3 a4} (h0 : a0.Sound T) : (State.loadEnd a0 a1 a2 a3 a4).Sound T := by
  unfold State.loadEnd
  dsimp only
  split
  · with_reducible apply State.nodeEnd_sound
    assumption
  · split
    · with_reducible apply State.nodeEnd_sound
      with_reducible apply State.tellAll_sound
      split
      · split
        · with_reducible apply State.removeObj_sound
          assumption
        · assumption
      · assumption
    · with_reducible apply State.nodeEnd_sound
      split
      · split
        · with_reducible apply State.removeObj_sound
          assumption
        · assumption
      · assumption

theorem State.loadNode_sound {a0 a1} (h0 : a0.Sound T) : (State.loadNode a0 a1).Sound T := by
  unfold State.loadNode
  split
  · assumption
  · split
    · refine Fw.wait_of (by assumption) ?_
      with_reducible apply State.fwRead_sound
      assumption
    · with_reducible apply State.nodeEnd_sound
      with_reducible apply State.fwClear_sound
      refine Fw.bad_of (by assumption) ?_
      with_reducible apply State.fwRead_sound
      assumption
    · extract_lets x
      have hx : x.1.Sound T := by
        unfold x
        with_reducible apply State.loadFile_sound
        with_reducible apply State.fwClear_sound
        refine Fw.ok_of (by assumption) ?_
        with_reducible apply State.fwRead_sound
        assumption
      clear_value x
      split
      · assumption
      · dsimp only
        split
        · split
          · with_reducible apply State.nodeEnd_sound
            assumption
          · with_reducible apply State.tellAll_sound
            assumption
        · split
          · with_reducible apply State.nodeEnd_sound
            assumption
          · assumption

theorem State.gangLoad_sound {a0 a1 a2 a3 a4} (h0 : a0.Sound T) : (State.gangLoad a0 a1 a2 a3 a4).Sound T := by
  unfold State.gangLoad
  split
  · with_reducible apply State.tellAll_sound
    assumption
  · extract_lets y s1
    have hy : y.1.Sound T := by
      unfold y
      with_reducible apply State.loadFile_sound
      assumption
    have hs1 : s1.Sound T := by
      unfold s1
      split
      · split
        · assumption
        · assumption
      · assumption
    clear_value y s1
    with_reducible apply State.tellAll_sound
    assumption

theorem State.gangLoaded_sound {a0 a1 a2 a3} (h0 : a0.Sound T) : (State.gangLoaded a0 a1 a2 a3).Sound T := by
  unfold State.gangLoaded
  split
  · assumption
  · split
    · assumption
    · dsimp only
      split
      · assumption
      · split
        · with_reducible apply State.loadEnd_sound
          assumption
        · assumption

theorem State.gangUnload_sound {a0 a1 a2} (h0 : a0.Sound T) : (State.gangUnload a0 a1 a2).Sound T := by
  unfold State.gangUnload
  apply foldl_sound
  · intro _ _ _
    with_reducible apply State.removeObj_sound
    assumption
  · assumption

theorem State.lostAsks_sound {a0 a1} (h0 : a0.Sound T) : (State.lostAsks a0 a1).Sound T := by
  unfold State.lostAsks
  extract_lets s1
  have hs1 : s1.Sound T := by
    assumption
  clear_value s1
  apply foldl_sound
  · intro _ _ _
    with_reducible apply State.gangLoaded_sound
    assumption
  · assumption

theorem State.unloadStart_sound {a0 a1} (h0 : a0.Sound T) : (State.unloadStart a0 a1).Sound T := by
  unfold State.unloadStart
  split
  · with_reducible apply State.nodeEnd_sound
    assumption
  · split
    · with_reducible apply State.putNode_sound
      with_reducible apply State.putObj_sound
      assumption
    · split
      · assumption
      · with_reducible apply State.nodeEnd_sound
        assumption

/-! `Machine/Route.lean` -/

theorem State.fillRoutes_sound {a0 a1 a2} (h0 : a0.Sound T) : (State.fillRoutes a0 a1 a2).Sound T := by
  unfold State.fillRoutes
  assumption

/-! `Machine/Place.lean` -/

theorem State.settleAlloc_sound {a0} (h0 : a0.Sound T) : (State.settleAlloc a0).Sound T := by
  unfold State.settleAlloc
  assumption

theorem State.enterCore_sound {a0 a1 a2 a3} (h0 : a0.Sound T) : (State.enterCore a0 a1 a2 a3).Sound T := by
  unfold State.enterCore
  split
  · extract_lets s1 s2
    have hs1 : s1.Sound T := by
      unfold s1
      split
      · assumption
      · with_reducible apply State.l1Clean_sound
        assumption
    have hs2 : s2.Sound T := by
      unfold s2
      split
      · assumption
      · with_reducible apply State.l1Drop_sound
        with_reducible apply State.l1Clean_sound
        assumption
    clear_value s1 s2
    with_reducible apply State.l1Fit_sound
    assumption
  · assumption

theorem State.charge_sound {a0 a1 a2 a3} (h0 : a0.Sound T) : (State.charge a0 a1 a2 a3).Sound T := by
  unfold State.charge
  split
  · with_reducible apply State.putCtx_sound
    assumption
  · assumption

theorem State.allocate_sound {a0 a1 a2 a3 a4 a5 a6 a7 a8} (h0 : a0.Sound T) : (State.allocate a0 a1 a2 a3 a4 a5 a6 a7 a8).Sound T := by
  unfold State.allocate
  extract_lets d uid core slots pc wg s1
  have hs1 : s1.Sound T := by
    unfold s1
    with_reducible apply State.acquireAt_sound
    with_reducible apply State.enterCore_sound
    assumption
  clear_value d uid core slots pc wg s1
  with_reducible apply State.fillRoutes_sound
  with_reducible apply State.charge_sound
  assumption

theorem allocateAll_sound {a0 a1 a2 a3 a4 a5 a6 a7 a8} (h8 : a8.Sound T) : (allocateAll a0 a1 a2 a3 a4 a5 a6 a7 a8).Sound T := by
  induction a7 generalizing a0 a1 a2 a3 a4 a5 a6 a8 h8 with
  | nil =>
    unfold allocateAll
    assumption
  | cons x r ih =>
    unfold allocateAll
    apply ih
    with_reducible apply State.allocate_sound
    assumption

theorem State.offer_sound {a0 a1} (h0 : a0.Sound T) : (State.offer a0 a1).Sound T := by
  unfold State.offer
  dsimp only
  split
  · split
    · apply Offer.gone_sound
      with_reducible apply State.nodeFatal_sound
      assumption
    · split
      · apply Offer.gone_sound
        with_reducible apply State.nodeEnd_sound
        assumption
      · apply Offer.noRoom_sound
        assumption
      · split
        · apply Offer.noRoom_sound
          with_reducible apply State.putNode_sound
          assumption
        · split
          · apply Offer.noGate_sound
          · split
            · apply Offer.placed_sound
              with_reducible apply State.putNode_sound
              with_reducible apply allocateAll_sound
              dsimp only [State.Sound]
              apply State.Sound.fold
              assumption
            · split
              · apply Offer.wait_sound
                refine Fw.wait_of (by assumption) ?_
                with_reducible apply State.fwRead_sound
                assumption
              · apply Offer.wait_sound
                refine Fw.bad_of (by assumption) ?_
                with_reducible apply State.fwRead_sound
                assumption
              · apply Offer.placed_sound
                dsimp only [State.Sound]
                apply State.Sound.fold
                with_reducible apply State.putNode_sound
                with_reducible apply allocateAll_sound
                dsimp only [State.Sound]
                apply State.Sound.fold
                split
                · with_reducible apply State.dispatchOn_sound
                  with_reducible apply State.fwClear_sound
                  refine Fw.ok_of (by assumption) ?_
                  with_reducible apply State.fwRead_sound
                  assumption
                · with_reducible apply State.fwClear_sound
                  refine Fw.ok_of (by assumption) ?_
                  with_reducible apply State.fwRead_sound
                  assumption
  · apply Offer.wait_sound
    assumption

theorem passGo_sound {a0 a1 a2 a3} (h3 : a3.Sound T) : (passGo a0 a1 a2 a3).Sound T := by
  induction a0 generalizing a1 a2 a3 with
  | zero => exact h3
  | succ n ih =>
    cases a1 with
    | nil => exact h3
    | cons i r =>
      unfold passGo
      split
      · exact ih h3
      · rename_i x _
        split
        · exact ih h3
        · have ho : (a3.offer x).Sound T := State.offer_sound h3
          revert ho
          cases a3.offer x <;> intro ho
          · exact ih ho
          · exact ih ho
          · exact ih ho
          · exact ih h3
          · exact ih ho

theorem wakeOps_sound {a0 a1} (h1 : a1.Sound T) : (wakeOps a0 a1).Sound T := by
  induction a0 generalizing a1 h1 with
  | nil =>
    unfold wakeOps
    assumption
  | cons x r ih =>
    unfold wakeOps
    split
    · apply ih
      assumption
    · split
      · apply ih
        assumption
      · apply ih
        assumption

theorem State.settleOps_sound {a0} (h0 : a0.Sound T) : (State.settleOps a0).Sound T := by
  unfold State.settleOps
  with_reducible apply wakeOps_sound
  assumption

theorem State.asksAgain_sound {a0 a1 a2} (h1 : a1.Sound T) : (State.asksAgain a0 a1 a2).Sound T := by
  unfold State.asksAgain
  split
  · split
    · split
      · with_reducible apply State.teamFatal_sound
        assumption
      · with_reducible apply State.requestFn_sound
        assumption
    · assumption
  · assumption

theorem State.restoreWg_sound {a0 a1 a2 a3} (h0 : a0.Sound T) : (State.restoreWg a0 a1 a2 a3).Sound T := by
  unfold State.restoreWg
  split
  · assumption
  · dsimp only
    apply foldl_sound
    · intro _ _ _
      with_reducible apply State.asksAgain_sound
      assumption
    · split
      · with_reducible apply State.fillRoutes_sound
        with_reducible apply State.putNode_sound
        with_reducible apply State.charge_sound
        with_reducible apply wakeOps_sound
        dsimp only [State.Sound]
        apply State.Sound.fold
        with_reducible apply State.modCore_sound
        with_reducible apply State.acquireAt_sound
        with_reducible apply State.enterCore_sound
        assumption
      · with_reducible apply wakeOps_sound
        dsimp only [State.Sound]
        apply State.Sound.fold
        with_reducible apply State.modCore_sound
        with_reducible apply State.acquireAt_sound
        with_reducible apply State.enterCore_sound
        assumption

theorem restoreAll_sound {a0 a1 a2} (h2 : a2.Sound T) : (restoreAll a0 a1 a2).Sound T := by
  induction a1 generalizing a0 a2 h2 with
  | nil =>
    unfold restoreAll
    assumption
  | cons x r ih =>
    unfold restoreAll
    apply ih
    with_reducible apply State.restoreWg_sound
    assumption

theorem State.resumeNb_sound {a0 a1 a2} (h0 : a0.Sound T) : (State.resumeNb a0 a1 a2).Sound T := by
  unfold State.resumeNb
  dsimp only
  split
  · assumption
  · split
    · assumption
    · split
      · with_reducible apply restoreAll_sound
        assumption
      · assumption

theorem State.closeReqs_sound {a0 a1 a2 a3 a4} (h0 : a0.Sound T) : (State.closeReqs a0 a1 a2 a3 a4).Sound T := by
  unfold State.closeReqs
  split
  · assumption
  · apply foldl_sound
    · intro _ _ _
      with_reducible apply State.hostComplete_sound
      assumption
    · with_reducible apply State.putCtx_sound
      assumption

theorem State.resumeDone_sound {a0 a1} (h0 : a0.Sound T) : (State.resumeDone a0 a1).Sound T := by
  unfold State.resumeDone
  dsimp only
  split
  · assumption
  · split
    · with_reducible apply State.closeReqs_sound
      dsimp only [State.Sound]
      apply State.Sound.fold
      with_reducible apply State.putCtx_sound
      assumption
    · assumption

theorem State.resumePass_sound {a0} (h0 : a0.Sound T) : (State.resumePass a0).Sound T := by
  unfold State.resumePass
  apply foldl_sound
  · intro _ _ _
    with_reducible apply State.resumeDone_sound
    apply foldl_sound
    · intro _ _ _
      with_reducible apply State.resumeNb_sound
      assumption
    · assumption
  · assumption

theorem execDistributorPass_sound {a0} (h0 : a0.Sound T) : OutSound T (execDistributorPass a0) := by
  unfold execDistributorPass
  dsimp only
  apply next_sound
  dsimp only [State.Sound]
  apply State.Sound.fold
  with_reducible apply passGo_sound
  with_reducible apply State.resumePass_sound
  dsimp only [State.Sound]
  apply State.Sound.fold
  assumption

theorem execWorkgroupDone_sound {a0 a1} (h1 : a1.Sound T) : OutSound T (execWorkgroupDone a0 a1) := by
  unfold execWorkgroupDone
  dsimp only
  apply next_sound
  split
  · assumption
  · split
    · assumption
    · split
      · split
        · split
          · with_reducible apply State.removeWgs_sound
            dsimp only [State.Sound]
            apply State.Sound.fold
            with_reducible apply State.putWg_sound
            with_reducible apply State.putCtx_sound
            with_reducible apply State.putNode_sound
            with_reducible apply State.releaseAt_sound
            assumption
          · dsimp only [State.Sound]
            apply State.Sound.fold
            with_reducible apply State.putWg_sound
            with_reducible apply State.putCtx_sound
            with_reducible apply State.putNode_sound
            with_reducible apply State.releaseAt_sound
            assumption
        · split
          · with_reducible apply State.removeWgs_sound
            dsimp only [State.Sound]
            apply State.Sound.fold
            with_reducible apply State.putWg_sound
            with_reducible apply State.putCtx_sound
            assumption
          · dsimp only [State.Sound]
            apply State.Sound.fold
            with_reducible apply State.putWg_sound
            with_reducible apply State.putCtx_sound
            assumption
      · split
        · split
          · with_reducible apply State.removeWgs_sound
            dsimp only [State.Sound]
            apply State.Sound.fold
            with_reducible apply State.putWg_sound
            with_reducible apply State.putNode_sound
            with_reducible apply State.releaseAt_sound
            assumption
          · dsimp only [State.Sound]
            apply State.Sound.fold
            with_reducible apply State.putWg_sound
            with_reducible apply State.putNode_sound
            with_reducible apply State.releaseAt_sound
            assumption
        · split
          · with_reducible apply State.removeWgs_sound
            dsimp only [State.Sound]
            apply State.Sound.fold
            with_reducible apply State.putWg_sound
            assumption
          · dsimp only [State.Sound]
            apply State.Sound.fold
            with_reducible apply State.putWg_sound
            assumption

theorem execNodeComplete_sound {a0 a1} (h1 : a1.Sound T) : OutSound T (execNodeComplete a0 a1) := by
  unfold execNodeComplete
  apply next_sound
  split
  · assumption
  · split
    · with_reducible apply State.nodeRecord_sound
      assumption
    · split
      · split
        · with_reducible apply State.nodeEnd_sound
          with_reducible apply State.cover_sound
          assumption
        · assumption
      · split
        · with_reducible apply State.nodeEnd_sound
          assumption
        · assumption
      · split
        · with_reducible apply State.loadNode_sound
          assumption
        · assumption
      · split
        · with_reducible apply State.unloadStart_sound
          assumption
        · assumption

/-! `Machine/Arrival.lean` -/

theorem quietRun_sound {a0 a1 a2} (h0 : a0.Sound T) : (quietRun a0 a1 a2).s.Sound T := by
  unfold quietRun
  assumption

theorem Run.element_sound {a0 a1 a2} (h0 : a0.s.Sound T) : (Run.element a0 a1 a2).Sound T := by
  unfold Run.element
  dsimp only
  with_reducible apply Run.sync_sound
  assumption

theorem fetchElement_sound {a0 a1 a2} (h0 : a0.s.Sound T) : (fetchElement a0 a1 a2).Sound T := by
  unfold fetchElement
  extract_lets st n sp a flt
  have hflt : ∀ b0, (b0.s.Sound T) → ∀ b1, ((flt b0) b1).Sound T := by
    intro _ _ _
    assumption
  clear_value st n sp a flt
  split
  · apply hflt
    assumption
  · apply hflt
    assumption
  · split
    · split
      · assumption
      · split
        · assumption
        · extract_lets r1
          have hr1 : r1.s.Sound T := by
            unfold r1
            with_reducible apply Run.askBlock_sound
            assumption
          clear_value r1
          split
          · apply hflt
            assumption
          · assumption
          · assumption
          · assumption
    · extract_lets x
      have hx : x.1.s.Sound T := by
        unfold x
        with_reducible apply Run.readAt_sound
        assumption
      clear_value x
      split
      · apply hflt
        assumption
      · assumption

theorem execStreamElementArrival_sound {a0 a1 a2 a3} (h3 : a3.Sound T) : OutSound T (execStreamElementArrival a0 a1 a2 a3) := by
  unfold execStreamElementArrival
  apply next_sound
  split
  · assumption
  · dsimp only
    split
    · assumption
    · split
      · assumption
      · with_reducible apply fetchElement_sound
        assumption

theorem execFeedValueArrival_sound {a0 a1 a2} (h2 : a2.Sound T) : OutSound T (execFeedValueArrival a0 a1 a2) := by
  unfold execFeedValueArrival
  dsimp only
  apply next_sound
  split
  · assumption
  · split
    · assumption
    · split
      · assumption
      · split
        · with_reducible apply State.teamFatal_sound
          refine Fw.bad_of (by assumption) ?_
          with_reducible apply State.fwRead_sound
          assumption
        · refine Fw.wait_of (by assumption) ?_
          with_reducible apply State.fwRead_sound
          assumption
        · with_reducible apply State.modTeam_sound
          with_reducible apply State.fwClear_sound
          refine Fw.ok_of (by assumption) ?_
          with_reducible apply State.fwRead_sound
          assumption

theorem execCombiningDrainTimeout_sound {a0 a1 a2 a3} (h3 : a3.Sound T) : OutSound T (execCombiningDrainTimeout a0 a1 a2 a3) := by
  unfold execCombiningDrainTimeout
  dsimp only
  apply next_sound
  split
  · assumption
  · split
    · assumption
    · split
      · with_reducible apply State.fatal_sound
        with_reducible apply Run.sync_sound
        split
        · with_reducible apply State.exhaust_sound
          with_reducible apply Run.drain_sound
          with_reducible apply quietRun_sound
          assumption
        · with_reducible apply Run.drain_sound
          with_reducible apply quietRun_sound
          assumption
      · with_reducible apply Run.sync_sound
        split
        · with_reducible apply State.exhaust_sound
          with_reducible apply Run.drain_sound
          with_reducible apply quietRun_sound
          assumption
        · with_reducible apply Run.drain_sound
          with_reducible apply quietRun_sound
          assumption

theorem execTeamWatchdogExpiry_sound {a0 a1 a2} (h2 : a2.Sound T) : OutSound T (execTeamWatchdogExpiry a0 a1 a2) := by
  unfold execTeamWatchdogExpiry
  dsimp only
  apply next_sound
  split
  · assumption
  · split
    · assumption
    · split
      · with_reducible apply State.teamFatal_sound
        assumption
      · with_reducible apply State.putWg_sound
        assumption

/-! `Machine/Context.lean` -/

theorem State.gangArrive_sound {a0 a1} (h0 : a0.Sound T) : (State.gangArrive a0 a1).Sound T := by
  unfold State.gangArrive
  split
  · assumption
  · split
    · assumption
    · split
      · assumption
      · with_reducible apply State.tellAll_sound
        with_reducible apply State.putCtx_sound
        assumption

theorem State.announce_sound {a0 a1} (h0 : a0.Sound T) : (State.announce a0 a1).Sound T := by
  unfold State.announce
  dsimp only
  split
  · assumption
  · split
    · assumption
    · apply foldl_sound
      · intro _ _ _
        split
        · assumption
        · split
          · assumption
          · with_reducible apply State.send_sound
            with_reducible apply State.putCtx_sound
            assumption
      · assumption

theorem State.freeze_sound {a0 a1} (h0 : a0.Sound T) : (State.freeze a0 a1).Sound T := by
  unfold State.freeze
  dsimp only
  split
  · assumption
  · split
    · with_reducible apply State.putCtx_sound
      assumption
    · assumption

theorem State.startPolite_sound {a0 a1 a2} (h0 : a0.Sound T) : (State.startPolite a0 a1 a2).Sound T := by
  unfold State.startPolite
  split
  · assumption
  · with_reducible apply State.putCtx_sound
    assumption

theorem State.enterSaved_sound {a0 a1} (h0 : a0.Sound T) : (State.enterSaved a0 a1).Sound T := by
  unfold State.enterSaved
  dsimp only
  with_reducible apply State.closeReqs_sound
  dsimp only [State.Sound]
  apply State.Sound.fold
  with_reducible apply State.putCtx_sound
  assumption

theorem State.settleSave_sound {a0 a1} (h0 : a0.Sound T) : (State.settleSave a0 a1).Sound T := by
  unfold State.settleSave
  dsimp only
  split
  · with_reducible apply State.freeze_sound
    with_reducible apply State.announce_sound
    assumption
  · split
    · with_reducible apply State.freeze_sound
      with_reducible apply State.announce_sound
      assumption
    · split
      · split
        · dsimp only [State.Sound]
          apply State.Sound.fold
          with_reducible apply State.putCtx_sound
          with_reducible apply State.freeze_sound
          with_reducible apply State.announce_sound
          assumption
        · with_reducible apply State.freeze_sound
          with_reducible apply State.announce_sound
          assumption
      · split
        · with_reducible apply State.enterSaved_sound
          with_reducible apply State.freeze_sound
          with_reducible apply State.announce_sound
          assumption
        · with_reducible apply State.freeze_sound
          with_reducible apply State.announce_sound
          assumption

theorem State.cutBegins_sound {a0 a1} (h0 : a0.Sound T) : (State.cutBegins a0 a1).Sound T := by
  unfold State.cutBegins
  split
  · assumption
  · split
    · with_reducible apply State.putCtx_sound
      assumption
    · assumption

theorem State.saveFlush_sound {a0 a1} (h0 : a0.Sound T) : (State.saveFlush a0 a1).Sound T := by
  unfold State.saveFlush
  apply foldl_sound
  · intro _ _ _
    split
    · with_reducible apply State.release_sound
      assumption
    · assumption
  · with_reducible apply State.l1Clean_sound
    assumption

theorem State.mayRecount_sound {a0 a1} (h0 : a0.Sound T) : (State.mayRecount a0 a1).Sound T := by
  unfold State.mayRecount
  apply foldl_sound
  · intro _ _ _
    split
    · assumption
    · extract_lets y
      have hy : y.2.Sound T := by
        assumption
      clear_value y
      split
      · with_reducible apply State.countAgain_sound
        assumption
      · assumption
  · assumption

theorem State.saveOne_sound {a0 a1} (h0 : a0.Sound T) : (State.saveOne a0 a1).Sound T := by
  unfold State.saveOne
  extract_lets s
  have hs : s.Sound T := by
    unfold s
    with_reducible apply State.mayRecount_sound
    with_reducible apply State.saveFlush_sound
    assumption
  clear_value s
  split
  · assumption
  · extract_lets s1
    clear_value s1
    split
    · split
      · assumption
      · assumption
    · assumption

theorem State.saveWg_sound {a0 a1} (h0 : a0.Sound T) : (State.saveWg a0 a1).Sound T := by
  unfold State.saveWg
  split
  · assumption
  · dsimp only
    split
    · assumption
    · with_reducible apply State.removeWgs_sound
      apply foldl_sound
      · intro _ _ _
        with_reducible apply State.saveOne_sound
        assumption
      · assumption

theorem State.stopPress_sound {a0 a1} (h0 : a0.Sound T) : (State.stopPress a0 a1).Sound T := by
  unfold State.stopPress
  split
  · assumption
  · assumption

theorem State.cutBack_sound {a0 a1 a2} (h0 : a0.Sound T) : (State.cutBack a0 a1 a2).Sound T := by
  unfold State.cutBack
  split
  · assumption
  · split
    · split
      · with_reducible apply State.aliasDrop_sound
        with_reducible apply State.modTeam_sound
        assumption
      · assumption
    · assumption

theorem State.resumeStart_sound {a0 a1} (h0 : a0.Sound T) : (State.resumeStart a0 a1).Sound T := by
  unfold State.resumeStart
  dsimp only
  split
  · assumption
  · dsimp only [State.Sound]
    apply State.Sound.fold
    with_reducible apply withdrawHeld_sound
    dsimp only [State.Sound]
    apply State.Sound.fold
    with_reducible apply State.putCtx_sound
    assumption

theorem State.settleWithdrawals_sound {a0 a1} (h0 : a0.Sound T) : (State.settleWithdrawals a0 a1).Sound T := by
  unfold State.settleWithdrawals
  split
  · assumption
  · split
    · assumption
    · with_reducible apply withdrawHeld_sound
      assumption

theorem State.resumeReady_sound {a0 a1} (h0 : a0.Sound T) : (State.resumeReady a0 a1).Sound T := by
  unfold State.resumeReady
  split
  · assumption
  · split
    · with_reducible apply State.gangArrive_sound
      assumption
    · assumption

theorem State.ctxCreate_sound {a0 a1 a2} (h0 : a0.Sound T) : (State.ctxCreate a0 a1 a2).Sound T := by
  unfold State.ctxCreate
  dsimp only
  with_reducible apply State.hostComplete_sound
  dsimp only [State.Sound]
  apply State.Sound.fold
  with_reducible apply State.freeValue_sound
  assumption

theorem State.ctxErase_sound {a0 a1} (h0 : a0.Sound T) : (State.ctxErase a0 a1).Sound T := by
  unfold State.ctxErase
  dsimp only
  dsimp only [State.Sound]
  apply State.Sound.fold
  with_reducible apply State.freeWork_sound
  assumption

theorem State.ctxDestroy_sound {a0 a1 a2} (h0 : a0.Sound T) : (State.ctxDestroy a0 a1 a2).Sound T := by
  unfold State.ctxDestroy
  extract_lets s1
  have hs1 : s1.Sound T := by
    unfold s1
    with_reducible apply State.freeWork_sound
    with_reducible apply overtakeGo_sound
    assumption
  clear_value s1
  split
  · assumption
  · with_reducible apply State.hostComplete_sound
    assumption

theorem State.qCreate_sound {a0 a1 a2} (h0 : a0.Sound T) : (State.qCreate a0 a1 a2).Sound T := by
  unfold State.qCreate
  dsimp only
  with_reducible apply State.hostComplete_sound
  dsimp only [State.Sound]
  apply State.Sound.fold
  assumption

theorem State.dbgCont_sound {a0 a1 a2} (h0 : a0.Sound T) : (State.dbgCont a0 a1 a2).Sound T := by
  unfold State.dbgCont
  with_reducible apply State.hostComplete_sound
  dsimp only [State.Sound]
  apply State.Sound.fold
  assumption

theorem resetQueues_sound {a0 a1} (h1 : a1.Sound T) : (resetQueues a0 a1).Sound T := by
  induction a0 generalizing a1 h1 with
  | nil =>
    unfold resetQueues
    assumption
  | cons x r ih =>
    unfold resetQueues
    apply ih
    with_reducible apply State.queueReset_sound
    assumption

theorem State.rearm_sound {a0 a1 a2} (h0 : a0.Sound T) : (State.rearm a0 a1 a2).Sound T := by
  unfold State.rearm
  dsimp only
  with_reducible apply State.hostComplete_sound
  with_reducible apply resetQueues_sound
  dsimp only [State.Sound]
  apply State.Sound.fold
  with_reducible apply State.putCtx_sound
  assumption

theorem State.gangAccept_sound {a0 a1 a2} (h0 : a0.Sound T) : (State.gangAccept a0 a1 a2).Sound T := by
  unfold State.gangAccept
  dsimp only
  with_reducible apply State.hostComplete_sound
  split
  · with_reducible apply State.resumeStart_sound
    with_reducible apply State.putCtx_sound
    assumption
  · with_reducible apply State.gangArrive_sound
    with_reducible apply State.putCtx_sound
    assumption

theorem State.request_sound {a0 a1 a2 a3} (h0 : a0.Sound T) : (State.request a0 a1 a2 a3).Sound T := by
  unfold State.request
  split
  · exact State.hostComplete_sound h0
  · refine ite_sound (State.ctxCreate_sound h0) ?_
    split
    · exact h0
    · exact ite_sound (State.ctxDestroy_sound h0)
        (ite_sound (State.startPolite_sound (State.putCtx_sound h0))
          (ite_sound (State.resumeStart_sound (State.putCtx_sound h0))
            (ite_sound (State.qCreate_sound h0)
              (ite_sound (State.hostComplete_sound h0)
                (ite_sound (State.hostComplete_sound (State.queueReset_sound h0))
                  (ite_sound (State.hostComplete_sound (State.hostPut_sound h0))
                    (ite_sound (State.gangAccept_sound h0)
                      (ite_sound (State.dbgCont_sound h0) (State.rearm_sound h0)))))))))

theorem requestGo_sound {a0 a1 a2} (h2 : a2.Sound T) : (requestGo a0 a1 a2).Sound T := by
  induction a1 generalizing a0 a2 h2 with
  | nil =>
    unfold requestGo
    assumption
  | cons x r ih =>
    unfold requestGo
    split
    · split
      · with_reducible apply State.putCtx_sound
        assumption
      · assumption
    · apply ih
      with_reducible apply State.request_sound
      assumption

theorem State.submit_sound {a0 a1 a2 a3} (h0 : a0.Sound T) : (State.submit a0 a1 a2 a3).Sound T := by
  unfold State.submit
  split
  · split
    · with_reducible apply State.putCtx_sound
      assumption
    · with_reducible apply requestGo_sound
      assumption
  · split
    · with_reducible apply requestGo_sound
      assumption
    · assumption

theorem State.settleRequests_sound {a0 a1} (h0 : a0.Sound T) : (State.settleRequests a0 a1).Sound T := by
  unfold State.settleRequests
  split
  · assumption
  · split
    · split
      · assumption
      · with_reducible apply requestGo_sound
        with_reducible apply State.hostComplete_sound
        assumption
    · assumption
    · split
      · assumption
      · extract_lets s1
        have hs1 : s1.Sound T := by
          assumption
        clear_value s1
        split
        · with_reducible apply requestGo_sound
          with_reducible apply State.hostComplete_sound
          assumption
        · with_reducible apply requestGo_sound
          assumption

theorem State.settleGang_sound {a0 a1} (h0 : a0.Sound T) : (State.settleGang a0 a1).Sound T := by
  unfold State.settleGang
  split
  · assumption
  · split
    · split
      · with_reducible apply State.putCtx_sound
        assumption
      · assumption
    · assumption

theorem State.settleCtx_sound {a0 a1} (h0 : a0.Sound T) : (State.settleCtx a0 a1).Sound T := by
  unfold State.settleCtx
  with_reducible apply State.settleRequests_sound
  with_reducible apply State.settleGang_sound
  with_reducible apply State.resumeReady_sound
  with_reducible apply State.settleSave_sound
  with_reducible apply State.settleWithdrawals_sound
  with_reducible apply State.stopPress_sound
  assumption

theorem execCtxCreate_sound {a0 a1 a2} (h2 : a2.Sound T) : OutSound T (execCtxCreate a0 a1 a2) := by
  unfold execCtxCreate
  apply next_sound
  with_reducible apply State.hostAct_sound
  · assumption
  · intro _ _
    with_reducible apply State.submit_sound
    assumption

theorem execCtxDestroy_sound {a0 a1 a2} (h2 : a2.Sound T) : OutSound T (execCtxDestroy a0 a1 a2) := by
  unfold execCtxDestroy
  apply next_sound
  with_reducible apply State.hostAct_sound
  · assumption
  · intro _ _
    with_reducible apply State.submit_sound
    assumption

theorem execCtxPreempt_sound {a0 a1 a2} (h2 : a2.Sound T) : OutSound T (execCtxPreempt a0 a1 a2) := by
  unfold execCtxPreempt
  apply next_sound
  with_reducible apply State.hostAct_sound
  · assumption
  · intro _ _
    with_reducible apply State.submit_sound
    assumption

theorem execCtxResume_sound {a0 a1 a2} (h2 : a2.Sound T) : OutSound T (execCtxResume a0 a1 a2) := by
  unfold execCtxResume
  apply next_sound
  with_reducible apply State.hostAct_sound
  · assumption
  · intro _ _
    with_reducible apply State.submit_sound
    assumption

theorem execQcreate_sound {a0 a1 a2} (h2 : a2.Sound T) : OutSound T (execQcreate a0 a1 a2) := by
  unfold execQcreate
  apply next_sound
  with_reducible apply State.hostAct_sound
  · assumption
  · intro _ _
    with_reducible apply State.submit_sound
    assumption

theorem execQdestroy_sound {a0 a1 a2} (h2 : a2.Sound T) : OutSound T (execQdestroy a0 a1 a2) := by
  unfold execQdestroy
  apply next_sound
  with_reducible apply State.hostAct_sound
  · assumption
  · intro _ _
    with_reducible apply State.submit_sound
    assumption

theorem execQreset_sound {a0 a1 a2} (h2 : a2.Sound T) : OutSound T (execQreset a0 a1 a2) := by
  unfold execQreset
  apply next_sound
  with_reducible apply State.hostAct_sound
  · assumption
  · intro _ _
    with_reducible apply State.submit_sound
    assumption

theorem execReadsave_sound {a0 a1 a2} (h2 : a2.Sound T) : OutSound T (execReadsave a0 a1 a2) := by
  unfold execReadsave
  apply next_sound
  with_reducible apply State.hostAct_sound
  · assumption
  · intro _ _
    with_reducible apply State.submit_sound
    assumption

theorem execGangrec_sound {a0 a1 a2} (h2 : a2.Sound T) : OutSound T (execGangrec a0 a1 a2) := by
  unfold execGangrec
  apply next_sound
  with_reducible apply State.hostAct_sound
  · assumption
  · intro _ _
    with_reducible apply State.submit_sound
    assumption

theorem execDbgcont_sound {a0 a1 a2} (h2 : a2.Sound T) : OutSound T (execDbgcont a0 a1 a2) := by
  unfold execDbgcont
  apply next_sound
  with_reducible apply State.hostAct_sound
  · assumption
  · intro _ _
    with_reducible apply State.submit_sound
    assumption

theorem execRearm_sound {a0 a1 a2} (h2 : a2.Sound T) : OutSound T (execRearm a0 a1 a2) := by
  unfold execRearm
  apply next_sound
  with_reducible apply State.hostAct_sound
  · assumption
  · intro _ _
    with_reducible apply State.submit_sound
    assumption

theorem execPoliteWindowExpiry_sound {a0 a1} (h1 : a1.Sound T) : OutSound T (execPoliteWindowExpiry a0 a1) := by
  unfold execPoliteWindowExpiry
  apply next_sound
  with_reducible apply State.settleCtx_sound
  with_reducible apply State.cutBegins_sound
  assumption

theorem execWorkgroupSave_sound {a0 a1} (h1 : a1.Sound T) : OutSound T (execWorkgroupSave a0 a1) := by
  unfold execWorkgroupSave
  apply next_sound
  split
  · with_reducible apply State.settleCtx_sound
    with_reducible apply State.saveWg_sound
    assumption
  · assumption

theorem execCutBackTimeout_sound {a0 a1 a2} (h2 : a2.Sound T) : OutSound T (execCutBackTimeout a0 a1 a2) := by
  unfold execCutBackTimeout
  apply next_sound
  with_reducible apply State.cutBack_sound
  assumption

/-! `Machine/Gang.lean` -/

theorem execPtpMessage_sound {a0 a1} (h1 : a1.Sound T) : OutSound T (execPtpMessage a0 a1) := by
  unfold execPtpMessage
  apply next_sound
  dsimp only [State.Sound]
  apply State.Sound.fold
  assumption

theorem State.Sound.setClock {s : State} {k : Nat} (h : s.Sound T) (hk : k ≤ 2) :
    MInv T s.dram s.hostMem s.reqBytes s.idSet s.pkg s.memCe s.memUe s.featGen k s.bootStage s.tai :=
  ⟨h.1, h.2.1, h.2.2.1, h.2.2.2.1, h.2.2.2.2.1, h.2.2.2.2.2.1, h.2.2.2.2.2.2.1, hk, h.2.2.2.2.2.2.2.2⟩

theorem execPtpLockAchieved_sound {a0} (h0 : a0.Sound T) : OutSound T (execPtpLockAchieved a0) := h0.setClock (k := 0) (by decide)

theorem execPtpLockLost_sound {a0} (h0 : a0.Sound T) : OutSound T (execPtpLockLost a0) := by
  unfold execPtpLockLost
  apply next_sound
  split
  · exact h0.setClock (k := 1) (by decide)
  · exact h0

theorem execHoldoverExpiry_sound {a0} (h0 : a0.Sound T) : OutSound T (execHoldoverExpiry a0) := by
  unfold execHoldoverExpiry
  apply next_sound
  split
  · exact h0.setClock (k := 2) (by decide)
  · exact h0

theorem State.taiPass_sound {a0 a1} (h0 : a0.Sound T) : (State.taiPass a0 a1).Sound T := by
  refine ⟨h0.1, h0.2.1, h0.2.2.1, h0.2.2.2.1, h0.2.2.2.2.1, h0.2.2.2.2.2.1, h0.2.2.2.2.2.2.1, h0.2.2.2.2.2.2.2.1,
    h0.2.2.2.2.2.2.2.2.1, ?_⟩
  have ht := h0.2.2.2.2.2.2.2.2.2
  unfold State.taiPass
  dsimp only
  omega

theorem State.pass_sound {a0 a1} (h0 : a0.Sound T) : (State.pass a0 a1).Sound T := by
  unfold State.pass
  with_reducible apply State.taiPass_sound
  assumption

theorem State.takeInstant_sound {a0 a1} (h0 : a0.Sound T) : (State.takeInstant a0 a1).Sound T := by
  unfold State.takeInstant
  dsimp only
  split
  · assumption
  · split
    · assumption
    · split
      · assumption
      · split
        · dsimp only [State.Sound]
          apply State.Sound.fold
          with_reducible apply State.putCtx_sound
          assumption
        · split
          · dsimp only [State.Sound]
            apply State.Sound.fold
            with_reducible apply State.putCtx_sound
            assumption
          · split
            · with_reducible apply State.startPolite_sound
              with_reducible apply State.putCtx_sound
              assumption
            · with_reducible apply State.putCtx_sound
              assumption

theorem execGangInstant_sound {a0 a1} (h1 : a1.Sound T) : OutSound T (execGangInstant a0 a1) := by
  unfold execGangInstant
  apply next_sound
  with_reducible apply State.settleCtx_sound
  with_reducible apply State.takeInstant_sound
  assumption

theorem State.abortFault_sound {a0 a1 a2 a3} (h0 : a0.Sound T) : (State.abortFault a0 a1 a2 a3).Sound T := by
  unfold State.abortFault
  dsimp only
  split
  · assumption
  · split
    · assumption
    · with_reducible apply State.discard_sound
      split
      · with_reducible apply State.putCtx_sound
        assumption
      · assumption

theorem State.graceEnd_sound {a0 a1} (h0 : a0.Sound T) : (State.graceEnd a0 a1).Sound T := by
  unfold State.graceEnd
  dsimp only
  split
  · assumption
  · split
    · assumption
    · split
      · assumption
      · with_reducible apply State.abortFault_sound
        with_reducible apply State.tellAll_sound
        assumption

theorem execGangGraceExpiry_sound {a0 a1} (h1 : a1.Sound T) : OutSound T (execGangGraceExpiry a0 a1) := by
  unfold execGangGraceExpiry
  apply next_sound
  with_reducible apply State.graceEnd_sound
  assumption

theorem execGangAbortReceived_sound {a0 a1 a2 a3 a4} (h4 : a4.Sound T) : OutSound T (execGangAbortReceived a0 a1 a2 a3 a4) := by
  unfold execGangAbortReceived
  apply next_sound
  split
  · split
    · with_reducible apply State.abortFault_sound
      assumption
    · assumption
  · assumption

/-! `Machine/Page.lean` -/

theorem State.pageSettled_sound {a0 a1 a2} (h0 : a0.Sound T) : (State.pageSettled a0 a1 a2).Sound T := by
  unfold State.pageSettled
  dsimp only
  apply foldl_sound
  · intro _ _ _
    with_reducible apply State.publish_sound
    assumption
  · dsimp only [State.Sound]
    apply State.Sound.fold
    with_reducible apply State.releaseReplay_sound
    assumption

theorem State.tellLeaf_sound {a0 a1 a2 a3 a4} (h0 : a0.Sound T) : (State.tellLeaf a0 a1 a2 a3 a4).Sound T := by
  unfold State.tellLeaf
  split
  · with_reducible apply State.tellAll_sound
    assumption
  · assumption

theorem State.recordsLost_sound {a0 a1 a2} (h0 : a0.Sound T) : (State.recordsLost a0 a1 a2).Sound T := by
  unfold State.recordsLost
  apply foldl_sound
  · intro _ _ _
    split
    · with_reducible apply State.putQueue_sound
      assumption
    · assumption
  · assumption

theorem State.fillFails_sound {a0 a1 a2 a3 a4} (h0 : a0.Sound T) : (State.fillFails a0 a1 a2 a3 a4).Sound T := by
  unfold State.fillFails
  dsimp only
  split
  · split
    · with_reducible apply State.teamFatal_sound
      with_reducible apply State.recordsLost_sound
      assumption
    · with_reducible apply State.fatal_sound
      with_reducible apply State.recordsLost_sound
      assumption
  · with_reducible apply State.fatal_sound
    with_reducible apply State.recordsLost_sound
    assumption

theorem spWf_putListed : ∀ (l : List (Nat × Byte)) {m : SparseB}, spWf 0 m = true → spWf 0 (putListed m l) = true
  | [], _, h => h
  | b :: r, _, h => spWf_putListed r (spWf_spSet 0 _ b.2 h)

theorem State.fillHere_sound {a0 a1 a2 a3 a4} (h0 : a0.Sound T) : (State.fillHere a0 a1 a2 a3 a4).Sound T := by
  unfold State.fillHere
  dsimp only
  split
  · exact State.fillFails_sound h0
  · rename_i f s1 e
    have h1 : s1.Sound T := some2_of e (State.takeFrame_sound h0)
    refine ite_sound (State.fillFails_sound (State.giveFrame_sound h1)) (State.tellLeaf_sound
      (State.pageSettled_sound (State.putLeaf_sound (ite_sound (State.frameZero_sound h1) ?_))))
    have h2 := State.frameZero_sound (a1 := f) (a2 := a3.sz) h1
    exact h2.setDram (spWf_putListed _ h2.1)

theorem State.fillThere_sound {a0 a1 a2 a3} (h0 : a0.Sound T) : (State.fillThere a0 a1 a2 a3).Sound T := by
  unfold State.fillThere
  dsimp only
  split
  · with_reducible apply State.fillFails_sound
    with_reducible apply State.freeValue_sound
    assumption
  · split
    · with_reducible apply State.fillFails_sound
      with_reducible apply State.freeValue_sound
      assumption
    · with_reducible apply State.pageSettled_sound
      with_reducible apply State.putLeaf_sound
      with_reducible apply State.freeValue_sound
      assumption

theorem execDemandFill_sound {a0 a1 a2} (h2 : a2.Sound T) : OutSound T (execDemandFill a0 a1 a2) := by
  unfold execDemandFill
  apply next_sound
  split
  · assumption
  · split
    · assumption
    · split
      · assumption
      · split
        · with_reducible apply State.fillHere_sound
          assumption
        · split
          · with_reducible apply State.fillThere_sound
            assumption
          · assumption

theorem State.evict_sound {a0 a1 a2 a3} (h0 : a0.Sound T) : (State.evict a0 a1 a2 a3).Sound T := by
  unfold State.evict
  extract_lets n slot at_ s1 s2
  have h1 : s1.Sound T := by
    unfold s1
    split
    · exact State.frameFlush_sound h0
    · exact h0
  have h2 : s2.Sound T := by
    unfold s2
    split
    · exact ⟨h1.1, spWf_putListed _ (spWf_filter 0 _ h1.2.1), h1.2.2⟩
    · exact h1
  exact State.dropFrame_sound (State.putLeaf_sound h2)

theorem State.pageOne_sound {a0 a1 a2 a3 a4 a5} (h0 : a0.Sound T) : SumSound T (State.pageOne a0 a1 a2 a3 a4 a5) := by
  unfold State.pageOne
  dsimp only
  split
  · split
    · split
      · apply inr_sound
        refine some_of (by assumption) ?_
        with_reducible apply State.mapPage_sound
        assumption
      · apply inl_sound
    · apply inl_sound
  · split
    · apply inl_sound
    · split
      · apply inr_sound
        with_reducible apply State.pageSettled_sound
        with_reducible apply State.unmapLeaf_sound
        assumption
      · split
        · apply inr_sound
          with_reducible apply State.putLeaf_sound
          assumption
        · split
          · apply inl_sound
          · split
            · apply inl_sound
            · split
              · apply inl_sound
              · apply inr_sound
                with_reducible apply State.evict_sound
                assumption

theorem pagesGo_sound {a0 a1 a2 a3 a4 a5} (h5 : a5.Sound T) : (pagesGo a0 a1 a2 a3 a4 a5).1.Sound T := by
  induction a3 generalizing a0 a1 a2 a4 a5 h5 with
  | zero =>
    unfold pagesGo
    dsimp only
    assumption
  | succ n ih =>
    unfold pagesGo
    split
    · assumption
    · split
      · assumption
      · apply ih
        refine inr_of (by assumption) ?_
        with_reducible apply State.pageOne_sound
        assumption

theorem State.pageDone_sound {a0 a1 a2 a3} (h0 : a0.Sound T) : (State.pageDone a0 a1 a2 a3).Sound T := by
  unfold State.pageDone
  with_reducible apply State.hostComplete_sound
  assumption

theorem State.migStart_sound {a0 a1 a2 a3 a4} (h0 : a0.Sound T) : SumSound T (State.migStart a0 a1 a2 a3 a4) := by
  unfold State.migStart
  split
  · apply inl_sound
  · split
    · apply inl_sound
    · split
      · apply inl_sound
      · split
        · apply inl_sound
        · split
          · apply inl_sound
          · apply inr_sound
            with_reducible apply State.putLeaf_sound
            assumption

theorem forwardHeld_sound {a0 a1 a2 a3 a4} (h4 : a4.Sound T) : (forwardHeld a0 a1 a2 a3 a4).Sound T := by
  induction a3 generalizing a0 a1 a2 a4 h4 with
  | nil =>
    unfold forwardHeld
    assumption
  | cons x r ih =>
    unfold forwardHeld
    apply ih
    with_reducible apply State.sendWrites_sound
    assumption

theorem spWf_applyHeld (base frame : Nat) : ∀ (l : List (Nat × List Byte)) {m : SparseB}, spWf 0 m = true →
    spWf 0 (applyHeld base frame l m) = true
  | [], _, h => h
  | (_, bs) :: r, _, h => spWf_applyHeld base frame r (spWf_spPut 0 bs _ h)

theorem State.migEnd_sound {a0 a1 a2 a3} (h0 : a0.Sound T) : (State.migEnd a0 a1 a2 a3).Sound T := by
  have hs : (if a2.home = a0.pkg then a0.frameFlush a2.frame a2.sz else a0).Sound T := ite_sound (State.frameFlush_sound h0) h0
  unfold State.migEnd
  dsimp only
  generalize (if a2.home = a0.pkg then a0.frameFlush a2.frame a2.sz else a0) = s0 at hs ⊢
  split
  · split
    · exact hs
    · rename_i f s1 e
      have h1 : s1.Sound T := some2_of e (State.takeFrame_sound hs)
      have h2 := State.frameZero_sound (a1 := f) (a2 := a2.sz) h1
      exact State.tellLeaf_sound (State.pageSettled_sound (State.dropFrame_sound (State.putLeaf_sound
        (h2.setDram (spWf_applyHeld _ _ _ (spWf_putListed _ h2.1))))))
  · exact State.pageSettled_sound (State.dropFrame_sound (State.putLeaf_sound (forwardHeld_sound (State.freeValue_sound hs))))

theorem State.heldHere_sound {a0 a1} (h0 : a0.Sound T) : (State.heldHere a0 a1).Sound T := by
  have h := State.frameFlush_sound (a1 := a1.frame) (a2 := a1.sz) h0
  unfold State.heldHere
  exact h.setDram (spWf_applyHeld _ _ _ h.1)

theorem State.migBack_sound {a0 a1 a2} (h0 : a0.Sound T) : (State.migBack a0 a1 a2).Sound T := by
  unfold State.migBack
  exact State.pageSettled_sound (State.putLeaf_sound (ite_sound (State.heldHere_sound h0) (forwardHeld_sound h0)))

theorem State.jobEnd_sound {a0 a1 a2 a3 a4 a5} (h0 : a0.Sound T) : (State.jobEnd a0 a1 a2 a3 a4 a5).Sound T := by
  unfold State.jobEnd
  extract_lets drop
  have hdrop : ∀ b0, (b0.Sound T) → (drop b0).Sound T := by
    intro _ _
    unfold drop
    split
    · assumption
    · assumption
  clear_value drop
  split
  · with_reducible apply State.tellAll_sound
    apply hdrop
    assumption
  · split
    · with_reducible apply State.tellAll_sound
      assumption
    · with_reducible apply State.pageDone_sound
      apply hdrop
      assumption

theorem State.jobStart_sound {a0 a1 a2 a3} (h0 : a0.Sound T) : (State.jobStart a0 a1 a2 a3).Sound T := by
  unfold State.jobStart
  dsimp only
  split
  · with_reducible apply State.jobEnd_sound
    assumption
  · split
    · split
      · with_reducible apply State.jobEnd_sound
        assumption
      · split
        · with_reducible apply State.jobEnd_sound
          assumption
        · split
          · with_reducible apply State.jobEnd_sound
            with_reducible apply pagesGo_sound
            assumption
          · split
            · with_reducible apply State.jobEnd_sound
              assumption
            · split
              · with_reducible apply State.jobEnd_sound
                assumption
              · split
                · with_reducible apply State.putCtx_sound
                  refine inr_of (by assumption) ?_
                  with_reducible apply State.migStart_sound
                  assumption
                · refine inr_of (by assumption) ?_
                  with_reducible apply State.migStart_sound
                  assumption
    · split
      · with_reducible apply State.jobEnd_sound
        assumption
      · split
        · with_reducible apply State.jobEnd_sound
          assumption
        · split
          · with_reducible apply State.jobEnd_sound
            with_reducible apply pagesGo_sound
            assumption
          · split
            · with_reducible apply State.jobEnd_sound
              assumption
            · split
              · with_reducible apply State.jobEnd_sound
                assumption
              · split
                · with_reducible apply State.putCtx_sound
                  refine inr_of (by assumption) ?_
                  with_reducible apply State.migStart_sound
                  assumption
                · refine inr_of (by assumption) ?_
                  with_reducible apply State.migStart_sound
                  assumption

theorem jobsGo_sound {a0 a1 a2} (h2 : a2.Sound T) : (jobsGo a0 a1 a2).Sound T := by
  induction a1 generalizing a0 a2 h2 with
  | zero =>
    unfold jobsGo
    assumption
  | succ n ih =>
    unfold jobsGo
    split
    · assumption
    · split
      · assumption
      · split
        · assumption
        · apply ih
          with_reducible apply State.jobStart_sound
          assumption

theorem State.pageMoved_sound {a0 a1 a2 a3} (h0 : a0.Sound T) : (State.pageMoved a0 a1 a2 a3).Sound T := by
  unfold State.pageMoved
  split
  · assumption
  · with_reducible apply jobsGo_sound
    assumption

theorem State.settlePages_sound {a0 a1} (h0 : a0.Sound T) : (State.settlePages a0 a1).Sound T := by
  unfold State.settlePages
  split
  · assumption
  · split
    · assumption
    · split
      · split
        · assumption
        · with_reducible apply jobsGo_sound
          with_reducible apply State.pageDone_sound
          assumption
      · split
        · assumption
        · split
          · assumption
          · split
            · with_reducible apply State.pageMoved_sound
              assumption
            · extract_lets y
              have hy : y.2.Sound T := by
                assumption
              clear_value y
              split
              · assumption
              · split
                · have hb := State.migBack_sound (a1 := a1) (a2 := by assumption) hy
                  split
                  · exact jobsGo_sound (State.jobEnd_sound hb)
                  · exact hb
                · exact State.pageMoved_sound (State.migEnd_sound hy)

theorem State.pageJob_sound {a0 a1 a2 a3 a4} (h0 : a0.Sound T) : (State.pageJob a0 a1 a2 a3 a4).Sound T := by
  unfold State.pageJob
  split
  · assumption
  · with_reducible apply jobsGo_sound
    assumption

theorem State.pageSubmit_sound {a0 a1 a2 a3} (h0 : a0.Sound T) : (State.pageSubmit a0 a1 a2 a3).Sound T := by
  unfold State.pageSubmit
  with_reducible apply State.pageJob_sound
  assumption

theorem State.pageOpIn_sound {a0 a1 a2 a3 a4 a5} (h0 : a0.Sound T) : (State.pageOpIn a0 a1 a2 a3 a4 a5).Sound T := by
  unfold State.pageOpIn
  apply foldl_sound
  · intro _ _ _
    with_reducible apply State.pageJob_sound
    assumption
  · assumption

theorem State.pageOpDoneIn_sound {a0 a1 a2 a3 a4} (h0 : a0.Sound T) : (State.pageOpDoneIn a0 a1 a2 a3 a4).Sound T := by
  unfold State.pageOpDoneIn
  assumption

theorem State.pageLeafIn_sound {a0 a1 a2 a3 a4} (h0 : a0.Sound T) : (State.pageLeafIn a0 a1 a2 a3 a4).Sound T := by
  unfold State.pageLeafIn
  apply foldl_sound
  · intro _ _ _
    split
    · assumption
    · split
      · assumption
      · with_reducible apply State.pageSettled_sound
        with_reducible apply State.dropFrame_sound
        with_reducible apply State.putLeaf_sound
        with_reducible apply forwardHeld_sound
        assumption
  · assumption

theorem execPageMap_sound {a0 a1 a2} (h2 : a2.Sound T) : OutSound T (execPageMap a0 a1 a2) := by
  unfold execPageMap
  apply next_sound
  with_reducible apply State.hostAct_sound
  · assumption
  · intro _ _
    with_reducible apply State.pageSubmit_sound
    assumption

theorem execPageUnmap_sound {a0 a1 a2} (h2 : a2.Sound T) : OutSound T (execPageUnmap a0 a1 a2) := by
  unfold execPageUnmap
  apply next_sound
  with_reducible apply State.hostAct_sound
  · assumption
  · intro _ _
    with_reducible apply State.pageSubmit_sound
    assumption

theorem execPageProt_sound {a0 a1 a2} (h2 : a2.Sound T) : OutSound T (execPageProt a0 a1 a2) := by
  unfold execPageProt
  apply next_sound
  with_reducible apply State.hostAct_sound
  · assumption
  · intro _ _
    with_reducible apply State.pageSubmit_sound
    assumption

theorem execPageEvict_sound {a0 a1 a2} (h2 : a2.Sound T) : OutSound T (execPageEvict a0 a1 a2) := by
  unfold execPageEvict
  apply next_sound
  with_reducible apply State.hostAct_sound
  · assumption
  · intro _ _
    with_reducible apply State.pageSubmit_sound
    assumption

theorem execPageMigrate_sound {a0 a1 a2} (h2 : a2.Sound T) : OutSound T (execPageMigrate a0 a1 a2) := by
  unfold execPageMigrate
  apply next_sound
  with_reducible apply State.hostAct_sound
  · assumption
  · intro _ _
    with_reducible apply State.pageSubmit_sound
    assumption

theorem execPageQuery_sound {a0 a1 a2} (h2 : a2.Sound T) : OutSound T (execPageQuery a0 a1 a2) := by
  unfold execPageQuery
  apply next_sound
  with_reducible apply State.hostAct_sound
  · assumption
  · intro _ _
    with_reducible apply State.pageSubmit_sound
    assumption

theorem execTlbMissWalk_sound {a0 a1 a2 a3} (h3 : a3.Sound T) : OutSound T (execTlbMissWalk a0 a1 a2 a3) := by
  unfold execTlbMissWalk
  apply next_sound
  split
  · dsimp only [State.Sound]
    apply State.Sound.fold
    assumption
  · split
    · with_reducible apply State.tlbFill_sound
      assumption
    · assumption

/-! `Machine/Link.lean` -/

theorem readVals_sound {a0 a1 a2 a3 a4} (h4 : a4.Sound T) : (readVals a0 a1 a2 a3 a4).1.Sound T := by
  induction a3 generalizing a0 a1 a2 a4 h4 with
  | zero =>
    unfold readVals
    dsimp only
    assumption
  | succ n ih =>
    unfold readVals
    dsimp only
    apply ih
    with_reducible apply State.freeValue_sound
    assumption

theorem State.homeUe_sound {a0 a1 a2} (h0 : a0.Sound T) : (State.homeUe a0 a1 a2).Sound T := by
  unfold State.homeUe
  dsimp only
  with_reducible apply State.fatal_sound
  assumption

theorem State.writeHome_sound {a0 a1 a2} (h0 : a0.Sound T) : (State.writeHome a0 a1 a2).Sound T := by
  unfold State.writeHome
  extract_lets bs base touched whole bad s1 s2
  have h1 : s1.Sound T := h0.setDram (spWf_putBytesAt _ _ h0.1)
  have h2 : s2.Sound T := State.setDirty_sound h1
  split
  · exact State.homeUe_sound h2
  · exact h2

theorem State.atomHome_sound {a0 a1 a2 a3} (h0 : a0.Sound T) : (State.atomHome a0 a1 a2 a3).1.Sound T := by
  have h1 : (if a0.badDram a3 (accessBytes a1.ty) then a0.homeUe a1.ctx a1.addr else a0).Sound T := ite_sound (State.homeUe_sound h0) h0
  unfold State.atomHome
  dsimp only
  exact State.setDirty_sound (State.healUnits_sound (h1.setDram (spWf_spPut 0 _ _ h1.1)))

theorem State.linkIn_sound {a0 a1 a2 a3} (h0 : a0.Sound T) : (State.linkIn a0 a1 a2 a3).Sound T := by
  unfold State.linkIn
  assumption

theorem State.notHere_sound {a0 a1} (h0 : a0.Sound T) : (State.notHere a0 a1).Sound T := by
  unfold State.notHere
  with_reducible apply State.tellAll_sound
  assumption

theorem State.serve_sound {a0 a1 a2} (h0 : a0.Sound T) : Served.Sound T (State.serve a0 a1 a2) := by
  unfold State.serve
  split
  · split
    · assumption
    · apply Served.quiet_sound
      with_reducible apply State.notHere_sound
      assumption
  · apply Served.wait_sound
  · split
    · apply Served.ack_sound
      with_reducible apply State.sendWrites_sound
      assumption
    · apply Served.quiet_sound
      with_reducible apply State.notHere_sound
      assumption
  · split
    · dsimp only
      split
      · apply Served.quiet_sound
        with_reducible apply State.homeUe_sound
        assumption
      · apply Served.reply_sound
        with_reducible apply readVals_sound
        assumption
    · apply Served.ack_sound
      with_reducible apply State.writeHome_sound
      assumption
    · split
      · extract_lets ev x
        have hx : x.1.Sound T := by
          unfold x
          with_reducible apply State.objEvent_sound
          assumption
        clear_value ev x
        split
        · assumption
        · split
          · assumption
          · assumption
        · apply Served.reply_sound
          with_reducible apply State.setDirty_sound
          assumption
      · dsimp only
        split
        · apply Served.reply_sound
          split
          · with_reducible apply State.freeValue_sound
            with_reducible apply State.atomHome_sound
            assumption
          · with_reducible apply State.sendWrites_sound
            dsimp only [State.Sound]
            apply State.Sound.fold
            with_reducible apply State.freeValue_sound
            with_reducible apply State.atomHome_sound
            assumption
        · apply Served.ack_sound
          split
          · with_reducible apply State.freeValue_sound
            with_reducible apply State.atomHome_sound
            assumption
          · with_reducible apply State.sendWrites_sound
            dsimp only [State.Sound]
            apply State.Sound.fold
            with_reducible apply State.freeValue_sound
            with_reducible apply State.atomHome_sound
            assumption
    · assumption

theorem State.answerNow_sound {a0 a1 a2 a3 a4 a5} (h0 : a0.Sound T) (h5 : a5.Sound T) : (State.answerNow a0 a1 a2 a3 a4 a5).Sound T := by
  unfold State.answerNow
  split
  · dsimp only [State.Sound]
    apply State.Sound.fold
    assumption
  · with_reducible apply State.owe_sound
    assumption

theorem State.rpartIn_sound {a0 a1} (h0 : a0.Sound T) : OptSound T (State.rpartIn a0 a1) := by
  unfold State.rpartIn
  dsimp only
  split
  · refine some_sound ?_
    assumption
  · split
    · exact none_sound
    · refine some_sound ?_
      with_reducible apply State.setRpart_sound
      assumption

theorem State.takeReq_sound {a0 a1 a2} (h0 : a0.Sound T) : OptSound T (State.takeReq a0 a1 a2) := by
  unfold State.takeReq
  split
  · have h := State.rpartIn_sound (a1 := a2) h0
    revert h
    cases a0.rpartIn a2 with
    | none => intro _; trivial
    | some s1 => intro h; exact State.owe_sound h
  · have h := State.serve_sound (a1 := a1) (a2 := a2) h0
    revert h
    cases a0.serve a1 a2 with
    | wait => intro _; trivial
    | quiet s1 => intro h; exact h
    | reply s1 bs => intro h; exact State.answerNow_sound h0 h
    | ack s1 => intro h; exact State.answerNow_sound h0 h

theorem State.wantPage_sound {a0 a1} (h0 : a0.Sound T) : (State.wantPage a0 a1).Sound T := by
  unfold State.wantPage
  split
  · split
    · assumption
    · with_reducible apply State.missAdd_sound
      assumption
  · assumption

theorem State.requestIn_sound {a0 a1 a2} (h0 : a0.Sound T) : (State.requestIn a0 a1 a2).Sound T := by
  unfold State.requestIn
  extract_lets keep
  have hkeep : keep.Sound T := by
    assumption
  clear_value keep
  split
  · assumption
  · apply optGetD_sound
    · with_reducible apply State.takeReq_sound
      assumption
    · with_reducible apply State.wantPage_sound
      assumption

theorem Run.replyVal_sound {a0 a1 a2 a3} (h0 : a0.s.Sound T) : (Run.replyVal a0 a1 a2 a3).s.Sound T := by
  unfold Run.replyVal
  dsimp only
  split
  · assumption
  · with_reducible apply Run.write_sound
    assumption

theorem replyGo_sound {a0 a1 a2 a3} (h3 : a3.s.Sound T) : (replyGo a0 a1 a2 a3).s.Sound T := by
  induction a1 generalizing a0 a2 a3 h3 with
  | nil =>
    unfold replyGo
    assumption
  | cons x r ih =>
    unfold replyGo
    apply ih
    with_reducible apply Run.replyVal_sound
    assumption

theorem State.teamReply_sound {a0 a1 a2 a3 a4} (h0 : a0.Sound T) : (State.teamReply a0 a1 a2 a3 a4).Sound T := by
  unfold State.teamReply
  extract_lets r r1 r2 s1
  have hr : r.s.Sound T := by
    assumption
  have hr2 : r2.s.Sound T := by
    unfold r2
    split
    · assumption
    · assumption
    · with_reducible apply replyGo_sound
      assumption
  clear_value r r1 r2 s1
  split
  · with_reducible apply State.acquire_sound
    assumption
  · assumption

theorem State.opReply_sound {a0 a1 a2 a3} (h0 : a0.Sound T) : (State.opReply a0 a1 a2 a3).Sound T := by
  unfold State.opReply
  dsimp only
  split
  · assumption
  · split
    · split
      · with_reducible apply State.opMisuse_sound
        with_reducible apply State.putOp_sound
        assumption
      · with_reducible apply State.putOp_sound
        assumption
    · with_reducible apply State.putOp_sound
      assumption

theorem State.arriveReply_sound {a0 a1 a2} (h0 : a0.Sound T) : (State.arriveReply a0 a1 a2).Sound T := by
  unfold State.arriveReply
  extract_lets s1
  have hs1 : s1.Sound T := by
    assumption
  clear_value s1
  split
  · with_reducible apply State.opMisuse_sound
    assumption
  · assumption

theorem State.replyIn_sound {a0 a1} (h0 : a0.Sound T) : (State.replyIn a0 a1).Sound T := by
  unfold State.replyIn
  dsimp only
  split
  · with_reducible apply State.teamReply_sound
    assumption
  · split
    · with_reducible apply State.opReply_sound
      assumption
    · with_reducible apply State.arriveReply_sound
      assumption
    · split
      · assumption
      · split
        · assumption
        · assumption

theorem State.ackIn_sound {a0 a1} (h0 : a0.Sound T) : (State.ackIn a0 a1).Sound T := by
  unfold State.ackIn
  dsimp only
  split
  · with_reducible apply State.owe_sound
    dsimp only [State.Sound]
    apply State.Sound.fold
    assumption
  · dsimp only [State.Sound]
    apply State.Sound.fold
    assumption

theorem State.askAgain_sound {a0 a1 a2 a3 a4} (h0 : a0.Sound T) : (State.askAgain a0 a1 a2 a3 a4).Sound T := by
  unfold State.askAgain
  dsimp only
  split
  · assumption
  · split
    · split
      · split
        · with_reducible apply State.teamReply_sound
          refine Served.reply_of (by assumption) ?_
          with_reducible apply State.serve_sound
          assumption
        · refine Served.reply_of (by assumption) ?_
          with_reducible apply State.serve_sound
          assumption
      · split
        · with_reducible apply State.teamReply_sound
          refine Served.ack_of (by assumption) ?_
          with_reducible apply State.serve_sound
          assumption
        · refine Served.ack_of (by assumption) ?_
          with_reducible apply State.serve_sound
          assumption
      · refine Served.quiet_of (by assumption) ?_
        with_reducible apply State.serve_sound
        assumption
      · assumption
    · with_reducible apply State.send_sound
      with_reducible apply State.modTeam_sound
      assumption

theorem State.requestAgain_sound {a0 a1 a2 a3} (h0 : a0.Sound T) : (State.requestAgain a0 a1 a2 a3).Sound T := by
  unfold State.requestAgain
  split
  · assumption
  · split
    · with_reducible apply State.teamFatal_sound
      assumption
    · split
      · assumption
      · split
        · with_reducible apply State.askAgain_sound
          assumption
        · with_reducible apply State.missAdd_sound
          assumption

theorem State.requestMoved_sound {a0 a1 a2 a3} (h0 : a0.Sound T) : (State.requestMoved a0 a1 a2 a3).Sound T := by
  unfold State.requestMoved
  dsimp only
  split
  · with_reducible apply State.modTeam_sound
    assumption
  · assumption

theorem State.imprecise_sound {a0 a1 a2 a3} (h0 : a0.Sound T) : (State.imprecise a0 a1 a2 a3).Sound T := by
  unfold State.imprecise
  split
  · assumption
  · split
    · with_reducible apply State.fatal_sound
      assumption
    · with_reducible apply State.modTeam_sound
      assumption

theorem State.teamLost_sound {a0 a1 a2 a3} (h0 : a0.Sound T) : (State.teamLost a0 a1 a2 a3).Sound T := by
  unfold State.teamLost
  dsimp only
  split
  · assumption
  · split
    · with_reducible apply State.teamFatal_sound
      assumption
    · apply foldl_sound
      · intro _ _ _
        split
        · with_reducible apply State.askAgain_sound
          assumption
        · assumption
      · split
        · with_reducible apply State.imprecise_sound
          with_reducible apply State.modTeam_sound
          assumption
        · with_reducible apply State.modTeam_sound
          assumption

theorem State.opLost_sound {a0 a1 a2} (h0 : a0.Sound T) : (State.opLost a0 a1 a2).Sound T := by
  unfold State.opLost
  dsimp only
  split
  · with_reducible apply State.copyFault_sound
    assumption
  · assumption

theorem State.arrivalLost_sound {a0 a1 a2} (h1 : a1.Sound T) : (State.arrivalLost a0 a1 a2).Sound T := by
  unfold State.arrivalLost
  split
  · split
    · split
      · with_reducible apply State.opFault_sound
        assumption
      · assumption
    · assumption
  · assumption

theorem State.lose_sound {a0 a1} (h0 : a0.Sound T) : (State.lose a0 a1).Sound T := by
  unfold State.lose
  dsimp only
  apply foldl_sound
  · intro _ _ _
    exact State.fatal_sound (by assumption)
  · apply foldl_sound
    · intro _ _ _
      exact State.fatal_sound (by assumption)
    · apply foldl_sound
      · intro _ _ _
        exact State.arrivalLost_sound (by assumption)
      · apply foldl_sound
        · intro _ _ _
          split
          · exact State.opLost_sound (by assumption)
          · assumption
        · apply State.lostAsks_sound
          apply foldl_sound
          · intro _ _ _
            exact State.teamLost_sound (by assumption)
          · apply foldl_sound
            · intro _ _ _
              exact State.owe_sound (by assumption)
            · dsimp only [State.Sound]
              apply State.Sound.fold
              exact State.putPeer_sound h0

theorem State.loseFirst_sound {a0 a1} (h0 : a0.Sound T) : (State.loseFirst a0 a1).Sound T := by
  unfold State.loseFirst
  dsimp only
  with_reducible apply State.tellAll_sound
  with_reducible apply State.lose_sound
  assumption

theorem State.controlIn_sound {a0 a1 a2} (h0 : a0.Sound T) : (State.controlIn a0 a1 a2).Sound T := by
  unfold State.controlIn
  split
  · assumption
  · assumption
  · assumption
  · assumption
  · assumption
  · assumption
  · split
    · assumption
    · with_reducible apply State.lose_sound
      assumption
  · with_reducible apply State.quarantine_sound
    assumption
  · split
    · assumption
    · assumption
  · with_reducible apply State.transAsked_sound
    assumption
  · with_reducible apply State.transNone_sound
    assumption
  · with_reducible apply State.transFound_sound
    assumption
  · with_reducible apply State.gangLoad_sound
    assumption
  · with_reducible apply State.gangLoaded_sound
    assumption
  · with_reducible apply State.gangUnload_sound
    assumption
  · with_reducible apply State.pageOpIn_sound
    assumption
  · assumption
  · with_reducible apply State.pageLeafIn_sound
    assumption
  · with_reducible apply State.requestMoved_sound
    assumption

theorem State.deliverOne_sound {a0 a1 a2} (h0 : a0.Sound T) : (State.deliverOne a0 a1 a2).Sound T := by
  unfold State.deliverOne
  dsimp only
  split
  · with_reducible apply State.replyIn_sound
    with_reducible apply State.countRx_sound
    assumption
  · with_reducible apply State.ackIn_sound
    with_reducible apply State.countRx_sound
    assumption
  · with_reducible apply State.controlIn_sound
    with_reducible apply State.countRx_sound
    assumption
  · with_reducible apply State.requestIn_sound
    with_reducible apply State.countRx_sound
    assumption

theorem State.deliver_sound {a0 a1 a2} (h0 : a0.Sound T) : (State.deliver a0 a1 a2).Sound T := by
  unfold State.deliver
  dsimp only
  with_reducible apply State.deliverOne_sound
  split
  · with_reducible apply State.putPeer_sound
    assumption
  · with_reducible apply State.tellAll_sound
    with_reducible apply State.putPeer_sound
    assumption

theorem deliverGo_sound {a0 a1 a2} (h2 : a2.Sound T) : (deliverGo a0 a1 a2).Sound T := by
  induction a1 generalizing a0 a2 h2 with
  | zero =>
    unfold deliverGo
    assumption
  | succ n ih =>
    unfold deliverGo
    dsimp only
    split
    · assumption
    · apply ih
      with_reducible apply State.deliver_sound
      with_reducible apply State.putPeer_sound
      assumption

theorem State.receive_sound {a0 a1 a2} (h0 : a0.Sound T) : (State.receive a0 a1 a2).Sound T := by
  unfold State.receive
  dsimp only
  split
  · assumption
  · split
    · split
      · dsimp only [State.Sound]
        apply State.Sound.fold
        assumption
      · assumption
    · split
      · assumption
      · split
        · dsimp only [State.Sound]
          apply State.Sound.fold
          assumption
        · split
          · dsimp only [State.Sound]
            apply State.Sound.fold
            assumption
          · split
            · with_reducible apply deliverGo_sound
              with_reducible apply State.deliver_sound
              assumption
            · split
              · with_reducible apply State.putPeer_sound
                assumption
              · assumption

theorem execLinkRead_sound {a0 a1} (h1 : a1.Sound T) : OutSound T (execLinkRead a0 a1) := by
  unfold execLinkRead
  apply next_sound
  with_reducible apply State.receive_sound
  assumption

theorem execLinkWrite_sound {a0 a1} (h1 : a1.Sound T) : OutSound T (execLinkWrite a0 a1) := by
  unfold execLinkWrite
  apply next_sound
  with_reducible apply State.receive_sound
  assumption

theorem execLinkAtomic_sound {a0 a1} (h1 : a1.Sound T) : OutSound T (execLinkAtomic a0 a1) := by
  unfold execLinkAtomic
  apply next_sound
  with_reducible apply State.receive_sound
  assumption

theorem execLinkReply_sound {a0 a1} (h1 : a1.Sound T) : OutSound T (execLinkReply a0 a1) := by
  unfold execLinkReply
  apply next_sound
  with_reducible apply State.receive_sound
  assumption

theorem execLinkAck_sound {a0 a1} (h1 : a1.Sound T) : OutSound T (execLinkAck a0 a1) := by
  unfold execLinkAck
  apply next_sound
  with_reducible apply State.receive_sound
  assumption

theorem execLinkRpart_sound {a0 a1} (h1 : a1.Sound T) : OutSound T (execLinkRpart a0 a1) := by
  unfold execLinkRpart
  apply next_sound
  with_reducible apply State.receive_sound
  assumption

theorem execLinkControl_sound {a0 a1 a2} (h2 : a2.Sound T) : OutSound T (execLinkControl a0 a1 a2) := by
  unfold execLinkControl
  apply next_sound
  with_reducible apply State.receive_sound
  assumption

theorem owedGo_sound {a0 a1} (h1 : a1.Sound T) : (owedGo a0 a1).Sound T := by
  induction a0 generalizing a1 h1 with
  | nil =>
    unfold owedGo
    assumption
  | cons x r ih =>
    unfold owedGo
    apply ih
    with_reducible apply State.owe_sound
    assumption

theorem heldGo_sound {a0 a1} (h1 : a1.Sound T) : (heldGo a0 a1).Sound T := by
  induction a0 generalizing a1 h1 with
  | nil =>
    unfold heldGo
    assumption
  | cons x r ih =>
    unfold heldGo
    apply ih
    with_reducible apply State.requestIn_sound
    assumption

theorem State.settleLink_sound {a0} (h0 : a0.Sound T) : (State.settleLink a0).Sound T := by
  unfold State.settleLink
  extract_lets s1 s2
  have hs1 : s1.Sound T := by
    unfold s1
    with_reducible apply owedGo_sound
    assumption
  have hs2 : s2.Sound T := by
    unfold s2
    with_reducible apply heldGo_sound
    assumption
  clear_value s1 s2
  apply foldl_sound
  · intro _ _ _
    with_reducible apply State.requestAgain_sound
    assumption
  · assumption

theorem execRetransmitTimeout_sound {a0 a1 a2} (h2 : a2.Sound T) : OutSound T (execRetransmitTimeout a0 a1 a2) := by
  unfold execRetransmitTimeout
  apply next_sound
  dsimp only [State.Sound]
  apply State.Sound.fold
  assumption

theorem execPeerUnreachable_sound {a0 a1} (h1 : a1.Sound T) : OutSound T (execPeerUnreachable a0 a1) := by
  unfold execPeerUnreachable
  apply next_sound
  split
  · with_reducible apply State.loseFirst_sound
    assumption
  · assumption

theorem setPort_sound {a0 a1 a2} (h2 : a2.Sound T) : (setPort a0 a1 a2).Sound T := by
  unfold setPort
  dsimp only [State.Sound]
  apply State.Sound.fold
  assumption

theorem State.sendOut_sound {a0 a1 a2 a3 a4} (h0 : a0.Sound T) : (State.sendOut a0 a1 a2 a3 a4).Sound T := by
  unfold State.sendOut
  dsimp only
  split
  · with_reducible apply State.tellAll_sound
    with_reducible apply State.emit_sound
    dsimp only [State.Sound]
    apply State.Sound.fold
    assumption
  · with_reducible apply State.emit_sound
    split
    · with_reducible apply State.putPeer_sound
      dsimp only [State.Sound]
      apply State.Sound.fold
      assumption
    · dsimp only [State.Sound]
      apply State.Sound.fold
      assumption

theorem State.meet_sound {a0 a1} (h0 : a0.Sound T) : (State.meet a0 a1).Sound T := by
  unfold State.meet
  dsimp only
  split
  · assumption
  · apply foldl_sound
    · intro _ _ _
      with_reducible apply State.sendOut_sound
      assumption
    · split
      · assumption
      · with_reducible apply State.tellAll_sound
        assumption

theorem execRotorSlot_sound {a0} (h0 : a0.Sound T) : OutSound T (execRotorSlot a0) := by
  unfold execRotorSlot
  dsimp only
  apply next_sound
  split
  · assumption
  · apply foldl_sound
    · intro _ _ _
      with_reducible apply State.meet_sound
      assumption
    · dsimp only [State.Sound]
      apply State.Sound.fold
      assumption

theorem State.tellPort_sound {a0 a1} (h0 : a0.Sound T) : (State.tellPort a0 a1).Sound T := by
  unfold State.tellPort
  with_reducible apply State.tellAll_sound
  assumption

theorem execLightDetected_sound {a0 a1} (h1 : a1.Sound T) : OutSound T (execLightDetected a0 a1) := by
  unfold execLightDetected
  apply next_sound
  split
  · assumption
  · with_reducible apply setPort_sound
    assumption

theorem execPortTrained_sound {a0 a1 a2} (h2 : a2.Sound T) : OutSound T (execPortTrained a0 a1 a2) := by
  unfold execPortTrained
  dsimp only
  apply next_sound
  split
  · assumption
  · with_reducible apply State.tellPort_sound
    split
    · with_reducible apply setPort_sound
      assumption
    · dsimp only [State.Sound]
      apply State.Sound.fold
      with_reducible apply setPort_sound
      assumption

theorem execTrainTimeout_sound {a0 a1} (h1 : a1.Sound T) : OutSound T (execTrainTimeout a0 a1) := by
  unfold execTrainTimeout
  apply next_sound
  with_reducible apply setPort_sound
  assumption

theorem execFlitCrcFail_sound {a0 a1} (h1 : a1.Sound T) : OutSound T (execFlitCrcFail a0 a1) := by
  unfold execFlitCrcFail
  dsimp only
  apply next_sound
  split
  · assumption
  · split
    · with_reducible apply setPort_sound
      assumption
    · with_reducible apply State.tellPort_sound
      with_reducible apply setPort_sound
      assumption

theorem execLossOfLight_sound {a0 a1} (h1 : a1.Sound T) : OutSound T (execLossOfLight a0 a1) := by
  unfold execLossOfLight
  apply next_sound
  split
  · with_reducible apply State.tellPort_sound
    with_reducible apply setPort_sound
    assumption
  · assumption

theorem execPortRetrain_sound {a0 a1} (h1 : a1.Sound T) : OutSound T (execPortRetrain a0 a1) := by
  unfold execPortRetrain
  apply next_sound
  with_reducible apply setPort_sound
  assumption

theorem State.keyLoad_sound {a0 a1} (h0 : a0.Sound T) : OptSound T (State.keyLoad a0 a1) := by
  unfold State.keyLoad
  dsimp only
  split
  · exact none_sound
  · split
    · refine some_sound ?_
      with_reducible apply State.putPeer_sound
      assumption
    · split
      · exact none_sound
      · refine some_sound ?_
        dsimp only [State.Sound]
        apply State.Sound.fold
        with_reducible apply State.putPeer_sound
        assumption

theorem execLnkKeyld_sound {a0 a1} (h1 : a1.Sound T) : OutSound T (execLnkKeyld a0 a1) := by
  unfold execLnkKeyld
  dsimp only
  apply next_sound
  with_reducible apply State.hostAct_sound
  · assumption
  · intro _ _
    split
    · with_reducible apply State.hostPut_sound
      refine some_of (by assumption) ?_
      with_reducible apply State.keyLoad_sound
      with_reducible apply State.hostPut_sound
      assumption
    · with_reducible apply State.hostPut_sound
      with_reducible apply State.hostPut_sound
      assumption

theorem State.keyDrop_sound {a0 a1 a2 a3} (h0 : a0.Sound T) : (State.keyDrop a0 a1 a2 a3).Sound T := by
  unfold State.keyDrop
  dsimp only
  apply foldl_sound
  · intro _ _ _
    with_reducible apply State.imprecise_sound
    assumption
  · with_reducible apply State.modTeam_sound
    assumption

theorem State.keyExpire_sound {a0 a1} (h0 : a0.Sound T) : (State.keyExpire a0 a1).Sound T := by
  unfold State.keyExpire
  dsimp only
  split
  · split
    · assumption
    · dsimp only [State.Sound]
      apply State.Sound.fold
      apply foldl_sound
      · intro _ _ _
        with_reducible apply State.fatal_sound
        assumption
      · apply foldl_sound
        · intro _ _ _
          split
          · with_reducible apply State.copyFault_sound
            assumption
          · assumption
        · apply foldl_sound
          · intro _ _ _
            split
            · assumption
            · split
              · with_reducible apply State.teamFatal_sound
                assumption
              · with_reducible apply State.keyDrop_sound
                assumption
          · assumption
  · assumption

theorem execKeyExhaustTimeout_sound {a0 a1} (h1 : a1.Sound T) : OutSound T (execKeyExhaustTimeout a0 a1) := by
  unfold execKeyExhaustTimeout
  apply next_sound
  with_reducible apply State.keyExpire_sound
  assumption

/-! `Machine/HostOps.lean` -/

theorem State.fqTail_sound {a0 a1 a2} (h0 : a0.Sound T) : (State.fqTail a0 a1 a2).Sound T := by
  unfold State.fqTail
  dsimp only
  split
  · assumption
  · split
    · with_reducible apply State.fqCause_sound
      with_reducible apply State.putCtx_sound
      assumption
    · with_reducible apply State.putCtx_sound
      assumption

theorem execCtxFqWrite_sound {a0 a1 a2} (h2 : a2.Sound T) : OutSound T (execCtxFqWrite a0 a1 a2) := by
  unfold execCtxFqWrite
  apply next_sound
  split
  · with_reducible apply State.fqTail_sound
    assumption
  · assumption

theorem State.ctxPageWrite_sound {a0 a1 a2 a3} (h0 : a0.Sound T) : (State.ctxPageWrite a0 a1 a2 a3).Sound T := by
  unfold State.ctxPageWrite
  split
  · exact ⟨h0.1, h0.2.1, spWf_spPut 0 _ _ h0.2.2.1, h0.2.2.2⟩
  · split
    · exact State.submit_sound h0
    · split
      · exact h0
      · exact State.pageSubmit_sound h0

theorem State.apertureWrite_sound {a0 a1 a2} (h0 : a0.Sound T) : OutSound T (State.apertureWrite a0 a1 a2) := by
  unfold State.apertureWrite
  extract_lets c o
  clear_value c o
  by_cases k : a1 % 8 ≠ 0
  · rw [if_pos k]; exact h0
  rw [if_neg k]; clear k
  by_cases k : a1 = 0x10000
  · rw [if_pos k]; exact execQueWdraw_sound h0
  rw [if_neg k]; clear k
  by_cases k : a1 = 0x10008
  · rw [if_pos k]; exact execLnkKeyld_sound h0
  rw [if_neg k]; clear k
  by_cases k : (0x1000000 ≤ a1 && a1 < 0x1200000) = true
  · rw [if_pos k]
    by_cases k1 : o = 0x80
    · rw [if_pos k1]; exact execCtxFqWrite_sound h0
    rw [if_neg k1]
    by_cases k2 : (o ≤ 56 || o = 0x40) = true
    · rw [if_pos k2]
      exact State.hostAct_sound h0 (fun s h => State.ctxPageWrite_sound h)
    rw [if_neg k2]; exact h0
  rw [if_neg k]; clear k
  by_cases k : (!a0.hostOpen) = true
  · rw [if_pos k]; exact h0
  rw [if_neg k]; clear k
  by_cases k : a1 = 0x28
  · rw [if_pos k]; exact State.memErrClear_sound h0
  rw [if_neg k]; clear k
  by_cases k : (0x400000 ≤ a1 && a1 < 0x408000) = true
  · rw [if_pos k]
    apply next_sound
    split
    · exact State.putQueue_sound h0
    · exact h0
  rw [if_neg k]; exact h0

theorem execHostRegisterWrite_sound {a0 a1 a2} (h2 : a2.Sound T) : OutSound T (execHostRegisterWrite a0 a1 a2) := by
  unfold execHostRegisterWrite
  with_reducible apply State.apertureWrite_sound
  assumption

theorem State.bar4Write_sound {a0 a1 a2} (h0 : a0.Sound T) : (State.bar4Write a0 a1 a2).Sound T :=
  h0.setDram (foldl_wf (fun _ _ h => spWf_spSet 0 _ _ h) _ h0.1)

theorem execHostMemoryWrite_sound {a0 a1 a2} (h2 : a2.Sound T) : OutSound T (execHostMemoryWrite a0 a1 a2) := by
  unfold execHostMemoryWrite
  apply next_sound
  split
  · with_reducible apply State.bar4Write_sound
    assumption
  · assumption

theorem execHostMemoryRead_sound {a0 a1 a2} (h2 : a2.Sound T) : OutSound T (execHostMemoryRead a0 a1 a2) := by
  unfold execHostMemoryRead
  apply next_sound
  split
  · with_reducible apply State.emit_sound
    dsimp only [State.Sound]
    apply State.Sound.fold
    assumption
  · assumption

theorem execMgmtIdent_sound {a0 a1} (h1 : a1.Sound T) : OutSound T (execMgmtIdent a0 a1) := by
  unfold execMgmtIdent
  apply next_sound
  split
  · with_reducible apply State.emit_sound
    assumption
  · assumption

theorem execMgmtSetid_sound {a0 a1 a2} (h2 : a2.Sound T) : OutSound T (execMgmtSetid a0 a1 a2) := by
  unfold execMgmtSetid
  apply next_sound
  split
  · exact h2
  · split
    · rename_i h
      simp only [Bool.and_eq_true, decide_eq_true_eq] at h
      exact ⟨h2.1, h2.2.1, h2.2.2.1, h.1.1, h2.2.2.2.2⟩
    · exact State.emit_sound h2

theorem State.restart_sound {a0} (h0 : a0.Sound T) : (State.restart a0).Sound T :=
  ⟨rfl, h0.2.1, rfl, rfl, Nat.zero_le _, Nat.zero_le _, show (1 : BitVec 32) ≠ 0 by decide, Nat.le_refl _, Or.inl (Nat.zero_le _), h0.2.2.2.2.2.2.2.2.2⟩

/-- Only the boot stage differs. -/
theorem State.Sound.setStage {a : State} {k : Nat} (h0 : a.Sound T) (h : k ≤ 4 ∨ k = 7) :
    MInv T a.dram a.hostMem a.reqBytes a.idSet a.pkg a.memCe a.memUe a.featGen a.clockMode k a.tai :=
  ⟨h0.1, h0.2.1, h0.2.2.1, h0.2.2.2.1, h0.2.2.2.2.1, h0.2.2.2.2.2.1, h0.2.2.2.2.2.2.1, h0.2.2.2.2.2.2.2.1, h, h0.2.2.2.2.2.2.2.2.2⟩

theorem State.bootNext_sound {a0 a1} (h0 : a0.Sound T) : (State.bootNext a0 a1).Sound T := by
  unfold State.bootNext
  split
  · exact h0.setStage (k := 1) (by decide)
  · split
    · exact h0.setStage (k := 7) (by decide)
    · exact h0.setStage (k := 2) (by decide)
  · exact h0.setStage (k := 3) (by decide)
  · exact h0.setStage (k := 4) (by decide)
  · exact h0

theorem State.bootSome_sound {a0} (h0 : a0.Sound T) : (State.bootSome a0).Sound T := by
  unfold State.bootSome
  split
  · assumption
  · dsimp only
    split
    · with_reducible apply State.bootNext_sound
      with_reducible apply State.freeValue_sound
      assumption
    · with_reducible apply State.freeValue_sound
      assumption

theorem nextGen_ne (g : BitVec 32) : nextGen g ≠ 0 := by
  unfold nextGen
  split
  · decide
  · rename_i h
    intro e
    apply h
    have : g = 0 - 1 := by rw [← e, BitVec.add_sub_cancel]
    rw [this]; decide

theorem State.Sound.setGen {s : State} {g : BitVec 32} (h : s.Sound T) (hg : g ≠ 0) :
    MInv T s.dram s.hostMem s.reqBytes s.idSet s.pkg s.memCe s.memUe g s.clockMode s.bootStage s.tai :=
  ⟨h.1, h.2.1, h.2.2.1, h.2.2.2.1, h.2.2.2.2.1, h.2.2.2.2.2.1, hg, h.2.2.2.2.2.2.2⟩

theorem State.boot_sound {a0 a1} (h0 : a0.Sound T) : (State.boot a0 a1).Sound T := by
  unfold State.boot
  exact h0

theorem State.resetBoot_sound {a0 a1} (h0 : a0.Sound T) : (State.resetBoot a0 a1).Sound T := by
  unfold State.resetBoot
  split
  · assumption
  · with_reducible apply State.boot_sound
    with_reducible apply State.restart_sound
    assumption

theorem execPowerUp_sound {a0 a1} (h1 : a1.Sound T) : OutSound T (execPowerUp a0 a1) := by
  unfold execPowerUp
  apply next_sound
  with_reducible apply State.boot_sound
  with_reducible apply State.restart_sound
  assumption

theorem execPerst_sound {a0 a1} (h1 : a1.Sound T) : OutSound T (execPerst a0 a1) := by
  unfold execPerst
  apply next_sound
  with_reducible apply State.resetBoot_sound
  assumption

theorem execHotReset_sound {a0 a1} (h1 : a1.Sound T) : OutSound T (execHotReset a0 a1) := by
  unfold execHotReset
  apply next_sound
  with_reducible apply State.resetBoot_sound
  assumption

theorem execFunctionLevelReset_sound {a0 a1} (h1 : a1.Sound T) : OutSound T (execFunctionLevelReset a0 a1) := by
  unfold execFunctionLevelReset
  apply next_sound
  with_reducible apply State.resetBoot_sound
  assumption

theorem execMgmtReset_sound {a0 a1 a2} (h2 : a2.Sound T) : OutSound T (execMgmtReset a0 a1 a2) := by
  unfold execMgmtReset
  apply next_sound
  split
  · with_reducible apply State.resetBoot_sound
    assumption
  · assumption

theorem execFwWatchdogExpiry_sound {a0 a1} (h1 : a1.Sound T) : OutSound T (execFwWatchdogExpiry a0 a1) := by
  unfold execFwWatchdogExpiry
  apply next_sound
  split
  · dsimp only [State.Sound]
    apply State.Sound.fold
    assumption
  · assumption

theorem State.recovered_sound {a0} (h0 : a0.Sound T) : (State.recovered a0).Sound T := by
  unfold State.recovered
  dsimp only [State.Sound]
  apply State.Sound.fold
  assumption

theorem State.preemptAll_sound {a0 a1} (h0 : a0.Sound T) : (State.preemptAll a0 a1).Sound T := by
  unfold State.preemptAll
  apply foldl_sound
  · intro _ _ _
    with_reducible apply State.startPolite_sound
    assumption
  · assumption

theorem execFirmwareUpdate_sound {a0} (h0 : a0.Sound T) : OutSound T (execFirmwareUpdate a0) := by
  unfold execFirmwareUpdate
  apply next_sound
  split
  · exact h0
  · exact State.preemptAll_sound ((State.freeValue_sound h0).setGen (nextGen_ne _))

theorem State.preemptResuming_sound {a0 a1} (h0 : a0.Sound T) : (State.preemptResuming a0 a1).Sound T := by
  unfold State.preemptResuming
  assumption

theorem State.remakeRoutes_sound {a0} (h0 : a0.Sound T) : (State.remakeRoutes a0).Sound T := by
  unfold State.remakeRoutes
  apply foldl_sound
  · intro _ _ _
    split
    · with_reducible apply State.fillRoutes_sound
      assumption
    · assumption
  · assumption

theorem State.replaceCore_sound {a0 a1} (h0 : a0.Sound T) : (State.replaceCore a0 a1).Sound T := by
  have h1 : (a0.l1Clean a1 (fun _ => true)).Sound T := State.l1Clean_sound h0
  unfold State.replaceCore
  dsimp only
  generalize a0.l1Clean a1 (fun _ => true) = s1 at h1 ⊢
  have hy : s1.freeValue.2.Sound T := State.freeValue_sound h1
  cases s1.spares.filter (fun p => p.1 = dieOf a1) with
  | nil => exact State.remakeRoutes_sound (h1.setGen (nextGen_ne _))
  | cons p r => exact State.remakeRoutes_sound (hy.setGen (nextGen_ne _))

theorem State.settleRetiring_sound {a0} (h0 : a0.Sound T) : (State.settleRetiring a0).Sound T := by
  unfold State.settleRetiring
  apply foldl_sound
  · intro _ _ _
    split
    · assumption
    · with_reducible apply State.replaceCore_sound
      assumption
  · assumption

theorem execCoreRetirement_sound {a0 a1} (h1 : a1.Sound T) : OutSound T (execCoreRetirement a0 a1) := by
  unfold execCoreRetirement
  apply next_sound
  split
  · assumption
  · with_reducible apply State.settleRetiring_sound
    with_reducible apply State.preemptResuming_sound
    with_reducible apply State.preemptAll_sound
    assumption

theorem State.unpowered_sound {a0} (h0 : a0.Sound T) : (State.unpowered a0).Sound T := by
  unfold State.unpowered
  dsimp only
  dsimp only [State.Sound]
  apply State.Sound.fold
  with_reducible apply State.restart_sound
  assumption

theorem execThermalWarning_sound {a0} (h0 : a0.Sound T) : OutSound T (execThermalWarning a0) := by
  unfold execThermalWarning
  apply next_sound
  split
  · assumption
  · dsimp only [State.Sound]
    apply State.Sound.fold
    assumption

theorem execThermalTrip_sound {a0} (h0 : a0.Sound T) : OutSound T (execThermalTrip a0) := by
  unfold execThermalTrip
  apply next_sound
  split
  · assumption
  · with_reducible apply State.unpowered_sound
    assumption

theorem execPkgOverChange_sound {a0 a1} (h1 : a1.Sound T) : OutSound T (execPkgOverChange a0 a1) := by
  unfold execPkgOverChange
  apply next_sound
  split
  · assumption
  · dsimp only [State.Sound]
    apply State.Sound.fold
    assumption

theorem execD3hotEntry_sound {a0} (h0 : a0.Sound T) : OutSound T (execD3hotEntry a0) := by
  unfold execD3hotEntry
  apply next_sound
  split
  · assumption
  · split
    · with_reducible apply State.emit_sound
      assumption
    · dsimp only [State.Sound]
      apply State.Sound.fold
      assumption

theorem execD0Return_sound {a0} (h0 : a0.Sound T) : OutSound T (execD0Return a0) := by
  unfold execD0Return
  apply next_sound
  split
  · dsimp only [State.Sound]
    apply State.Sound.fold
    assumption
  · assumption

theorem execPowerLoss_sound {a0} (h0 : a0.Sound T) : OutSound T (execPowerLoss a0) := by
  unfold execPowerLoss
  apply next_sound
  with_reducible apply State.unpowered_sound
  assumption

theorem State.countCe_sound {a0} (h0 : a0.Sound T) : (State.countCe a0).Sound T :=
  ⟨h0.1, h0.2.1, h0.2.2.1, h0.2.2.2.1, Nat.min_le_left _ _, h0.2.2.2.2.2⟩

theorem State.countUe_sound {a0} (h0 : a0.Sound T) : (State.countUe a0).Sound T :=
  ⟨h0.1, h0.2.1, h0.2.2.1, h0.2.2.2.1, h0.2.2.2.2.1, Nat.min_le_left _ _, h0.2.2.2.2.2.2⟩

theorem State.addBad_sound {a0 a1} (h0 : a0.Sound T) : (State.addBad a0 a1).Sound T := by
  unfold State.addBad
  split
  · assumption
  · assumption

theorem State.strike_sound {a0 a1} (h0 : a0.Sound T) : (State.strike a0 a1).Sound T := by
  unfold State.strike
  split
  · split
    · assumption
    · dsimp only
      split
      · with_reducible apply State.addBad_sound
        assumption
      · with_reducible apply State.countCe_sound
        assumption
  · extract_lets v
    have hv : v.Sound T := by
      unfold v
      with_reducible apply State.countUe_sound
      assumption
    clear_value v
    assumption
  · split
    · assumption
    · split
      · with_reducible apply State.countUe_sound
        assumption
      · split
        · with_reducible apply State.evictEntry_sound
          with_reducible apply State.countUe_sound
          assumption
        · with_reducible apply State.putDir_sound
          with_reducible apply State.countUe_sound
          assumption
  · with_reducible apply State.addBad_sound
    assumption

theorem execSoftError_sound {a0 a1} (h1 : a1.Sound T) : OutSound T (execSoftError a0 a1) := by
  unfold execSoftError
  dsimp only
  apply next_sound
  split
  · assumption
  · split
    · with_reducible apply State.countCe_sound
      with_reducible apply State.freeValue_sound
      assumption
    · with_reducible apply State.strike_sound
      with_reducible apply State.freeValue_sound
      assumption

theorem execScrubbing_sound {a0 a1} (h1 : a1.Sound T) : OutSound T (execScrubbing a0 a1) := by
  unfold execScrubbing
  apply next_sound
  split
  · with_reducible apply State.countUe_sound
    assumption
  · assumption

/-! `Machine/Schedule.lean` -/

theorem State.evictSome_sound {a0} (h0 : a0.Sound T) : (State.evictSome a0).Sound T := by
  unfold State.evictSome
  dsimp only
  apply foldl_sound
  · intro _ _ _
    split
    · assumption
    · dsimp only [State.Sound]
      apply State.Sound.fold
      with_reducible apply State.l1Drop_sound
      with_reducible apply State.l1Clean_sound
      assumption
  · assumption

theorem State.settleFirmware_sound {a0} (h0 : a0.Sound T) : (State.settleFirmware a0).Sound T := by
  unfold State.settleFirmware
  dsimp only
  split
  · assumption
  · split
    · with_reducible apply State.recovered_sound
      with_reducible apply State.freeValue_sound
      assumption
    · with_reducible apply State.freeValue_sound
      assumption

theorem State.endWaits_sound {a0} (h0 : a0.Sound T) : (State.endWaits a0).Sound T := by
  unfold State.endWaits
  dsimp only [State.Sound]
  apply State.Sound.fold
  assumption

theorem State.settleHalts_sound {a0} (h0 : a0.Sound T) : (State.settleHalts a0).Sound T := by
  unfold State.settleHalts
  apply foldl_sound
  · intro _ _ _
    with_reducible apply State.haltTeam_sound
    assumption
  · assumption

theorem State.fillBuffers_sound {a0} (h0 : a0.Sound T) : (State.fillBuffers a0).Sound T := by
  unfold State.fillBuffers
  assumption

theorem State.tick_sound {a0} (h0 : a0.Sound T) : (State.tick a0).Sound T := by
  unfold State.tick
  extract_lets s0 s1 s2
  have hs0 : s0.Sound T := State.endWaits_sound h0
  clear_value s0
  have hs1 : s1.Sound T := State.settleFirmware_sound (State.bootSome_sound (State.evictSome_sound (State.pass_sound hs0)))
  clear_value s1
  have hs2 : s2.Sound T := State.settleLinkage_sound (State.settleHalts_sound (State.tryArrivals_sound (State.settleOps_sound (State.settleAlloc_sound
    (State.settleLink_sound (State.settleRetiring_sound hs1))))))
  clear_value s2
  exact State.fillBuffers_sound (foldl_sound (fun _ _ h => State.settlePages_sound (State.settleCtx_sound h)) _ hs2)

theorem State.codeWait_sound {a0 a1 a2} (h0 : a0.Sound T) : (State.codeWait a0 a1 a2).Sound T := by
  unfold State.codeWait
  split
  · refine Demand.done_of (by assumption) ?_
    with_reducible apply State.demandPages_sound
    assumption
  · refine Demand.wait_of (by assumption) ?_
    with_reducible apply State.demandPages_sound
    assumption
  · refine Demand.fatal_of (by assumption) ?_
    with_reducible apply State.demandPages_sound
    assumption

theorem State.fetchFails_sound {a0 a1 a2 a3 a4 a5} (h0 : a0.Sound T) : (State.fetchFails a0 a1 a2 a3 a4 a5).Sound T := by
  unfold State.fetchFails
  dsimp only
  split
  · with_reducible apply State.codeWait_sound
    assumption
  · with_reducible apply State.teamFatal_sound
    assumption

theorem State.offCode_sound {a0 a1 a2 a3} (h0 : a0.Sound T) : (State.offCode a0 a1 a2 a3).Sound T := by
  unfold State.offCode
  dsimp only
  with_reducible apply State.teamFatal_sound
  assumption

theorem State.nextOf_sound {a0 a1 a2} (h0 : a0.Sound T) : Next.Sound T (State.nextOf a0 a1 a2) := by
  unfold State.nextOf
  split
  · assumption
  · split
    · apply Next.state_sound
      with_reducible apply State.offCode_sound
      assumption
    · split
      · split
        · split
          · apply Next.instr_sound
          · split
            · apply Next.instr_sound
            · apply Next.state_sound
              with_reducible apply State.fetchFails_sound
              assumption
        · apply Next.state_sound
          with_reducible apply State.fetchFails_sound
          assumption
      · split
        · apply Next.state_sound
          with_reducible apply State.teamFatal_sound
          assumption
        · split
          · split
            · apply Next.instr_sound
            · apply Next.state_sound
              with_reducible apply State.offCode_sound
              assumption
          · apply Next.state_sound
            with_reducible apply State.fetchFails_sound
            assumption

theorem State.choose_sound {a0} (h0 : a0.Sound T) : (State.choose a0).2.Sound T := by
  unfold State.choose
  dsimp only
  split
  · assumption
  · assumption
  · with_reducible apply State.freeValue_sound
    assumption

theorem State.idle_sound {a0} (h0 : a0.Sound T) : (State.idle a0).Sound T := by
  unfold State.idle
  dsimp only [State.Sound]
  apply State.Sound.fold
  assumption

theorem State.pick_sound2 {a0} (h0 : a0.Sound T) : Next.Sound T ((State.pick a0).2) := by
  unfold State.pick
  split
  · dsimp only
    with_reducible apply State.nextOf_sound
    assumption
  · extract_lets x
    have hx : x.2.Sound T := by
      unfold x
      with_reducible apply State.choose_sound
      assumption
    clear_value x
    split
    · assumption
    · dsimp only
      apply Next.instr_sound
    · extract_lets s1
      have hs1 : s1.Sound T := by
        assumption
      clear_value s1
      split
      · dsimp only
        with_reducible apply State.nextOf_sound
        assumption
      · assumption

theorem State.pick_sound {a0} (h0 : a0.Sound T) : (State.pick a0).1.Sound T := by
  unfold State.pick
  dsimp only
  split
  · assumption
  · split
    · with_reducible apply State.choose_sound
      with_reducible apply State.idle_sound
      assumption
    · with_reducible apply State.choose_sound
      with_reducible apply State.idle_sound
      assumption
    · split
      · dsimp only [State.Sound]
        apply State.Sound.fold
        with_reducible apply State.choose_sound
        with_reducible apply State.idle_sound
        assumption
      · dsimp only [State.Sound]
        apply State.Sound.fold
        with_reducible apply State.choose_sound
        with_reducible apply State.idle_sound
        assumption

theorem settled_sound {o} (h : OutSound T o) : OutSound T (settled o) := by
  cases o with
  | next s => exact State.idle_sound h
  | fault _ => trivial
  | refused _ => trivial

/-- What comes next is sound, too, where it is a state. -/
theorem State.pick_next_sound {a0} (h0 : a0.Sound T) : (State.pick a0).2.Sound T := by
  have hc : a0.idle.choose.2.Sound T := State.choose_sound (State.idle_sound h0)
  unfold State.pick
  split
  · exact State.nextOf_sound h0
  · dsimp only
    split
    · exact hc
    · trivial
    · split
      · exact State.nextOf_sound hc
      · exact hc

end Sys2Proof.Machine
end

