-- ==== Sys2Proof/Tests/Slice0.lean ====
section
/-! SUPPORT. Checks of this model's own reading: encodings written out by hand, single steps, and witnesses for the premises of the statements. -/
set_option maxRecDepth 20000
set_option Elab.async false
namespace Sys2Proof.Tests

open Sys2Proof Sys2Proof.Machine

/-! A small package: one context with two pages, one core, one workgroup of one team of two threads. -/

def tPage : Leaf :=
  { va := 2 ^ 24, sz := 0, w := true, x := false, res := true, mig := false, mir := false, conf := false, d := false, zf := false, frame := 2 ^ 20,
    home := 5, peer := 0, slot := none, hostFrame := false, heldStores := [] }
def tTeam : Team := { Team.fresh 0 0 0 2 probeText [5, 0, 0x1000000, 0] false with st := .ready, fstat := 2 }
/-- Two stream records: register 0 reads, register 1 writes four words from the base in s2:s3. -/
def tRecord (q dir : Nat) : List Byte :=
  natBytes 8 (q + dir * 2 ^ 8 + 2 * 2 ^ 16 + 2 ^ 24 + 4 * 2 ^ 32) ++ natBytes 8 2 ++ natBytes 16 (4 + 2 ^ 32 + 2 ^ 64 + 2 ^ 96) ++ natBytes 32 4
def tObj : CodeObj :=
  { probeObj (leBytes 8 0x5800780000000000) with kernels := natBytes 64 (2 * 2 ^ 240), streams := tRecord 0 0 ++ tRecord 1 1 }
def tStream (write : Bool) : Stream :=
  { bound := true, base := 2 ^ 24, pos := 0, buf := [], copy := none, total := 4, write := write, esz := 2 }
def tWg : Workgroup := { probeWg [] with priv := 64, sw := 1024, scratch := [(4, 9)], teamSize := 2, teams := [tTeam] }
/-- Its node, with a feed of three words at the base of the page. -/
def tNode : Node :=
  { id := 0, ctx := 0, queue := 0, ticket := 0, stamp := 0, prio := 0, stage := 5, kind := .launch, packet := natBytes 128 (2 ^ 24 * 2 ^ 448 + 3 * 2 ^ 512), tag := 7,
    compl := 0, cscope := 0, irq := false, pred := 0, succs := [], obj := 0, kernel := 0, triple := none, nextWgx := 1, nextNbx := 0, startDie := none, args := [],
    feat := 1, dir := none, dirGen := 0, running := 1, halted := false, passedOver := 0, entered := [], outcome := none, loading := none }
/-- Its queue, of 4096 bytes in the same page, with one packet not yet parsed. -/
def tQueue : Queue :=
  { id := 3, ctx := 0, st := .active, log2sz := 12, prio := 1, base := 2 ^ 24 + 4096, widx := 64, ridx := 0, ticket := 4, ridxAddr := 0, err := 0, eoff := 0, msix := 9,
    lostC := false, lostR := false, seq := 2, withdrawn := [], doneTickets := [], cdone := 4, publish := none }
def tDir : DirEntry :=
  { id := 0, identity := 0, off := 0, version := 0, st := .translated, gen := 1, kernel := true, prof := [], lastUse := 0, spill := 0, asked := [], reserved := false }
/-- The tables above the first pages (R396): one of each level, each entry 0 naming the next. -/
def tTables : List Table :=
  [⟨3, 2 ^ 22, [(0, nextWord (2 ^ 22 + 2 ^ 13))]⟩, ⟨2, 2 ^ 22 + 2 ^ 13, [(0, nextWord (2 ^ 22 + 2 ^ 14))]⟩,
   ⟨1, 2 ^ 22 + 2 ^ 14, [(0, nextWord (2 ^ 22 + 3 * 2 ^ 13))]⟩, ⟨0, 2 ^ 22 + 3 * 2 ^ 13, []⟩]
def tCtx : Context := { newContext 0 0 [] with pages := [tPage], tables := tTables, dq := 4096, doorbell := 2 ^ 40 }
def tState : State :=
  { State.reset.placeCode (leBytes 8 0x5800780000000000) with
    pkg := 5, idSet := true, cores := [newCore 0 1], contexts := [tCtx], objects := [tObj], wgs := [tWg], nodes := [tNode], dir := [tDir], dram := [(2 ^ 20, 7), (2 ^ 20 + 1, 1)] }
/-- The package with its team changed. -/
def tWith (t : Team) : State := { tState with wgs := [tWg.putTeam t] }
/-- Its team with both streams bound. -/
def tBound : Team := (tTeam.setStream 0 (tStream false)).setStream 1 (tStream true)
/-- And with one thread active. -/
def tOne : Team := { tBound with masks := [1] }

theorem mkIssuing {s : State} {w : Workgroup} {t : Team} {pc : Nat} (h1 : s.issuer = some (w, t)) (h2 : t.leadPc = some pc) (h3 : t.pendFaults = [])
    (h4 : t.nat.started = false) (h5 : t.nat.deferring = false) (h6 : t.awaits = none) : Issuing s w t pc := ⟨h1, h2, h3, ⟨h4, h5⟩, h6⟩

theorem test_issuing : Issuing tState tWg tTeam probeText := mkIssuing rfl rfl rfl rfl rfl rfl
theorem test_fresh : Fresh tTeam := ⟨rfl, rfl, by decide⟩
theorem test_reset_step : (match step (State.reset.withFetchWord 64 0) with | .next _ => true | _ => false) = true := by decide

/-! Words written out from R59 to R66 and R84, one for each portable operation; the operands take in registers above 4095, negative immediates, predicates and every special class. -/

def decodeAll (l : List (BitVec 64 × Option (BitVec 64))) : List Instr := l.map (fun x => decodeWords x.1 x.2)

theorem test_words_arithmetic :
    decodeAll [(0x000078001804C000, none),
      (0x012178001400BFFD, none),
      (0x01C8F91700E20006, some 0x3100000000000),
      (0x0240F80010008003, some 0x2014),
      (0x02C8F80080008004, some 0x201F),
      (0x031978001000B007, none),
      (0x03A8780080008004, none),
      (0x0440F80010010006, some 0x1),
      (0x04A0F80010008003, some 0x8000000000003000),
      (0x0520780010008003, none),
      (0x05C8780080008004, none),
      (0x0610780010008000, none),
      (0x06A9780080008000, none),
      (0x0730780010008003, none),
      (0x07B8780010008003, none),
      (0x0820F80010008003, some 0x4),
      (0x08B0F80010008003, some 0x4),
      (0x0900780010008003, none),
      (0x0988780080008004, none),
      (0x0A0078001000BFFF, none),
      (0x0A80780010008000, none),
      (0x0B08780080008004, none),
      (0x0B8078001000B01F, none),
      (0x0C08780080009003, none),
      (0x0C80780010008003, none),
      (0x0D08780080008003, none),
      (0x0D80780010008003, none),
      (0x0E00780010008000, none),
      (0x0E88780010008000, none),
      (0x0F00780010008000, none),
      (0x0F88780080008000, none),
      (0x1020F8001000B003, some 0x3008),
      (0x1080F80010008003, some 0x3209),
      (0x1160F80010008003, some 0x2017),
      (0x11AB7A012000BFFB, none),
      (0x1208F90044008001, some 0x3002),
      (0x1F20F80070004002, some 0x3),
      (0x2061780010008003, none),
      (0x20E8780080008004, none),
      (0x2152780010008003, none)] = [
      .mov (plainEnc 0 0 false (.v 1) (.p 3) (.v 0) (.v 0)),
      .add (plainEnc 4 1 false (.v 1) (.s 2) (.imm (-3)) (.v 0)),
      .sub (plainEnc 9 0 true (.s 70000) (.v 5000) (.v 6) (.v 0)),
      .addc (plainEnc 8 0 true (.v 1) (.v 2) (.v 3) (.p 4)),
      .subb (plainEnc 9 0 true (.v 8) (.v 2) (.v 4) (.p 15)),
      .mul (plainEnc 3 1 false (.v 1) (.v 2) (.imm 7) (.v 0)),
      .mulhi (plainEnc 5 0 false (.v 8) (.v 2) (.v 4) (.v 0)),
      .mad (plainEnc 8 0 true (.v 1) (.v 4) (.v 6) (.v 1)),
      .madhi (plainEnc 4 0 true (.v 1) (.v 2) (.v 3) (.imm (-65536))),
      .div (plainEnc 4 0 false (.v 1) (.v 2) (.v 3) (.v 0)),
      .rem (plainEnc 9 0 false (.v 8) (.v 2) (.v 4) (.v 0)),
      .neg (plainEnc 2 0 false (.v 1) (.v 2) (.v 0) (.v 0)),
      .abs (plainEnc 5 1 false (.v 8) (.v 2) (.v 0) (.v 0)),
      .min (plainEnc 6 0 false (.v 1) (.v 2) (.v 3) (.v 0)),
      .max (plainEnc 7 0 false (.v 1) (.v 2) (.v 3) (.v 0)),
      .clamp (plainEnc 4 0 true (.v 1) (.v 2) (.v 3) (.v 4)),
      .sad (plainEnc 6 0 true (.v 1) (.v 2) (.v 3) (.v 4)),
      .and (plainEnc 0 0 false (.v 1) (.v 2) (.v 3) (.v 0)),
      .or (plainEnc 1 0 false (.v 8) (.v 2) (.v 4) (.v 0)),
      .xor (plainEnc 0 0 false (.v 1) (.v 2) (.imm (-1)) (.v 0)),
      .not (plainEnc 0 0 false (.v 1) (.v 2) (.v 0) (.v 0)),
      .andn (plainEnc 1 0 false (.v 8) (.v 2) (.v 4) (.v 0)),
      .shl (plainEnc 0 0 false (.v 1) (.v 2) (.imm 31) (.v 0)),
      .shr (plainEnc 1 0 false (.v 8) (.v 2) (.s 3) (.v 0)),
      .sar (plainEnc 0 0 false (.v 1) (.v 2) (.v 3) (.v 0)),
      .rotl (plainEnc 1 0 false (.v 8) (.v 2) (.v 3) (.v 0)),
      .rotr (plainEnc 0 0 false (.v 1) (.v 2) (.v 3) (.v 0)),
      .clz (plainEnc 0 0 false (.v 1) (.v 2) (.v 0) (.v 0)),
      .ctz (plainEnc 1 0 false (.v 1) (.v 2) (.v 0) (.v 0)),
      .popc (plainEnc 0 0 false (.v 1) (.v 2) (.v 0) (.v 0)),
      .brev (plainEnc 1 0 false (.v 8) (.v 2) (.v 0) (.v 0)),
      .bfe (plainEnc 4 0 true (.v 1) (.v 2) (.imm 3) (.imm 8)),
      .bfi (plainEnc 0 0 true (.v 1) (.v 2) (.v 3) (.imm 521)),
      .sel (plainEnc 12 0 true (.v 1) (.v 2) (.v 3) (.p 7)),
      .setp (plainEnc 5 3 false (.p 2) (.v 2) (.imm (-5)) (.v 0)),
      .lea (plainEnc 1 0 true (.s 4) (.s 2) (.v 1) (.imm 2)),
      .mad24 (plainEnc 4 0 true (.v 7) (.v 1) (.v 2) (.v 3)),
      .fadd (plainEnc 12 1 false (.v 1) (.v 2) (.v 3) (.v 0)),
      .fsub (plainEnc 13 0 false (.v 8) (.v 2) (.v 4) (.v 0)),
      .fmul (plainEnc 10 2 false (.v 1) (.v 2) (.v 3) (.v 0))] := by decide +kernel

theorem test_words_float_and_control :
    decodeAll [(0x21F0F80010008003, some 0x4),
      (0x2261780010008003, none),
      (0x22F8780010008003, none),
      (0x2360780010008000, none),
      (0x23E8780080008000, none),
      (0x2460780010008003, none),
      (0x24E77A0110008003, none),
      (0x2560780010008000, none),
      (0x25E3780010008000, none),
      (0x2660780010008000, none),
      (0x26E8780080008000, none),
      (0x2760780010008000, none),
      (0x27D8780010008003, none),
      (0x2860780010008000, none),
      (0x28D0780010008000, none),
      (0x2960780010008000, none),
      (0x29D8780010008000, none),
      (0x2A60780010008000, none),
      (0x2AE078001000BFF7, none),
      (0x2B60780010008000, none),
      (0x3EE0780050004000, none),
      (0x4100F80010008003, some 0x4),
      (0x41F0F80010008003, some 0x4),
      (0x420CF80010008003, some 0x4),
      (0x4280F80010008003, some 0x4),
      (0x4314780010008000, none),
      (0x500078000FFF8000, none),
      (0x5088780000008000, none),
      (0x5100F8000C020000, some 0x0),
      (0x5188780004050000, none),
      (0x5200780000000000, none),
      (0x5280780000000000, none),
      (0x530078000401700A, none),
      (0x5380780000000000, none),
      (0x5400780000000000, none),
      (0x5480780000000000, none),
      (0x5500780000000000, none),
      (0x5581780008048000, none),
      (0x5600780000000000, none),
      (0x5680780000000000, none)] = [
      .fma (plainEnc 14 0 true (.v 1) (.v 2) (.v 3) (.v 4)),
      .fmin (plainEnc 12 1 false (.v 1) (.v 2) (.v 3) (.v 0)),
      .fmax (plainEnc 15 0 false (.v 1) (.v 2) (.v 3) (.v 0)),
      .fabs (plainEnc 12 0 false (.v 1) (.v 2) (.v 0) (.v 0)),
      .fneg (plainEnc 13 0 false (.v 8) (.v 2) (.v 0) (.v 0)),
      .fsgn (plainEnc 12 0 false (.v 1) (.v 2) (.v 3) (.v 0)),
      .fsetp (plainEnc 12 7 false (.p 1) (.v 2) (.v 3) (.v 0)),
      .fclass (plainEnc 12 0 false (.v 1) (.v 2) (.v 0) (.v 0)),
      .frnd (plainEnc 12 3 false (.v 1) (.v 2) (.v 0) (.v 0)),
      .frcp (plainEnc 12 0 false (.v 1) (.v 2) (.v 0) (.v 0)),
      .frsq (plainEnc 13 0 false (.v 8) (.v 2) (.v 0) (.v 0)),
      .fsqrt (plainEnc 12 0 false (.v 1) (.v 2) (.v 0) (.v 0)),
      .fdiv (plainEnc 11 0 false (.v 1) (.v 2) (.v 3) (.v 0)),
      .fexp2 (plainEnc 12 0 false (.v 1) (.v 2) (.v 0) (.v 0)),
      .flog2 (plainEnc 10 0 false (.v 1) (.v 2) (.v 0) (.v 0)),
      .fsin (plainEnc 12 0 false (.v 1) (.v 2) (.v 0) (.v 0)),
      .fcos (plainEnc 11 0 false (.v 1) (.v 2) (.v 0) (.v 0)),
      .ftanh (plainEnc 12 0 false (.v 1) (.v 2) (.v 0) (.v 0)),
      .fscale (plainEnc 12 0 false (.v 1) (.v 2) (.imm (-9)) (.v 0)),
      .fexpo (plainEnc 12 0 false (.v 1) (.v 2) (.v 0) (.v 0)),
      .frcpa (plainEnc 12 0 false (.v 5) (.v 1) (.v 0) (.v 0)),
      .prm (plainEnc 0 0 true (.v 1) (.v 2) (.v 3) (.v 4)),
      .dot2 (plainEnc 14 0 true (.v 1) (.v 2) (.v 3) (.v 4)),
      .dot4 (plainEnc 1 4 true (.v 1) (.v 2) (.v 3) (.v 4)),
      .dot8 (plainEnc 0 0 true (.v 1) (.v 2) (.v 3) (.v 4)),
      .lcdec (plainEnc 2 4 false (.v 1) (.v 2) (.v 0) (.v 0)),
      .bra (plainEnc 0 0 false (.v 0) (.imm (-2)) (.v 0) (.v 0)),
      .brx (plainEnc 1 0 false (.v 0) (.v 2) (.v 0) (.v 0)),
      .call (plainEnc 0 0 true (.v 0) (.imm 8) (.v 0) (.v 0)),
      .callx (plainEnc 1 0 false (.v 0) (.s 20) (.v 0) (.v 0)),
      .ret (plainEnc 0 0 false (.v 0) (.v 0) (.v 0) (.v 0)),
      .exit (plainEnc 0 0 false (.v 0) (.v 0) (.v 0) (.v 0)),
      .loop (plainEnc 0 0 false (.v 0) (.s 5) (.imm 10) (.v 0)),
      .endloop (plainEnc 0 0 false (.v 0) (.v 0) (.v 0) (.v 0)),
      .yield (plainEnc 0 0 false (.v 0) (.v 0) (.v 0) (.v 0)),
      .reconv (plainEnc 0 0 false (.v 0) (.v 0) (.v 0) (.v 0)),
      .rjoin (plainEnc 0 0 false (.v 0) (.v 0) (.v 0) (.v 0)),
      .mpush (plainEnc 0 1 false (.v 0) (.p 2) (.v 0) (.v 0)),
      .minv (plainEnc 0 0 false (.v 0) (.v 0) (.v 0) (.v 0)),
      .mpop (plainEnc 0 0 false (.v 0) (.v 0) (.v 0) (.v 0))] := by decide +kernel

theorem test_words_access_and_copy :
    decodeAll [(0x570078000C018000, none),
      (0x57817A0130000000, none),
      (0x5800780000000000, none),
      (0x588078000C134000, none),
      (0x590078000C320000, none),
      (0x6000780010008003, none),
      (0x6088780080008004, none),
      (0x610078001000B005, none),
      (0x61C0780020021000, none),
      (0x6220780010008000, none),
      (0x62807900C8048000, none),
      (0x63017A0118048000, none),
      (0x6388780010008000, none),
      (0x6403780000000000, none),
      (0x6480780010000000, none),
      (0x400078001000B04C, none),
      (0x4080F800A0008004, some 0x361B),
      (0x6869F8004400B010, some 0x302C),
      (0x68A0F8007400B000, some 0x3004),
      (0x6960F80064010001, some 0xC0003004),
      (0x69A0F80074008001, some 0x3004),
      (0x6A20F80074009005, some 0x3004),
      (0x6AA0F80074009005, some 0x3004),
      (0x6B03F80060020009, some 0x31F4),
      (0x6BC0F8000400B000, some 0x3004),
      (0x6C04F80000000000, some 0x3028),
      (0x6C81F8000400B040, some 0x3004),
      (0x6D00F8000400B040, some 0x3004),
      (0x6D80F8000400B040, some 0x3004),
      (0x6E0078000808C000, none),
      (0x6E807800080BC000, none),
      (0x8005FA103403100E, some 0x3004),
      (0x80887A1044028000, none),
      (0x81087A1050028000, none),
      (0x81887A11F4028000, none),
      (0x82087A1004040000, none),
      (0x82887A1014080000, none),
      (0x8300780008404000, none),
      (0x8382790038404000, none),
      (0x9000780004050000, none)] = [
      .bzm (plainEnc 0 0 false (.v 0) (.imm 6) (.v 0) (.v 0)),
      .dqpop (plainEnc 0 1 false (.p 3) (.v 0) (.v 0) (.v 0)),
      .nop (plainEnc 0 0 false (.v 0) (.v 0) (.v 0) (.v 0)),
      .brk (plainEnc 0 0 false (.v 0) (.imm 77) (.v 0) (.v 0)),
      .trap (plainEnc 0 0 false (.v 0) (.imm 200) (.v 0) (.v 0)),
      .xprev (plainEnc 0 0 false (.v 1) (.v 2) (.v 3) (.v 0)),
      .xnext (plainEnc 1 0 false (.v 8) (.v 2) (.v 4) (.v 0)),
      .xbcast (plainEnc 0 0 false (.v 1) (.v 2) (.imm 5) (.v 0)),
      .xscan (plainEnc 8 0 false (.v 2) (.v 8) (.s 0) (.v 0)),
      .xred (plainEnc 4 0 false (.v 1) (.v 2) (.v 0) (.v 0)),
      .ballot (plainEnc 0 0 false (.s 12) (.p 2) (.v 0) (.v 0)),
      .vote (plainEnc 0 1 false (.p 1) (.p 2) (.v 0) (.v 0)),
      .xmatch (plainEnc 1 0 false (.v 1) (.v 2) (.v 0) (.v 0)),
      .tidx (plainEnc 0 3 false (.v 0) (.v 0) (.v 0) (.v 0)),
      .actc (plainEnc 0 0 false (.v 1) (.v 0) (.v 0) (.v 0)),
      .cvt (plainEnc 0 0 false (.v 1) (.v 2) (.imm 76) (.v 0)),
      .pack (plainEnc 0 0 true (.v 10) (.v 2) (.v 4) (.imm 1563)),
      .ld (plainEnc 13 1 true (.v 4) (.s 2) (.imm 16) (.imm 44)),
      .st (plainEnc 4 0 true (.v 7) (.s 2) (.imm 0) (.imm 4)),
      .ldg { plainEnc 12 0 true (.v 6) (.s 4) (.v 1) (.imm 4) with hint := 3 },
      .stsc (plainEnc 4 0 true (.v 7) (.s 2) (.v 1) (.imm 4)),
      .cst (plainEnc 4 0 true (.v 7) (.s 2) (.s 5) (.imm 4)),
      .exl (plainEnc 4 0 true (.v 7) (.s 2) (.s 5) (.imm 4)),
      .atom (plainEnc 0 3 true (.v 6) (.v 8) (.v 9) (.imm 500)),
      .red (plainEnc 8 0 true (.v 0) (.s 2) (.imm 0) (.imm 4)),
      .fence (plainEnc 0 4 true (.v 0) (.v 0) (.v 0) (.imm 40)),
      .pf (plainEnc 0 1 true (.v 0) (.s 2) (.imm 64) (.imm 4)),
      .cinv (plainEnc 0 0 true (.v 0) (.s 2) (.imm 64) (.imm 4)),
      .cwb (plainEnc 0 0 true (.v 0) (.s 2) (.imm 64) (.imm 4)),
      .sbind (plainEnc 0 0 false (.v 0) (.q 3) (.v 0) (.v 0)),
      .sclose (plainEnc 0 0 false (.v 0) (.q 15) (.v 0) (.v 0)),
      .cpy (plainEnc 0 5 true (.tk 3) (.s 12) (.s 14) (.imm 4)),
      .cpyt (plainEnc 1 0 false (.tk 4) (.s 10) (.v 0) (.v 0)),
      .cpyg (plainEnc 1 0 false (.tk 5) (.v 10) (.v 0) (.v 0)),
      .ringpush (plainEnc 1 0 false (.tk 31) (.s 10) (.v 0) (.v 0)),
      .kvpatch (plainEnc 1 0 false (.tk 0) (.s 16) (.v 0) (.v 0)),
      .rerot (plainEnc 1 0 false (.tk 1) (.s 32) (.v 0) (.v 0)),
      .cwait (plainEnc 0 0 false (.v 0) (.tk 1) (.v 0) (.v 0)),
      .cstat (plainEnc 0 2 false (.s 3) (.tk 1) (.v 0) (.v 0)),
      .fmt (plainEnc 0 0 false (.v 0) (.s 20) (.v 0) (.v 0))] := by decide +kernel

theorem test_words_press_and_system :
    decodeAll [(0x908178000C001014, none),
      (0x9100FA10581C6073, some 0x2080),
      (0x9180780008414000, none),
      (0x9201790038414000, none),
      (0x92807A0FFC00C000, none),
      (0x9360FA0804013100, some 0x3004),
      (0x93E3FA0804013100, some 0x3004),
      (0x9460FA0814011006, some 0x3004),
      (0x94807A072C001004, none),
      (0x95017900381C8000, none),
      (0xA000780008103007, none),
      (0xA0807A00081BF001, none),
      (0xA100780008108004, none),
      (0xA18078003810B001, none),
      (0xA2017A103810B000, none),
      (0xA280780008108000, none),
      (0xA3007A0138108005, none),
      (0xA80878004C205001, none),
      (0xA88078004C08B000, none),
      (0xA909790080000000, none),
      (0xA980F80000013001, some 0x3000),
      (0xAA0178003C008000, none),
      (0xAA887A1024050000, none),
      (0xAB007A0004094000, none),
      (0xAB8A790040000000, none),
      (0xAC01780000000000, none),
      (0xAC88780004010000, none)] = [
      .nestw (plainEnc 0 1 false (.v 0) (.imm 0) (.s 20) (.v 0)),
      .pgo (plainEnc 0 0 true (.tk 5) (.ring 1) (.ring 3) (.vt 0)),
      .pwait (plainEnc 0 0 false (.v 0) (.tk 5) (.v 0) (.v 0)),
      .pstat (plainEnc 0 1 false (.s 3) (.tk 5) (.v 0) (.v 0)),
      .vclr (plainEnc 0 0 false (.vt 127) (.imm 3) (.v 0) (.v 0)),
      .vld (plainEnc 12 0 true (.vt 0) (.s 4) (.imm 256) (.imm 4)),
      .vst (plainEnc 12 3 true (.vt 0) (.s 4) (.imm 256) (.imm 4)),
      .vacc (plainEnc 12 0 true (.vt 1) (.s 4) (.s 6) (.imm 4)),
      .ringinit (plainEnc 0 0 false (.ring 2) (.imm 0) (.s 4) (.v 0)),
      .ringstat (plainEnc 0 1 false (.s 3) (.ring 2) (.v 0) (.v 0)),
      .binit (plainEnc 0 0 false (.v 0) (.bar 0) (.imm 7) (.v 0)),
      .barr (plainEnc 0 0 false .zero (.bar 47) (.imm 1) (.v 0)),
      .bwait (plainEnc 0 0 false (.v 0) (.bar 2) (.v 4) (.v 0)),
      .bsync (plainEnc 0 0 false (.v 3) (.bar 2) (.imm 1) (.v 0)),
      .blink (plainEnc 0 1 false (.tk 3) (.bar 2) (.imm 0) (.v 0)),
      .binv (plainEnc 0 0 false (.v 0) (.bar 2) (.v 0) (.v 0)),
      .btest (plainEnc 0 0 false (.p 3) (.bar 2) (.v 5) (.v 0)),
      .srd (plainEnc 1 0 false (.v 4) (.imm 129) (.s 1) (.v 0)),
      .swr (plainEnc 0 0 false (.v 4) (.imm 34) (.imm 0) (.v 0)),
      .clk (plainEnc 1 1 false (.s 8) (.v 0) (.v 0) (.v 0)),
      .nsend (plainEnc 0 0 true (.v 0) (.v 4) (.imm 1) (.imm 0)),
      .nrecv (plainEnc 0 1 false (.v 3) (.imm 2) (.v 0) (.v 0)),
      .rpart (plainEnc 1 0 false (.tk 2) (.s 20) (.v 0) (.v 0)),
      .wdraw (plainEnc 0 0 false .zero (.s 37) (.v 0) (.v 0)),
      .prof (plainEnc 1 2 false (.s 4) (.v 0) (.v 0) (.v 0)),
      .halt (plainEnc 0 1 false (.v 0) (.v 0) (.v 0) (.v 0)),
      .sleep (plainEnc 1 0 false (.v 0) (.s 4) (.v 0) (.v 0))] := by decide +kernel

/-- `movi` with its literal; the retired words; and a word of no operation. -/
theorem test_words_special :
    decodeAll [(0x0088F90080000000, some 5), (0x0080F80010000001, some 0xFFFFFFFF), (0x7F04780010000004, none), (0x9F00780000000000, none), (0xA780780000000000, none), (0x9580780000000000, none)] = [
      .movi (plainEnc 1 0 true (.s 8) (.v 0) (.v 0) (.v 0)) 5, .trapStubIssue 0x0080F80010000001 (some 0xFFFFFFFF), .ldsh 0x7F04780010000004 none, .pmma 0x9F00780000000000 none,
      .bwt 0xA780780000000000 none, .trapStubIssue 0x9580780000000000 none] := by decide +kernel

/-- R99, R102: a clause header with STOP, COMMIT, no SETA or SETB flag, NB = 1 and SIDX = 7, and a bundle whose slot 0 moves gm1.r1 to gf3 with no guard and whose others are empty. -/
theorem test_words_native :
    headerOf 0x7000000000000000000BFF000 =
      { wait := 0, setA := 15, setB := 15, stop := true, commit := true, idem := false, nb := 1, uni := 0, ctlOp := 0, ctlG := 0, ctlGN := false, ctlV := false, ctlImm := 0, sidx := 7 } ∧
    moveOf 0x0F01C0C001 =
      { sidx := 1, ssub := 0, sport := 0, didx := 3, dsub := 3, dport := 1, sel := 0, grd := 15, gn := false, w := 0, rsv := false } := by decide

/-- R3, R58: bytes least significant first; an extension word taken from the eight after; nothing of a word cut short. -/
theorem test_decode_bytes :
    decode (leBytes 8 0x5800780000000000) = some (.nop (plainEnc 0 0 false (.v 0) (.v 0) (.v 0) (.v 0)), []) ∧ (leBytes 8 0x5800780000000000).take 1 = [0] ∧
    decode (leBytes 8 0x0440F80010001006) = none ∧ decode (leBytes 7 0x5800780000000000) = none ∧
    (decode (leBytes 8 0x0440F80010001006 ++ leBytes 8 1 ++ [9])).map Prod.snd = some [9] := by decide +kernel

/-! Terms that the checks of well-formedness refuse, one for each check. -/

def tAdd : Enc := plainEnc 4 0 false (.v 1) (.v 2) (.v 3) (.v 0)

theorem test_wf_portable_refuses :
    (Instr.add tAdd).wf = true ∧
    ∀ i ∈ [Instr.add { tAdd with ty := 0 }, .add { tAdd with var := 2 }, .add { tAdd with d := .p 1 }, .add { tAdd with a := .tk 1 }, .add { tAdd with b := .zero }, .add { tAdd with c := .v 1 },
        .add { tAdd with gn := true }, .add { tAdd with a := .v 4096 }, .add { tAdd with b := .imm 2048 }, .add { tAdd with selA := 1 }, .add { tAdd with hint := 1 },
        .add { tAdd with ty := 5 }, .add { tAdd with ext := true, selA := 1 }, .add { tAdd with ty := 3, ext := true, selB := 4 }, .add { tAdd with ty := 2, ext := true, b := .imm 1, selB := 1 },
        .mad { tAdd with c := .v 1 }, .binv (plainEnc 0 0 false (.v 0) (.bar 48) (.v 0) (.v 0)), .lea (plainEnc 1 0 true (.s 4) (.s 2) (.v 1) (.imm 8)),
        .ld (plainEnc 4 0 true (.v 1) (.s 2) (.imm 0) (.imm 5)), .ld (plainEnc 4 0 true (.v 1) (.s 2) (.imm 0) (.imm 68)), .atom (plainEnc 2 0 true (.v 1) (.s 2) (.v 3) (.imm 4)),
        .red (plainEnc 0 0 true (.v 0) (.s 2) (.v 3) (.imm 388)), .vld (plainEnc 1 0 true (.vt 0) (.s 2) (.imm 64) (.imm 4)), .srd (plainEnc 0 0 false (.v 1) (.imm 0x200) (.imm 0) (.v 0)),
        .srd (plainEnc 0 0 false (.v 1) (.imm 1) (.imm 0) (.v 0)), .fmt (plainEnc 0 0 false (.v 0) (.v 1) (.v 0) (.v 0)), .cvt (plainEnc 0 0 false (.v 1) (.v 2) (.imm 2047) (.v 0)),
        .pack (plainEnc 0 0 true (.v 10) (.v 3) (.v 4) (.imm 0)), .movi (plainEnc 1 0 true (.s 7) (.v 0) (.v 0) (.v 0)) 0, .movi (plainEnc 0 0 false (.s 8) (.v 0) (.v 0) (.v 0)) 0,
        .ldsh 0x7F04F80010000004 none, .ldsh 0x5800780000000000 none, .pmma 0x5800780000000000 none, .bwt 0x9F00780000000000 none, .trapStubIssue 0x5800780000000000 none, .trapStubIssue 0x9580F80000000000 none],
      i.wf = false := by decide +kernel

def tHead : ClauseHeader := headerOf 0x7000000000000000000BFF000
def tMove : Move := moveOf 0x0F01C0C001

theorem test_wf_native_refuses :
    wfHeader tHead = true ∧ wfMove tMove = true ∧
    (∀ h ∈ [{ tHead with setA := 12 }, { tHead with setB := 14 }, { tHead with commit := false, idem := true, sidx := 0 }, { tHead with uni := 4 }, { tHead with ctlV := true, ctlG := 15, ctlGN := true },
        { tHead with ctlOp := 1 }, { tHead with ctlImm := 1 }, { tHead with commit := false }], wfHeader h = false) ∧
    (∀ m ∈ [{ tMove with rsv := true }, { tMove with gn := true }, { tMove with sidx := 255 }, { tMove with ssub := 1 }, { tMove with sport := 6, ssub := 2 }, { tMove with sport := 7, sidx := 16 },
        { tMove with sport := 8, ssub := 1 }, { tMove with sport := 11 }, { tMove with sport := 15, ssub := 1 }, { tMove with dport := 10, didx := 255 }, { tMove with dport := 9, didx := 16 }, { tMove with dport := 12 }],
      wfMove m = false) ∧
    (Instr.clauseStart { tHead with setA := 12 }).wf = false ∧
    (let z : Slot := .lit 0; (Instr.bundleIssue { s0 := z, s1 := z, s2 := z, s3 := z, s4 := z, s5 := .move { tMove with rsv := true }, lmw := 0 }).wf = false) := by decide +kernel

/-! Single steps, against the worked examples of the spec. -/

/-- The package with registers of thread 0 as given, the other thread not active. -/
def tRegs (l : List (Nat × BitVec 32)) : State :=
  tWith { tTeam with fstat := 0, masks := [1], threads := [{ (tTeam.thread 0) with v := l }, tTeam.thread 1] }
/-- The team after a step. -/
def tAfter (i : Instr) (s : State) : Option Team :=
  match exec i s with
  | .next s1 => (s1.teamOf 0 0).map Prod.snd
  | _ => none

/-- 04_opcode_map.md, "a retired code and a trapped one": the result, and one count for the issue in slot 1 of the ladder. -/
theorem test_mad24 :
    (let s := tRegs [(1, 0x01800002), (2, 0x00FFFFFF), (3, 10)]; let i := Instr.mad24 (plainEnc 4 0 true (.v 7) (.v 1) (.v 2) (.v 3))
     (tAfter i s).map (fun t => (t.vGet 0 7, t.vGet 1 7)) = some (0x00800008, 0) ∧
     (match exec i s with | .next s1 => (s1.getCtx 0).map (fun x => x.ladder.take 3) | _ => none) = some [0, 1, 0]) := by decide +kernel

/-- The same: the trap stub of `ldsh` counts in slot 2 and discards the context with ILLEGAL_ENCODING, sub-code 1. -/
theorem test_ldsh :
    (match exec (.ldsh 0x7F04780010000004 none) (tRegs []) with
     | .next s1 => (s1.getCtx 0).map (fun x => (x.ladder.take 3, x.st, x.cause.map (fun r => (r.cls, r.sub))))
     | _ => none) = some ([0, 0, 1], .faulted, some (3, 1)) := by decide +kernel

/-- 06_thread.md, "narrowing with `pack`, and a conversion encoding". -/
theorem test_pack :
    (tAfter (.pack (plainEnc 0 0 true (.v 10) (.v 3) (.v 4) (.imm 0x61B))) (tRegs [(3, 0x5FD03C00), (4, 0x7E00AE66)])).map (fun t => (t.vGet 0 10, t.fstat)) = some (0x7F9D7E38, 0x34) := by
  decide +kernel

/-- The same: −3.7 truncates to −3 and raises NX. -/
theorem test_cvt :
    (tAfter (.cvt (plainEnc 0 1 false (.v 1) (.v 2) (.imm 0x4C) (.v 0))) (tRegs [(2, 0xC06CCCCD)])).map (fun t => (t.vGet 0 1, t.fstat)) = some (0xFFFFFFFD, 0x10) := by decide +kernel

/-- 02_numbers.md: the weights of LC8 index 0x0A5B, as E4M3 bytes. -/
theorem test_lc8 : (List.range 8).map (fun j => lcWeight 0x0A5B (j + 1)) = [0xB0, 0x30, 0xB0, 0xB0, 0x30, 0xBC, 0x30, 0xBC] := by decide +kernel

/-- 02_numbers.md, "the two rule sets differ": one K-step of BF16 products 2^24, 1, 1, 1 under NBV 1 and NBV 2. -/
theorem test_macElem :
    (let x : List Byte := natBytes 128 (0x4580 + 0x3F80 * 2 ^ 16 + 0x3F80 * 2 ^ 32 + 0x3F80 * 2 ^ 48)
     (macElem 0x33 1 x x 0 0 0, macElem 0x33 2 x x 0 0 0)) = ((0x4B800001, 0x10), (0x4B800002, 0x10)) := by decide +kernel

/-- 10_press.md, "a BF16 product cut between steps": offsets, tiles and pops of its four steps. -/
theorem test_nest :
    (let b : PressBody := { rows := [[2, 1, 0, 1, 2, 0, 0, 0], [2, 2, 1, 0, 0, 0, 0, 0]], pfmt := 0x33, cbase := 0, ringA := 2, ringB := 3, headA := 0, headB := 0, popsA := 0, popsB := 0,
                            next := 0, wbase := 0, doneBits := 0, started := [], total := 4 }
     (List.range 4).map (fun s => (b.offA s, b.offB s, b.tile s, b.popA s, b.popB s))) =
      [(0, 0, 0, true, false), (1, 0, 1, true, true), (2, 1, 0, true, false), (3, 1, 1, true, true)] := by decide +kernel

/-- 17_link.md: packages 4 and 9 meet where 12p + s = 13, and package 4 idles where 12p + s = 8. -/
theorem test_meeting : meetAt 4 9 = 13 ∧ meetAt 9 4 = 13 ∧ meetAt 4 4 = 8 := by decide

/-! Witnesses: a state and operands that meet the premises of each statement. -/

theorem witness_inv : tState.Inv :=
  ⟨by decide, by decide, by decide, by decide, by decide, by decide, by decide, by decide, by decide⟩

/-- `StepKeepsInvariant`, `TaiNeverDecreases`: a state with the invariant whose step answers a next state. -/
theorem witness_step : tState.Inv ∧ ∃ t, step tState = .next t := ⟨witness_inv, _, rfl⟩

/-- `StepGoesOn`. -/
theorem witness_stepGoesOn : tState.agenda = [] := rfl

/-- `StepRunsAgendaOrChoice`: an agenda; the package choosing an action, a team, and nothing. -/
theorem witness_agendaOrChoice :
    (∃ i rest, ({ tState with agenda := [.workgroupDone 0] } : State).agenda = i :: rest) ∧
    (let s : State := { tState with cur := none, wgs := [], nodes := [], passDue := true };
      s.agenda = [] ∧ s.named = none ∧ ∃ i s1, s.idle.choose = (some (.act i), s1)) ∧
    (let s : State := { tState with cur := none, nodes := [] };
      s.agenda = [] ∧ s.named = none ∧ ∃ u k s1, s.idle.choose = (some (.team u k), s1)) ∧
    (State.reset.agenda = [] ∧ State.reset.named = none ∧ ∃ s1, State.reset.idle.choose = (none, s1)) :=
  ⟨⟨_, _, rfl⟩, ⟨rfl, rfl, _, _, rfl⟩, ⟨rfl, rfl, _, _, _, rfl⟩, ⟨rfl, rfl, _, rfl⟩⟩

/-- A package whose team stands at given code. -/
def tCode (bs : List Byte) : State :=
  { State.reset.placeCode bs with pkg := 5, idSet := true, cores := [newCore 0 1], wgs := [tWg] }

/-- `StepRunsPortable`: an instruction whose direct targets are word 0 addresses, a `bra` to the middle of nothing, and code found to hold a reserved code. -/
theorem witness_stepPortable :
    (∃ o bs rest i, let s := tState
      s.agenda = [] ∧ s.named = some (tWg, tTeam) ∧ tTeam.leadPc = some probeText ∧ s.objAt tWg.ctx probeText = some o ∧ o.native = false ∧
      s.foundReserved o probeText = false ∧ s.fetchInstr o (probeText - o.text) = .bytes bs ∧ decode bs = some (i, rest) ∧ o.directOk probeText i = true) ∧
    (∃ o bs rest i w0 x, let s := tCode (leBytes 8 0x500078000C004000)
      s.agenda = [] ∧ s.named = some (tWg, tTeam) ∧ tTeam.leadPc = some probeText ∧ s.objAt tWg.ctx probeText = some o ∧ o.native = false ∧
      s.foundReserved o probeText = false ∧ s.fetchInstr o (probeText - o.text) = .bytes bs ∧ decode bs = some (i, rest) ∧ o.directOk probeText i = false ∧ encodeWords i = some (w0, x)) ∧
    (∃ o, let s : State := { tState with dir := [{ tDir with reserved := true }] }
      s.agenda = [] ∧ s.named = some (tWg, tTeam) ∧ s.objAt tWg.ctx probeText = some o ∧ o.native = false ∧ s.foundReserved o probeText = true) :=
  ⟨⟨_, _, _, _, rfl, rfl, rfl, rfl, rfl, rfl, rfl, rfl, rfl⟩, ⟨_, _, _, _, _, _, rfl, rfl, rfl, rfl, rfl, rfl, rfl, rfl, rfl, rfl⟩, ⟨_, rfl, rfl, rfl, rfl, rfl⟩⟩

/-- A native team at a clause of two bundles of zeros. -/
def tNatObj : CodeObj := { probeObj (leBytes 16 0x7000000000000000000BFF000 ++ leBytes 64 0) with native := decide (1 = 1) }
def tNat (started : Bool) : Team := { tTeam with nat := { tTeam.nat with started := started, pc := probeText, mask := 3 } }
def tNative (started : Bool) : State :=
  { tState with objects := [tNatObj], codePages := [{ identity := 0, page := 0, bytes := some tNatObj.image }], wgs := [tWg.putTeam (tNat started)] }

/-- `StepRunsNative`: at the header, and at the first bundle. -/
theorem witness_stepNative :
    (∃ o hb, let s := tNative false
      s.agenda = [] ∧ s.named = some (tWg.putTeam (tNat false), tNat false) ∧ (tNat false).leadPc = some probeText ∧
      s.objAt 0 probeText = some o ∧ o.native = true ∧ s.fetchBytes o (probeText - o.text) 16 = .bytes hb ∧ (tNat false).nat.started = false) ∧
    (∃ o hb bb, let s := tNative true
      s.agenda = [] ∧ s.named = some (tWg.putTeam (tNat true), tNat true) ∧ (tNat true).leadPc = some probeText ∧
      s.objAt 0 probeText = some o ∧ o.native = true ∧ s.fetchBytes o (probeText - o.text) 16 = .bytes hb ∧ (tNat true).nat.started = true ∧
      s.fetchBytes o (probeText - o.text + 16 + 32 * (tNat true).nat.bundle) 32 = .bytes bb) :=
  ⟨⟨_, _, rfl, rfl, rfl, rfl, rfl, rfl, rfl⟩, ⟨_, _, _, rfl, rfl, rfl, rfl, rfl, rfl, rfl, rfl⟩⟩

/-- `PortableRoundTrip` and `WordsRoundTrip`. -/
theorem witness_roundTrips :
    (Instr.nop (plainEnc 0 0 false (.v 0) (.v 0) (.v 0) (.v 0))).wf = true ∧
    (encodeWords (.nop (plainEnc 0 0 false (.v 0) (.v 0) (.v 0) (.v 0)))).isSome = true ∧
    wfWords 0x5800780000000000 none = true ∧ wfWords 0x1F20F80070004002 (some 3) = true := by decide

/-- `DecodedAndRejectedWords`: a code with no operation, a guard field 31, and each of the trapped and removed codes. -/
theorem witness_rejected :
    ctorOf (Legal.opField 0xFF80780000000000) = none ∧ Legal.opField 0xFF80780000000000 ∉ [0x001, 0x0FE, 0x13E, 0x14F] ∧
    Legal.bits 46 42 0x58007C0000000000 = 31 ∧ Legal.opField 0x58007C0000000000 ∉ [0x0FE, 0x13E, 0x14F] ∧
    Legal.opField 0x7F04780010000004 = 0x0FE ∧ Legal.opField 0x9F00780000000000 = 0x13E ∧ Legal.opField 0xA780780000000000 = 0x14F := by decide

/-- `ArithmeticCompletes`, `ArithmeticFrame`, and the results of `IntegerResults`, `BitResults` and `SignAndMinMaxResults`: an issue whose parts all
read their operands, with a register, an immediate and a predicate, at the first and last type of each class. -/
theorem witness_arithmetic :
    (∀ ty ∈ [0, 1, 9], ∃ op e f t', e.ty = ty ∧ aluOf tState tWg (.add (plainEnc ty 0 true (.v 3) (.s 0) (.imm 7) (.v 0))) = some (op, e, f) ∧
      noStream e.d = true ∧ noStream e.a = true ∧ noStream e.b = true ∧ noStream e.c = true ∧
      aluParts op e f ((starts tState tWg tTeam probeText e).units (uniform op e)) (starts tState tWg tTeam probeText e).t = some t') ∧
    (∀ ty ∈ [10, 15], ∃ op e f t', e.ty = ty ∧ aluOf tState tWg (.fneg (plainEnc ty 0 true (.v 4) (.s 0) (.v 0) (.v 0))) = some (op, e, f) ∧
      noStream e.d = true ∧
      aluParts op e f ((starts tState tWg tTeam probeText e).units (uniform op e)) (starts tState tWg tTeam probeText e).t = some t') ∧
    tTeam.fmask = 0 ∧ tTeam.pend = none ∧ tTeam.threads.length ≤ 32 ∧ (starts tState tWg tTeam probeText (plainEnc 0 0 true (.v 3) (.s 0) (.imm 7) (.v 0))).parts = [0, 1] := by
  refine ⟨?_, ?_, rfl, rfl, by decide, rfl⟩
  · intro ty h
    simp only [List.mem_cons, List.not_mem_nil, or_false] at h
    rcases h with rfl | rfl | rfl <;> exact ⟨_, _, _, _, rfl, rfl, rfl, rfl, rfl, rfl, rfl⟩
  · intro ty h
    simp only [List.mem_cons, List.not_mem_nil, or_false] at h
    rcases h with rfl | rfl <;> exact ⟨_, _, _, _, rfl, rfl, rfl, rfl⟩

/-- `ArithmeticWaitsAndAppends`: a read stream with no element yet; a write stream with room. -/
theorem witness_streams :
    Issuing (tWith tBound) (tWg.putTeam tBound) tBound probeText ∧ Issuing (tWith tOne) (tWg.putTeam tOne) tOne probeText ∧
    (let e := plainEnc 0 0 false (.v 3) (.q 0) (.v 0) (.v 0)
      ∃ op f j m l, aluOf (tWith tBound) (tWg.putTeam tBound) (.mov e) = some (op, e, f) ∧
        (starts (tWith tBound) (tWg.putTeam tBound) tBound probeText e).units (uniform op e) = (j, m) :: l ∧ (usedFields op e).2.1 = true ∧
        (tBound.stream 0).bound = true ∧ (tBound.stream 0).write = false ∧ (tBound.stream 0).buf = [] ∧ (tBound.stream 0).pos < (tBound.stream 0).total) ∧
    (let e := plainEnc 0 0 false (.q 1) (.s 0) (.v 0) (.v 0)
      ∃ op f j m tr x rec p, aluOf (tWith tOne) (tWg.putTeam tOne) (.mov e) = some (op, e, f) ∧
        (starts (tWith tOne) (tWg.putTeam tOne) tOne probeText e).units (uniform op e) = [(j, m)] ∧
        aluRead op e f (starts (tWith tOne) (tWg.putTeam tOne) tOne probeText e).t j = some (tr, x) ∧
        (tWith tOne).streamRecord (tWg.putTeam tOne) 1 = some rec ∧ (tr.stream 1).bound = true ∧ (tr.stream 1).write = true ∧
        (tr.stream 1).pos < (tr.stream 1).total ∧ x.pc = none ∧
        ({ starts (tWith tOne) (tWg.putTeam tOne) tOne probeText e with t := tr } : Run).check j (fieldAt rec 4 1)
          (elemAddr rec (tr.stream 1).base (tr.stream 1).pos) (2 ^ (tr.stream 1).esz) (2 ^ (tr.stream 1).esz) .weak = .ok p ∧ (∀ l va, p ≠ .remote l va)) := by
  refine ⟨⟨rfl, rfl, rfl, ⟨rfl, rfl⟩, rfl⟩, ⟨rfl, rfl, rfl, ⟨rfl, rfl⟩, rfl⟩, ⟨_, _, _, _, _, rfl, rfl, rfl, rfl, rfl, rfl, by decide⟩, ⟨_, _, _, _, _, _, _, .phys (2 ^ 20), rfl, rfl, rfl, rfl, rfl, rfl, by decide, rfl, rfl, ?_⟩⟩
  intro l va h
  cases h

/-- `MoviAndRetiredComplete`: `movi`, the two retired operations, and a slot of `SYS_LADDER`. -/
theorem witness_retired :
    noStream (plainEnc 1 0 true (.v 4) (.v 0) (.v 0) (.v 0)).d = true ∧
    (∀ i ∈ [Instr.mad24 (plainEnc 4 0 true (.v 7) (.v 1) (.v 2) (.v 3)), Instr.frcpa (plainEnc 12 0 false (.v 7) (.v 1) (.v 0) (.v 0))],
      ∃ slot op e f t', ladderOf i = some (slot, op, e, f) ∧ noStream e.d = true ∧
        aluParts op e f ((starts tState tWg tTeam probeText e).units (uniform op e)) (starts tState tWg tTeam probeText e).t = some t') ∧
    (∃ x, tState.getCtx 0 = some x ∧ 15 < x.ladder.length ∧ x.ladder.getD 15 0 = 0) := by
  refine ⟨rfl, ?_, ⟨_, rfl, by decide, rfl⟩⟩
  intro i h
  simp only [List.mem_cons, List.not_mem_nil, or_false] at h
  rcases h with rfl | rfl <;> exact ⟨_, _, _, _, _, rfl, rfl, rfl⟩

/-- `ExchangeCompletes`, `ExchangeResults`: an exchange of plain operands; the first, the middle and the last participant of a list. -/
theorem witness_exchange :
    (let e := plainEnc 8 0 false (.v 2) (.v 0) (.imm 0) (.v 0)
      ∃ op f, exchOf (.xscan e) = some (op, e, f) ∧ noStream e.a = true ∧ noStream e.b = true ∧ noStream e.d = true) ∧
    (let g : Gathered := [(0, 5, 9), (3, 6, 9), (31, 7, 9)];
      (g.map Prod.fst).Nodup ∧ g[0]? = some (0, 5, 9) ∧ g[1]? = some (3, 6, 9) ∧ g[2]? = some (31, 7, 9) ∧ ∀ y ∈ g, y.1 < 32) :=
  ⟨⟨_, _, rfl, rfl, rfl, rfl⟩, by decide⟩

/-- `IdentityResults`. -/
theorem witness_identity : Issuing tState tWg tTeam probeText ∧ noStream (plainEnc 0 6 false (.v 1) (.v 0) (.v 0) (.v 0)).d = true :=
  ⟨⟨rfl, rfl, rfl, ⟨rfl, rfl⟩, rfl⟩, rfl⟩

/-! Control and divergence. -/

def tEnc (a : Operand) : Enc := plainEnc 0 0 false (.v 0) a (.v 0) (.v 0)
/-- A guard true in thread 0 alone, of the threads that `tGuard` holds. -/
def tEncG (a : Operand) : Enc := { tEnc a with g := 1 }
/-- The team with its threads changed. -/
def tThreads (f : Thread → Thread) (g : Thread → Thread) : Team := { tTeam with threads := [f (Thread.start probeText), g (Thread.start probeText)] }
def tRet (n : Nat) (a : Nat) : Team := tThreads (fun h => { h with ret := List.replicate n a }) (fun h => { h with ret := List.replicate n a })
def tGuard : Team := tThreads (fun h => { h with p := 2 }) id

/-- A changed team issues as it stands: `BranchResults`, `YieldAndJoins`, `DecisionQueue` and `TrapsAndBreak` ask no more. -/
theorem witness_issuingAs (t : Team) (h1 : t.tix = 0) (h2 : t.leadPc = some probeText) (h3 : t.pendFaults = []) (h4 : t.nat.started = false)
    (h5 : t.nat.deferring = false) (h6 : t.awaits = none) :
    Issuing (tWith t) (tWg.putTeam t) t probeText := by
  refine ⟨?_, h2, h3, ⟨h4, h5⟩, h6⟩
  simp [State.issuer, tWith, tState, tWg, Workgroup.putTeam, State.getWg, findBy, Workgroup.getTeam, State.placeCode, probeWg, putBy, tTeam, Team.fresh, h1]

def tIss (t : Team) : Prop := Issuing (tWith t) (tWg.putTeam t) t probeText ∧ Fresh t
theorem witness_tIss (t : Team) (h1 : t.tix = 0) (h2 : t.leadPc = some probeText) (h3 : t.pendFaults = []) (h4 : t.fmask = 0) (h5 : t.pend = none)
    (h6 : t.threads.length ≤ 32) (h7 : t.nat.started = false := by rfl) (h8 : t.nat.deferring = false := by rfl) (h9 : t.awaits = none := by rfl) : tIss t :=
  ⟨witness_issuingAs t h1 h2 h3 h7 h8 h9, ⟨h4, h5, h6⟩⟩

/-- `BranchResults` and `YieldAndJoins`, which ask only for an issue: a converged team, and one with a guard. -/
theorem witness_branch : tIss tTeam ∧ tIss tGuard ∧ (starts (tWith tGuard) (tWg.putTeam tGuard) tGuard probeText (tEncG (.imm 4))).parts = [0] :=
  ⟨witness_tIss _ rfl rfl rfl rfl rfl (by decide), witness_tIss _ rfl rfl rfl rfl rfl (by decide), rfl⟩

/-- `CallReturnAndItsFaults`: 63 addresses held, and 64; one held, none, and one that begins no instruction. -/
theorem witness_call :
    (tIss (tRet 63 probeText) ∧ moversOf (tWith (tRet 63 probeText)) (tWg.putTeam (tRet 63 probeText)) (tRet 63 probeText) probeText 0x0A2 (tEnc (.imm 1)) = [0, 1] ∧
      ∀ j ∈ [0, 1], ((tRet 63 probeText).thread j).ret.length < 64) ∧
    (moversOf (tWith (tRet 1 probeText)) (tWg.putTeam (tRet 1 probeText)) (tRet 1 probeText) probeText 0x0A4 (tEnc (.v 0)) = [0, 1] ∧
      ∀ j ∈ [0, 1], ((tRet 1 probeText).thread j).ret.head? = some probeText ∧ (tWith (tRet 1 probeText)).codeTarget 0 probeText = true) ∧
    (∃ j l, moversOf (tWith (tRet 64 probeText)) (tWg.putTeam (tRet 64 probeText)) (tRet 64 probeText) probeText 0x0A2 (tEnc (.imm 1)) = j :: l ∧
      64 ≤ ((tRet 64 probeText).thread j).ret.length) ∧
    (∃ j l, moversOf (tWith (tRet 0 0)) (tWg.putTeam (tRet 0 0)) (tRet 0 0) probeText 0x0A4 (tEnc (.v 0)) = j :: l ∧ ((tRet 0 0).thread j).ret = []) ∧
    (∃ j l a r, moversOf (tWith (tRet 1 8)) (tWg.putTeam (tRet 1 8)) (tRet 1 8) probeText 0x0A4 (tEnc (.v 0)) = j :: l ∧ ((tRet 1 8).thread j).ret = a :: r ∧
      (tWith (tRet 1 8)).codeTarget 0 a = false) :=
  ⟨⟨witness_tIss _ rfl rfl rfl rfl rfl (by decide), rfl, by decide⟩, ⟨rfl, by decide⟩, ⟨_, _, rfl, by decide⟩, ⟨_, _, rfl, rfl⟩,
    ⟨_, _, _, _, rfl, rfl, rfl⟩⟩

/-- The address of the code in v2:v3, or 8 in v4:v5, and a guard true in thread 0. -/
def tVec : Team := tThreads (fun h => { h with p := 2, v := [(2, BitVec.ofNat 32 probeText), (4, 8)] }) id

/-- `IndirectTransfers`: a translated function, and an address with no code. -/
theorem witness_indirect :
    tIss tVec ∧
    (∃ o, let s := tWith tVec
      let w := tWg.putTeam tVec
      ((starts s w tVec probeText (tEncG (.v 2))).pairAt 0 (.v 2)) = probeText ∧ s.trampAt 0 probeText = none ∧ s.codeTarget 0 probeText = true ∧
      s.objAt 0 probeText = some o ∧ (s.nodeEnter w.node o.handle).translated o probeText = true ∧ moversOf s w tVec probeText 0x0A1 (tEncG (.v 2)) = [0] ∧
      moversOf s w tVec probeText 0x0A3 (tEncG (.v 2)) = [0] ∧ (tVec.thread 0).ret.length < 64) ∧
    (let s := tWith tVec
      let w := tWg.putTeam tVec
      ((starts s w tVec probeText (tEncG (.v 4))).pairAt 0 (.v 4)) = 8 ∧ s.trampAt 0 8 = none ∧ s.codeTarget 0 8 = false ∧
      moversOf s w tVec probeText 0x0A1 (tEncG (.v 4)) = [0]) :=
  ⟨witness_tIss _ rfl rfl rfl rfl rfl (by decide), ⟨_, rfl, rfl, rfl, rfl, rfl, rfl, rfl, by decide⟩, ⟨rfl, rfl, rfl, rfl⟩⟩

/-- `ExitCompletes`. -/
theorem witness_exit : tIss tTeam ∧ tTeam.comb = [] := ⟨witness_tIss _ rfl rfl rfl rfl rfl (by decide), rfl⟩

def tMasks (ms : List (BitVec 32)) : Team := { tGuard with masks := ms }
def tReady (t : Team) (e : Enc) : Prop := tIss t ∧ TeamReady (tWith t) (tWg.putTeam t) t probeText e

/-- `MaskStack`: depth 14 and 15, one and two entries, an empty and a mixed top. -/
theorem witness_maskStack :
    (tReady (tMasks (List.replicate 15 3)) (tEnc (.p 1)) ∧ (tMasks (List.replicate 15 3)).depth < 15) ∧
    (tReady (tMasks (List.replicate 16 3)) (tEnc (.p 1)) ∧ 15 ≤ (tMasks (List.replicate 16 3)).depth) ∧
    (tReady (tMasks [1, 3]) (tEnc (.v 0)) ∧ ∃ m below rest, (tMasks [1, 3]).masks = m :: below :: rest) ∧
    (tReady tGuard (tEnc (.v 0)) ∧ tGuard.masks.length ≤ 1) ∧
    (tReady (tMasks [0, 3]) (tEnc (.imm 2)) ∧ ∀ j, hasBit (tMasks [0, 3]).top j = false) ∧
    (tReady (tMasks [1, 3]) (tEnc (.imm 2)) ∧ (tMasks [1, 3]).livesAt 0 ∧ hasBit (tMasks [1, 3]).top 0 = true) := by
  refine ⟨⟨⟨witness_tIss _ rfl rfl rfl rfl rfl (by decide), rfl, rfl⟩, by decide⟩, ⟨⟨witness_tIss _ rfl rfl rfl rfl rfl (by decide), rfl, rfl⟩, by decide⟩,
    ⟨⟨witness_tIss _ rfl rfl rfl rfl rfl (by decide), rfl, rfl⟩, _, _, _, rfl⟩, ⟨⟨witness_tIss _ rfl rfl rfl rfl rfl (by decide), rfl, rfl⟩, by decide⟩,
    ⟨⟨witness_tIss _ rfl rfl rfl rfl rfl (by decide), rfl, rfl⟩, fun j => ?_⟩, ⟨witness_tIss _ rfl rfl rfl rfl rfl (by decide), rfl, rfl⟩, ?_, rfl⟩
  · simp [tMasks, Team.top, hasBit]
  · exact ⟨by decide, by decide⟩

/-- A team whose second thread is elsewhere. -/
def tSplit : Team := tThreads id (fun h => { h with pc := probeText + 8 })

/-- `TeamInstructionGuards`: not converged; a mixed guard; a guard false in all. -/
theorem witness_teamGuards :
    (tIss tSplit ∧ (starts (tWith tSplit) (tWg.putTeam tSplit) tSplit probeText (tEnc (.p 1))).converged = false) ∧
    (let r := starts (tWith tGuard) (tWg.putTeam tGuard) tGuard probeText (tEncG (.p 1));
      tIss tGuard ∧ r.converged = true ∧ r.parts.length ≠ (maskList (r.cands &&& tGuard.top) 2).length ∧ r.parts ≠ []) ∧
    (let r := starts (tWith tTeam) (tWg.putTeam tTeam) tTeam probeText (tEncG (.p 1));
      tIss tTeam ∧ r.converged = true ∧ r.parts.length ≠ (maskList (r.cands &&& tTeam.top) 2).length ∧ r.parts = []) :=
  ⟨⟨witness_tIss _ rfl rfl rfl rfl rfl (by decide), rfl⟩, ⟨witness_tIss _ rfl rfl rfl rfl rfl (by decide), rfl, by decide, by decide⟩,
    ⟨witness_tIss _ rfl rfl rfl rfl rfl (by decide), rfl, by decide, rfl⟩⟩

def tLoops (k c : Nat) : Team := { tTeam with loops := List.replicate k { count := c, head := probeText, last := probeText } }

/-- `LoopStack`: 15 loops open with trip counts 5 and 0, 16 open; top counts 2 and 1; none open. -/
theorem witness_loops :
    (∀ o ∈ [Operand.s 0, Operand.imm 0], tReady (tLoops 15 2) (tEnc o) ∧ noStream o = true ∧ (tLoops 15 2).loops.length < 16) ∧
    (tLoops 15 2).source 0 (.s 0) 8 32 0 false = some (5, tLoops 15 2) ∧ (tLoops 15 2).source 0 (.imm 0) 8 32 0 false = some (0, tLoops 15 2) ∧
    (tReady (tLoops 16 2) (tEnc (.imm 0)) ∧ 16 ≤ (tLoops 16 2).loops.length) ∧
    (tReady (tLoops 1 2) (tEnc (.v 0)) ∧ ∃ l rest, (tLoops 1 2).loops = l :: rest ∧ l.count ≠ 1 ∧ 0 < l.count) ∧
    (tReady (tLoops 1 1) (tEnc (.v 0)) ∧ ∃ l rest, (tLoops 1 1).loops = l :: rest ∧ l.count = 1) ∧ (tReady tTeam (tEnc (.v 0)) ∧ tTeam.loops = []) := by
  refine ⟨?_, rfl, rfl, ⟨⟨witness_tIss _ rfl rfl rfl rfl rfl (by decide), rfl, rfl⟩, by decide⟩,
    ⟨⟨witness_tIss _ rfl rfl rfl rfl rfl (by decide), rfl, rfl⟩, _, _, rfl, by decide, by decide⟩,
    ⟨⟨witness_tIss _ rfl rfl rfl rfl rfl (by decide), rfl, rfl⟩, _, _, rfl, rfl⟩, ⟨⟨witness_tIss _ rfl rfl rfl rfl rfl (by decide), rfl, rfl⟩, rfl⟩⟩
  intro o h
  simp only [List.mem_cons, List.not_mem_nil, or_false] at h
  rcases h with rfl | rfl <;> exact ⟨⟨witness_tIss _ rfl rfl rfl rfl rfl (by decide), rfl, rfl⟩, rfl, by decide⟩

def tFed (n : Nat) : Team := { tTeam with feedPos := n, feedBuf := if n = 2 then [8] else [] }

/-- `DecisionQueue`: the last value arrived, none arrived, and the end of the feed. -/
theorem witness_feed :
    (tIss (tFed 2) ∧ (starts (tWith (tFed 2)) (tWg.putTeam (tFed 2)) (tFed 2) probeText (tEnc (.v 0))).parts ≠ [] ∧
      (tFed 2).feedPos < (tWith (tFed 2)).feedLen tWg ∧ ∃ v rest, (tFed 2).feedBuf = v :: rest) ∧
    (tIss (tFed 0) ∧ (tFed 0).feedPos < (tWith (tFed 0)).feedLen tWg ∧ (tFed 0).feedBuf = []) ∧
    (tIss (tFed 3) ∧ (tWith (tFed 3)).feedLen tWg ≤ (tFed 3).feedPos) :=
  ⟨⟨witness_tIss _ rfl rfl rfl rfl rfl (by decide), by decide, by decide, _, _, rfl⟩, ⟨witness_tIss _ rfl rfl rfl rfl rfl (by decide), by decide, rfl⟩,
    ⟨witness_tIss _ rfl rfl rfl rfl rfl (by decide), by decide⟩⟩

/-- `TrapsAndBreak`: participants and none, breakpoints enabled and not, a stub with an active thread and with none. -/
theorem witness_traps :
    tIss tTeam ∧ (∃ x, (tWith tTeam).getCtx 0 = some x ∧ x.brk = false) ∧
    (∃ x, ({ tState with contexts := [{ tCtx with brk := true }] } : State).getCtx 0 = some x ∧ x.brk = true) ∧
    (starts tState tWg tTeam probeText (tEnc (.imm 9))).parts ≠ [] ∧ (starts tState tWg tTeam probeText (tEncG (.imm 9))).parts = [] ∧
    (∀ i ∈ [Instr.trapStubIssue 0 none, .ldsh 0 none, .pmma 0 (some 0), .bwt 0 none], (stubOf i).isSome = true) ∧
    tTeam.candidates probeText &&& tTeam.top ≠ 0 ∧ (tIss (tMasks [0, 3]) ∧ (tMasks [0, 3]).candidates probeText &&& (tMasks [0, 3]).top = 0) :=
  ⟨witness_tIss _ rfl rfl rfl rfl rfl (by decide), ⟨_, rfl, rfl⟩, ⟨_, rfl, rfl⟩, by decide, rfl, by decide, by decide,
    ⟨witness_tIss _ rfl rfl rfl rfl rfl (by decide), by decide⟩⟩

/-- `ContextFaultEntry`. -/
theorem witness_faultEntry : ∃ x, tState.getCtx 0 = some x ∧ x.st.live = true ∧ (mkFault clsTrap 9 0).cls ≠ clsMemUe ∧ x.fqFull = false :=
  ⟨_, rfl, rfl, by decide, rfl⟩

/-- `MessagesComplete`: an own channel with room, another member's with room and full, a displacement with no member; an entry to take, and none. -/
def tMember (k : Nat) : Workgroup := { tWg with uid := 1, core := 1, teams := [], chans := List.replicate 16 (List.replicate k 0) }
def tMsg (k : Nat) : State := { tWith tOne with wgs := [{ tWg.putTeam tOne with chans := [4] :: List.replicate 15 [] }, tMember k] }
def tMsgWg : Workgroup := { tWg.putTeam tOne with chans := [4] :: List.replicate 15 [] }
theorem witness_messages :
    (∀ k ∈ [31, 32], Issuing (tMsg k) tMsgWg tOne probeText ∧ (tMsg k).ctxUnacked 0 = false ∧
      (starts (tMsg k) tMsgWg tOne probeText (plainEnc 0 0 false (.v 0) (.s 0) (.imm 1) (.imm 15))).units
        (uniform 0x153 (plainEnc 0 0 false (.v 0) (.s 0) (.imm 1) (.imm 15))) = [(0, 1)] ∧
      ((tMsg k).putWg (tMsgWg.putTeam tOne.begun)).displacement tMsgWg probeText (Legal.raw12 (.imm 1)) = some (1, 0) ∧
      ((tMsg k).putWg (tMsgWg.putTeam tOne.begun)).memberAt tMsgWg 1 0 = some (tMember k) ∧ (tMember k).uid ≠ tMsgWg.uid ∧ (tMember k).st ≠ .done ∧
      ((tMember k).chans.getD 15 []).length = k) ∧
    (((tMsg 0).putWg (tMsgWg.putTeam tOne.begun)).displacement tMsgWg probeText (Legal.raw12 (.imm 0)) = some (0, 0) ∧
      ((tMsg 0).putWg (tMsgWg.putTeam tOne.begun)).memberAt tMsgWg 0 0 = some (tMsgWg.putTeam tOne.begun)) ∧
    (((tMsg 0).putWg (tMsgWg.putTeam tOne.begun)).displacement tMsgWg probeText (Legal.raw12 (.imm 31)) = some (-1, 0) ∧
      ((tMsg 0).putWg (tMsgWg.putTeam tOne.begun)).memberAt tMsgWg (-1) 0 = none) ∧
    tOne.comb = [] ∧ tOne.unacked = [] ∧
    (∃ x rest, tMsgWg.chans.getD (Legal.raw12 (.imm 0)) [] = x :: rest) ∧ tMsgWg.chans.getD (Legal.raw12 (.imm 1)) [] = [] := by
  refine ⟨?_, ⟨rfl, rfl⟩, ⟨rfl, rfl⟩, rfl, rfl, ⟨_, _, rfl⟩, rfl⟩
  intro k h
  simp only [List.mem_cons, List.not_mem_nil, or_false] at h
  rcases h with rfl | rfl <;> exact ⟨⟨rfl, rfl, rfl, ⟨rfl, rfl⟩, rfl⟩, rfl, rfl, rfl, rfl, by decide, by decide, rfl⟩

/-! Memory. -/

def tAg : Agent := agentOf tWg tTeam 0

/-- `PlaceBytes`: each kind of local place. -/
theorem witness_places :
    ∀ p ∈ [Place.lane 60, .scratch 0 4, .dieq 0, .phys (2 ^ 20), .host 0], ∃ m, tState.bytesOf tAg p = some m ∧ Memory.wf m = true := by
  intro p h
  simp only [List.mem_cons, List.not_mem_nil, or_false] at h
  rcases h with rfl | rfl | rfl | rfl | rfl <;> exact ⟨_, rfl, rfl⟩

theorem witness_unmirrored (s : State) (h1 : s.contexts = [tCtx]) (h2 : s.cores = [newCore 0 1]) (h3 : s.dieTlb = []) (l : Leaf) (h : s.knows 0 l) :
    l.mir = false := by
  rcases h with ⟨x, hx, hl⟩ | ⟨k, hk, e, he, -⟩ | ⟨e, he, -⟩
  · have hx' : x = tCtx := by
      have : s.getCtx 0 = some tCtx := by simp [State.getCtx, h1, findBy, tCtx, newContext]
      simpa [this] using hx.symm
    subst hx'
    have : l = tPage := by simpa [tCtx] using hl
    subst this
    rfl
  · simp [h2] at hk
    subst hk
    simp [newCore] at he
  · simp [h3] at he

/-- An access of one participant reaches a local place. -/
def tReach (i : Instr) (acc : Acc) (p : Place) : Prop :=
  ∃ op e a b m, memOf tOne 0 0 i = some (op, e, a) ∧ plainAccess e = true ∧
    (starts (tWith tOne) (tWg.putTeam tOne) tOne probeText e).units (uniform op e) = [(0, b)] ∧
    Reaches (accessStart (tWith tOne) (tWg.putTeam tOne) tOne e) (tWg.putTeam tOne) tOne 0 e a acc p m

theorem witness_reaches (s : State) (w : Workgroup) (t : Team) (e : Enc) (a : Int) (acc : Acc) (p : Place) (m : SparseB)
    (h4 : s.locate (agentOf w t 0) (Legal.space e) a (accessBytes e.ty.toNat) (accessBytes e.ty.toNat) acc = .at_ p)
    (h5 : s.lockMet (agentOf w t 0) (Legal.space e) p a.toNat (accessBytes e.ty.toNat) (acc ≠ .load) = none)
    (h6 : s.bytesOf (agentOf w t 0) p = some m) (h7 : Memory.wf m = true) (h8 : s.bad = []) (h9 : s.contexts = [tCtx]) (h10 : s.cores = [newCore 0 1])
    (h11 : s.dieTlb = []) (h12 : w.ctx = 0) (h13 : w.core = 0) (h14 : t.relPend = none) (h15 : (t.thread 0).held = none) : Reaches s w t 0 e a acc p m := by
  refine ⟨h4, h5, h6, h7, by intro u _; rw [h8]; rfl, fun l hl _ => witness_unmirrored _ h9 h10 h11 l (h12 ▸ hl), ?_, h14, h15⟩
  intro pa _ k hk
  have e0 : k = newCore 0 1 := by
    unfold State.getCore at hk
    rw [h10, h13] at hk
    exact (Option.some.inj hk).symm
  subst e0
  have h : accessBytes e.ty.toNat ≤ 16 := (by decide : ∀ x : BitVec 4, accessBytes x.toNat ≤ 16) e.ty
  have h' : (newCore 0 1).l1Lines.length = 0 ∧ (newCore 0 1).l1Share = 2 ^ 22 := by decide
  rw [h'.1, h'.2]
  omega

theorem witness_reach (i : Instr) (acc : Acc) (p : Place) (op : Nat) (e : Enc) (a : Int) (b : BitVec 32) (m : SparseB)
    (h1 : memOf tOne 0 0 i = some (op, e, a)) (h2 : plainAccess e = true)
    (h3 : (starts (tWith tOne) (tWg.putTeam tOne) tOne probeText e).units (uniform op e) = [(0, b)])
    (h4 : (accessStart (tWith tOne) (tWg.putTeam tOne) tOne e).locate (agentOf (tWg.putTeam tOne) tOne 0) (Legal.space e) a
      (accessBytes e.ty.toNat) (accessBytes e.ty.toNat) acc = .at_ p)
    (h5 : (accessStart (tWith tOne) (tWg.putTeam tOne) tOne e).lockMet (agentOf (tWg.putTeam tOne) tOne 0) (Legal.space e) p a.toNat
      (accessBytes e.ty.toNat) (acc ≠ .load) = none)
    (h6 : (accessStart (tWith tOne) (tWg.putTeam tOne) tOne e).bytesOf (agentOf (tWg.putTeam tOne) tOne 0) p = some m) (h7 : Memory.wf m = true)
    (h8 : (accessStart (tWith tOne) (tWg.putTeam tOne) tOne e).bad = [])
    (h9 : (accessStart (tWith tOne) (tWg.putTeam tOne) tOne e).contexts = [tCtx])
    (h10 : (accessStart (tWith tOne) (tWg.putTeam tOne) tOne e).cores = [newCore 0 1])
    (h11 : (accessStart (tWith tOne) (tWg.putTeam tOne) tOne e).dieTlb = []) : tReach i acc p :=
  ⟨op, e, a, b, m, h1, h2, h3, witness_reaches _ _ _ _ _ _ _ _ h4 h5 h6 h7 h8 h9 h10 h11 rfl rfl rfl rfl⟩

/-- The space and scope of an access, and an atomic operation. -/
def tSpc (space scope aop : Nat) : Operand := .imm (BitVec.ofNat 17 (space + 8 * scope + 64 * aop))
def tAcc (ty : BitVec 4) (var : BitVec 3) (d a b c : Operand) : Enc := plainEnc ty var true d a b c

theorem witness_issueOne : tIss tOne := witness_tIss _ rfl rfl rfl rfl rfl (by decide)
theorem witness_free : freeToRelease (tWith tOne) (tWg.putTeam tOne) tOne := ⟨rfl, rfl, rfl⟩

/-- `LoadsComplete`: `.lane`, `.core`, `.die` and `.glb`; plain, acquiring and `.sc`; the last byte of `.lane`; a gather and an expansion. -/
theorem witness_loads :
    tIss tOne ∧ freeToRelease (tWith tOne) (tWg.putTeam tOne) tOne ∧
    tReach (.ld (tAcc 2 0 (.v 1) (.s 0) (.imm 58) (tSpc 0 0 0))) .load (.lane 63) ∧ tReach (.ld (tAcc 8 0 (.v 1) (.s 1) (.imm 4) (tSpc 1 0 0))) .load (.scratch 0 4) ∧
    tReach (.ld (tAcc 8 0 (.v 1) (.s 1) (.imm 4) (tSpc 3 0 0))) .load (.dieq 4) ∧ tReach (.ld (tAcc 8 1 (.v 1) (.s 2) (.imm 0) (tSpc 4 5 0))) .load (.phys (2 ^ 20)) ∧
    tReach (.ld (tAcc 1 4 (.v 1) (.s 2) (.imm 8) (tSpc 4 5 0))) .load (.phys (2 ^ 20 + 8)) ∧
    tReach (.ldg (tAcc 8 0 (.v 1) (.s 2) (.s 0) (tSpc 4 0 0))) .load (.phys (2 ^ 20 + 20)) ∧ tReach (.exl (tAcc 8 0 (.v 1) (.s 2) (.s 0) (tSpc 4 0 0))) .load (.phys (2 ^ 20 + 20)) :=
  ⟨witness_issueOne, witness_free, witness_reach _ _ _ _ _ _ _ _ rfl rfl rfl rfl rfl rfl rfl rfl rfl rfl rfl, witness_reach _ _ _ _ _ _ _ _ rfl rfl rfl rfl rfl rfl rfl rfl rfl rfl rfl,
    witness_reach _ _ _ _ _ _ _ _ rfl rfl rfl rfl rfl rfl rfl rfl rfl rfl rfl, witness_reach _ _ _ _ _ _ _ _ rfl rfl rfl rfl rfl rfl rfl rfl rfl rfl rfl,
    witness_reach _ _ _ _ _ _ _ _ rfl rfl rfl rfl rfl rfl rfl rfl rfl rfl rfl, witness_reach _ _ _ _ _ _ _ _ rfl rfl rfl rfl rfl rfl rfl rfl rfl rfl rfl,
    witness_reach _ _ _ _ _ _ _ _ rfl rfl rfl rfl rfl rfl rfl rfl rfl rfl rfl⟩

/-- What the statements on accesses ask beside: nothing waits for the team's stores, no release is still to perform, no address is held. -/
theorem witness_quiet :
    (∀ t, (tWith t).stale = []) ∧ tOne.relPend = none ∧ (tOne.thread 0).held = none ∧ tTeam.relPend = none ∧ (∀ k, (tTeam.link k).wait = none) ∧
    streamsFree (tWith tOne) (plainEnc 0 0 false (.q 1) (.s 0) (.v 0) (.v 0)) ∧ streamsFree (tWith tBound) (plainEnc 0 0 false (.v 3) (.q 0) (.v 0) (.v 0)) :=
  ⟨fun _ => rfl, rfl, rfl, rfl, fun _ => rfl, .inl ⟨rfl, rfl, rfl⟩, .inr (by decide)⟩

/-- `StoresComplete`: as for loads; plain, releasing and `.sc`, a scatter and a compression. -/
theorem witness_stores :
    tReach (.st (tAcc 2 0 (.s 0) (.s 0) (.imm 58) (tSpc 0 0 0))) .weak (.lane 63) ∧ tReach (.st (tAcc 8 0 (.s 0) (.s 1) (.imm 4) (tSpc 1 0 0))) .weak (.scratch 0 4) ∧
    tReach (.st (tAcc 8 0 (.s 0) (.s 1) (.imm 4) (tSpc 3 0 0))) .weak (.dieq 4) ∧ tReach (.st (tAcc 8 0 (.s 0) (.s 2) (.imm 4) (tSpc 4 0 0))) .weak (.phys (2 ^ 20 + 4)) ∧
    tReach (.st (tAcc 8 2 (.s 0) (.s 2) (.imm 4) (tSpc 4 3 0))) .store (.phys (2 ^ 20 + 4)) ∧ tReach (.st (tAcc 1 4 (.s 0) (.s 2) (.imm 8) (tSpc 4 5 0))) .store (.phys (2 ^ 20 + 8)) ∧
    tReach (.stsc (tAcc 8 0 (.s 0) (.s 2) (.s 0) (tSpc 4 0 0))) .weak (.phys (2 ^ 20 + 20)) ∧ tReach (.cst (tAcc 8 0 (.s 0) (.s 2) (.s 0) (tSpc 4 0 0))) .weak (.phys (2 ^ 20 + 20)) :=
  ⟨witness_reach _ _ _ _ _ _ _ _ rfl rfl rfl rfl rfl rfl rfl rfl rfl rfl rfl, witness_reach _ _ _ _ _ _ _ _ rfl rfl rfl rfl rfl rfl rfl rfl rfl rfl rfl,
    witness_reach _ _ _ _ _ _ _ _ rfl rfl rfl rfl rfl rfl rfl rfl rfl rfl rfl, witness_reach _ _ _ _ _ _ _ _ rfl rfl rfl rfl rfl rfl rfl rfl rfl rfl rfl,
    witness_reach _ _ _ _ _ _ _ _ rfl rfl rfl rfl rfl rfl rfl rfl rfl rfl rfl, witness_reach _ _ _ _ _ _ _ _ rfl rfl rfl rfl rfl rfl rfl rfl rfl rfl rfl,
    witness_reach _ _ _ _ _ _ _ _ rfl rfl rfl rfl rfl rfl rfl rfl rfl rfl rfl, witness_reach _ _ _ _ _ _ _ _ rfl rfl rfl rfl rfl rfl rfl rfl rfl rfl rfl⟩

/-- `AtomicsComplete`: `atom` and `red`, in `.core` and `.glb`, every ordering at its ends. -/
theorem witness_atomics :
    tReach (.atom (tAcc 8 0 (.v 1) (.s 1) (.s 0) (tSpc 1 2 0))) .atomic (.scratch 0 0) ∧ tReach (.atom (tAcc 8 3 (.v 1) (.s 2) (.s 0) (tSpc 4 5 7))) .atomic (.phys (2 ^ 20)) ∧
    tReach (.red (tAcc 8 1 (.v 0) (.s 2) (.s 0) (tSpc 4 5 0))) .atomic (.phys (2 ^ 20)) ∧ tReach (.red (tAcc 9 4 (.v 0) (.s 2) (.s 0) (tSpc 4 6 0))) .atomic (.phys (2 ^ 20)) :=
  ⟨witness_reach _ _ _ _ _ _ _ _ rfl rfl rfl rfl rfl rfl rfl rfl rfl rfl rfl, witness_reach _ _ _ _ _ _ _ _ rfl rfl rfl rfl rfl rfl rfl rfl rfl rfl rfl,
    witness_reach _ _ _ _ _ _ _ _ rfl rfl rfl rfl rfl rfl rfl rfl rfl rfl rfl, witness_reach _ _ _ _ _ _ _ _ rfl rfl rfl rfl rfl rfl rfl rfl rfl rfl rfl⟩

/-- A core with a clean and a dirty byte in its L1. -/
def tCore : Core := { newCore 0 1 with l1 := [{ addr := 2 ^ 20, val := 7, dirty := false }, { addr := 2 ^ 20 + 1, val := 3, dirty := true }] }
def tCached (t : Team) : State := { tWith t with cores := [tCore] }
/-- The base of the page in s2:s3 and the last canonical byte in s4:s5, for `cinv` and `cwb`. -/
def tFar : Team := { tOne with s := [(0, 5), (2, 0x1000000), (4, 0xFFFFFFFF), (5, 0x1FFFFFF)] }

/-- `FencesPrefetchAndCache`: with and without participants; a release and an acquire at `.nbh`; lengths 0, within, to the last canonical byte and past it. -/
theorem witness_fences :
    (Issuing (tCached tOne) (tWg.putTeam tOne) tOne probeText ∧ Fresh tOne ∧ freeToRelease (tCached tOne) (tWg.putTeam tOne) tOne ∧
      (starts (tCached tOne) (tWg.putTeam tOne) tOne probeText (tAcc 0 3 (.v 0) (.v 0) (.v 0) (tSpc 0 3 0))).parts ≠ [] ∧
      isRel (tAcc 0 3 (.v 0) (.v 0) (.v 0) (tSpc 0 3 0)) = true ∧ isAcq (tAcc 0 3 (.v 0) (.v 0) (.v 0) (tSpc 0 3 0)) = true ∧
      Legal.scopeOf (tAcc 0 3 (.v 0) (.v 0) (.v 0) (tSpc 0 3 0)) = 3 ∧ ∃ k, (tCached tOne).getCore 0 = some k ∧ (k.l1.map L1Byte.addr).Nodup ∧
      Memory.wf (tCached tOne).dram = true ∧ k.locks = [] ∧ k.l1.length = 2) ∧
    (starts (tCached tOne) (tWg.putTeam tOne) tOne probeText { tAcc 0 3 (.v 0) (.v 0) (.v 0) (tSpc 0 3 0) with g := 1 }).parts = [] ∧
    (∀ p ∈ [(Operand.s 2, Operand.imm 0, 2 ^ 24, 0), (.s 2, .imm 130, 2 ^ 24, 130), (.s 4, .imm 1, 2 ^ 57 - 1, 1), (.s 4, .imm 2, 2 ^ 57 - 1, 2)],
      ∃ b x, let e := tAcc 0 0 (.v 0) p.1 p.2.1 (tSpc 4 5 0)
        Issuing (tCached tFar) (tWg.putTeam tFar) tFar probeText ∧ (tCached tFar).getCtx 0 = some x ∧ Legal.space e = 4 ∧ noStream e.a = true ∧ noStream e.b = true ∧
        (starts (tCached tFar) (tWg.putTeam tFar) tFar probeText e).units (uniform 0x0DA e) = [(0, b)] ∧
        (starts (tCached tFar) (tWg.putTeam tFar) tFar probeText e).units (uniform 0x0DB e) = [(0, b)] ∧
        tFar.valueOf true 0 e.a 1 64 0 true = p.2.2.1 ∧ tFar.valueOf true 0 e.b 8 32 0 false % 2 ^ 32 = p.2.2.2) := by
  refine ⟨⟨⟨rfl, rfl, rfl, ⟨rfl, rfl⟩, rfl⟩, ⟨rfl, rfl, by decide⟩, ⟨rfl, rfl, rfl⟩, by decide, rfl, rfl, rfl, _, rfl, by decide, rfl, rfl, rfl⟩, rfl, ?_⟩
  intro p h
  simp only [List.mem_cons, List.not_mem_nil, or_false] at h
  rcases h with rfl | rfl | rfl | rfl <;> exact ⟨_, _, ⟨rfl, rfl, rfl, ⟨rfl, rfl⟩, rfl⟩, rfl, rfl, rfl, rfl, rfl, rfl, rfl, rfl⟩

/-- And a release still to perform before a plain store, room in the L1 for a prefetch, and two cores with dirty bytes of their own. -/
def tOwing : Team := { tOne with relPend := some 3 }
def tTwoCores : State := { tWith tFar with cores := [tCore, { newCore 1 2 with l1 := [{ addr := 2 ^ 20 + 5, val := 8, dirty := true }] }] }
theorem witness_fencesMore :
    (let s := tWith tOwing; let w := tWg.putTeam tOwing; let e := tAcc 8 0 (.s 0) (.s 2) (.imm 4) (tSpc 4 0 0)
      ∃ op a b m, Issuing s w tOwing probeText ∧ tOwing.relPend = some 3 ∧ 3 < 6 ∧ plainAccess e = true ∧
        (starts s w tOwing probeText e).units (uniform 0x0D1 e) = [(0, b)] ∧ memOf tOwing 0 0 (.st e) = some (op, e, a) ∧
        Reaches (accessStart ((s.release 0 0 3).putWg (w.putTeam tOne)) w tOne e) w tOne 0 e a .weak (.phys (2 ^ 20 + 4)) m) ∧
    (∀ pa, (tCached tOne).roomFor 0 (128 * pa) 128) ∧
    (Issuing tTwoCores (tWg.putTeam tFar) tFar probeText ∧ (tTwoCores.cores.map Core.id).Nodup ∧ (∀ y ∈ tTwoCores.cores, (y.l1.map L1Byte.addr).Nodup) ∧
      Memory.wf tTwoCores.dram = true ∧ (∀ k ∈ tTwoCores.cores, k.locks = []) ∧
      (∃ y ∈ tTwoCores.cores, y.id ≠ 0 ∧ ((y.l1Byte (2 ^ 20 + 5)).map L1Byte.dirty) = some true) ∧
      ∀ y ∈ tTwoCores.cores, y.id = 0 → y.l1Byte (2 ^ 20 + 5) = none) := by
  refine ⟨⟨_, _, _, tState.dram, ⟨rfl, rfl, rfl, ⟨rfl, rfl⟩, rfl⟩, rfl, by decide, rfl, rfl, rfl, ?_⟩, ?_, ⟨rfl, rfl, rfl, ⟨rfl, rfl⟩, rfl⟩, by decide, by decide, by decide, by decide, by decide, by decide⟩
  · exact witness_reaches _ _ _ _ _ _ _ _ rfl rfl rfl rfl rfl rfl rfl rfl rfl rfl rfl rfl
  · intro pa k hk
    have : k = tCore := (Option.some.inj hk).symm
    subst this
    have h : tCore.l1Lines.length = 1 ∧ tCore.l1Share = 2 ^ 22 := by decide
    rw [h.1, h.2]
    omega

/-- `StreamsBind`: registers with a record, bound or not, for reading and writing, and one without. -/
theorem witness_binds :
    tIss tBound ∧ (starts (tWith tBound) (tWg.putTeam tBound) tBound probeText (tEnc (.q 1))).parts ≠ [] ∧
    (starts (tWith tBound) (tWg.putTeam tBound) tBound probeText (tEnc (.q 1))).active = true ∧ (tBound.stream 0).copy = none ∧ (tBound.stream 1).copy = none ∧
    (∃ rec, (tWith tBound).streamRecord (tWg.putTeam tBound) 0 = some rec) ∧ (∃ rec, (tWith tBound).streamRecord (tWg.putTeam tBound) 1 = some rec) ∧
    (tWith tBound).streamRecord (tWg.putTeam tBound) 2 = none ∧ freeToRelease (tWith tBound) (tWg.putTeam tBound) tBound :=
  ⟨witness_tIss _ rfl rfl rfl rfl rfl (by decide), by decide, rfl, rfl, rfl, ⟨_, rfl⟩, ⟨_, rfl⟩, rfl, ⟨rfl, rfl, rfl⟩⟩

/-- A state whose context has given pages, and a doorbell page at 2^25. -/
def tPages (l : List Leaf) : State := { tWith tOne with contexts := [{ tCtx with pages := l, doorbell := 2 ^ 25 }] }
def tAt (s : State) (t : Team) (i : Instr) (acc : Acc) (z : Located) : Prop :=
  Issuing s (tWg.putTeam t) t probeText ∧ ∃ op e a b, memOf t 0 0 i = some (op, e, a) ∧ e.var = 0 ∧ plainAccess e = true ∧
    (starts s (tWg.putTeam t) t probeText e).units (uniform op e) = [(0, b)] ∧
    (accessStart s (tWg.putTeam t) t e).locate (agentOf (tWg.putTeam t) t 0) (Legal.space e) a (accessBytes e.ty.toNat) (accessBytes e.ty.toNat) acc = z ∧
    ∀ p, z = .at_ p → (accessStart s (tWg.putTeam t) t e).lockMet (agentOf (tWg.putTeam t) t 0) 4 p a.toNat (accessBytes e.ty.toNat) (acc ≠ .load) = none
def tAway : Leaf := { tPage with home := 7 }
def tBellTeam : Team := { tOne with s := [(0, 5), (2, 0x2000000)] }

/-- `AccessesElsewhere`: a page not resident, a page not mapped, a page of package 7 read and written, and the doorbell page. -/
theorem witness_elsewhere :
    (∃ va c, tAt (tPages [{ tPage with res := false, zf := true }]) tOne (.ld (tAcc 8 0 (.v 1) (.s 2) (.imm 4) (tSpc 4 0 0))) .load (.replay va c)) ∧
    (∃ f, tAt (tPages []) tOne (.ld (tAcc 8 0 (.v 1) (.s 2) (.imm 4) (tSpc 4 0 0))) .load (.bad f)) ∧
    (∃ f, tAt (tPages [tPage]) tOne (.ld (tAcc 8 0 (.v 1) (.s 2) (.imm 2) (tSpc 4 0 0))) .load (.bad f)) ∧
    (tAt (tPages [tAway]) tOne (.ld (tAcc 8 0 (.v 1) (.s 2) (.imm 4) (tSpc 4 0 0))) .load (.at_ (.remote tAway (2 ^ 24 + 4))) ∧
      tAt (tPages [tAway]) tOne (.st (tAcc 8 0 (.s 0) (.s 2) (.imm 4) (tSpc 4 0 0))) .weak (.at_ (.remote tAway (2 ^ 24 + 4))) ∧ tAway.conf = false ∧
      (tPages [tAway]).reachable 7 = true ∧ (tPages [tAway]).sendFlits < 2 ^ 24 ∧ ∀ x, (tPages [tAway]).getCtx 0 = some x → x.gangQuiet = false) ∧
    (∃ va, tAt { tPages [tPage] with wgs := [tWg.putTeam tBellTeam] } tBellTeam (.st (tAcc 9 0 (.s 0) (.s 2) (.imm 8) (tSpc 4 0 0))) .weak (.at_ (.bell va))) := by
  refine ⟨⟨_, _, ⟨rfl, rfl, rfl, ⟨rfl, rfl⟩, rfl⟩, _, _, _, _, rfl, rfl, rfl, rfl, rfl, fun p h => ?_⟩, ⟨_, ⟨rfl, rfl, rfl, ⟨rfl, rfl⟩, rfl⟩, _, _, _, _, rfl, rfl, rfl, rfl, rfl, fun p h => ?_⟩,
    ⟨_, ⟨rfl, rfl, rfl, ⟨rfl, rfl⟩, rfl⟩, _, _, _, _, rfl, rfl, rfl, rfl, rfl, fun p h => ?_⟩,
    ⟨⟨⟨rfl, rfl, rfl, ⟨rfl, rfl⟩, rfl⟩, _, _, _, _, rfl, rfl, rfl, rfl, rfl, fun p h => ?_⟩, ⟨⟨rfl, rfl, rfl, ⟨rfl, rfl⟩, rfl⟩, _, _, _, _, rfl, rfl, rfl, rfl, rfl, fun p h => ?_⟩, rfl, by decide, by decide, ?_⟩,
    ⟨_, ⟨rfl, rfl, rfl, ⟨rfl, rfl⟩, rfl⟩, _, _, _, _, rfl, rfl, rfl, rfl, rfl, fun p h => ?_⟩⟩
  any_goals (cases h; first | done | rfl)
  intro x hx
  have : x = { tCtx with pages := [tAway], doorbell := 2 ^ 25 } := by
    have h : (tPages [tAway]).getCtx 0 = some { tCtx with pages := [tAway], doorbell := 2 ^ 25 } := rfl
    simpa [h] using hx.symm
  rw [this]
  rfl

/-! Copies and the press. -/

theorem witness_tokenFree {s : State} {t : Team} {k : Nat} (h : s.opOf t k = none) : s.tokenFree t k := fun o ho => by rw [h] at ho; cases ho

/-- A command block: its size, and fields as offset and value. -/
def tBlock (n : Nat) (fs : List (Nat × Nat)) : List Byte := natBytes n ((fs.map (fun f => f.2 * 2 ^ (8 * f.1))).foldl (· + ·) 0)
/-- The team with a block's address in s2:s3, and the package with the block at the start of a page of host memory. -/
def tBlk (b : List Byte) : State := { tWith tTeam with hostMem := spPut 0 [] 0 b, contexts := [{ tCtx with pages := [{ tPage with home := 255, frame := 0 }] }], wgs := [{ tWg.putTeam tTeam with rings := tRings }] }
where tRings : List Ring := { base := 0, size := 512, head := 0, tail := 0 } :: List.replicate 15 { base := 0, size := 0, head := 0, tail := 0 }
def tBlkWg : Workgroup := { tWg.putTeam tTeam with rings := tBlk.tRings }
def tCpy : Enc := plainEnc 0 0 true (.tk 3) (.s 4) (.s 6) (.s 8)
/-- Destination, source and length of a `cpy` in s4:s5, s6:s7 and s8. -/
def tCpyTeam (d sr n : Nat) : Team :=
  { tTeam with s := spPut 0 [] 4 [BitVec.ofNat 32 d, BitVec.ofNat 32 (d / 2 ^ 32), BitVec.ofNat 32 sr, BitVec.ofNat 32 (sr / 2 ^ 32), BitVec.ofNat 32 n] }
/-- An operation of the team's token 3. -/
def tOp (st : OpSt) (b : OpBody) : Op := opFor tState tWg tTeam probeText 3 st 4 b
def tCopyBody : CopyBody := { kind := 0, block := [], dst := 2 ^ 24 + 64, src := 2 ^ 24, len := 8, idx := 0, total := 8, bytes := 3, flags := 1, why := 0 }
def tTok : Team := { tCpyTeam (2 ^ 24) (2 ^ 24) 8 with tokens := [(3, 1)] }
def tTokState (st : OpSt) (b : OpBody) : State := { tWith tTok with ops := [tOp st b], nextId := 2 }

/-- `CopiesIssue`, `cpy`: within the space, length 0, to the last canonical byte, past it at the source and at the destination; a token in use, a full racker. -/
theorem witness_cpy :
    (∀ x ∈ [(2 ^ 24 + 64, 2 ^ 24, 8), (2 ^ 24, 2 ^ 24, 0), (2 ^ 57 - 8, 2 ^ 57 - 16, 8), (2 ^ 24, 2 ^ 57 - 7, 8), (2 ^ 57 - 7, 2 ^ 24, 8)],
      let t := tCpyTeam x.1 x.2.1 x.2.2
      ∃ j rest c, tIss t ∧ freeToRelease (tWith t) (tWg.putTeam t) t ∧ (starts (tWith t) (tWg.putTeam t) t probeText tCpy).parts = j :: rest ∧
        (tWith t).getCore 0 = some c ∧ c.locks.length ≤ 62 ∧ (t.link 3).wait = none ∧ (t.link 3).arr = none ∧ (tWith t).rackerHeld 0 < 64 ∧ (tWith t).tokenFree t 3 ∧
        t.valueOf true j (.s 4) 1 64 0 true = x.1 ∧ t.valueOf true j (.s 6) 1 64 0 true = x.2.1 ∧ t.valueOf true j (.s 8) 8 32 0 false = x.2.2 ∧
        (tWith t).getOp (tWith t).nextId = none) ∧
    (Issuing (tTokState .busy (.copy tCopyBody)) (tWg.putTeam tTok) tTok probeText ∧ ¬ (tTokState .busy (.copy tCopyBody)).tokenFree tTok 3) ∧
    64 ≤ ({ tWith tTeam with ops := List.replicate 64 (tOp .busy (.copy tCopyBody)) } : State).rackerHeld 0 := by
  refine ⟨?_, ⟨⟨rfl, rfl, rfl, ⟨rfl, rfl⟩, rfl⟩, fun h => ?_⟩, by decide⟩
  · intro x h
    simp only [List.mem_cons, List.not_mem_nil, or_false] at h
    rcases h with rfl | rfl | rfl | rfl | rfl <;>
      exact ⟨0, [1], _, witness_tIss _ rfl rfl rfl rfl rfl (by decide), ⟨rfl, rfl, rfl⟩, rfl, rfl, by decide, rfl, rfl, by decide,
        witness_tokenFree rfl, rfl, rfl, rfl, rfl⟩
  · have := (h (tOp .busy (.copy tCopyBody)) rfl).1
    exact absurd this (by decide)

/-- Blocks of `cpyt` to memory and to a stream, of `ringpush`, and of `rpart`; and one with a version of 0. -/
def tCpyt (ds q kd : Nat) : List Byte :=
  tBlock 192 ([(0, kd), (1, 1), (2, 192), (4, 4), (8, 1), (9, 2), (10, 4), (11, ds), (12, q), (16, 2 ^ 24), (24, if ds = 15 then 0 else 2 ^ 24 + 512), (32, 3), (64, 4),
    (128, if ds = 15 then 0 else 4)] ++ (List.range 7).map (fun k => (36 + 4 * k, 1)))
def tPush : List Byte := tBlock 40 [(0, 3), (1, 1), (2, 40), (8, 4), (9, 0), (16, 2 ^ 24), (24, 256), (28, 2), (32, 256)]
def tRpart : List Byte :=
  tBlock 96 [(0, 6), (1, 1), (2, 96), (4, 6), (8, 0), (10, 2), (11, 4), (12, 2), (16, 16), (20, 0), (24, 0xFFFFFFFF), (32, 2 ^ 24 + 1024), (40, 2), (44, 4),
    (48, 2 ^ 24 + 2048), (56, 2 ^ 24 + 4096), (64, 2 ^ 24 + 8192)]

/-- A block copy at the start of the page, read whole. -/
def tBlkOk (kind : Nat) (b : List Byte) : Prop :=
  let e := plainEnc 1 0 false (.tk 3) (.s 2) (.v 0) (.v 0)
  let s := tBlk b
  ∃ c r1, Issuing s tBlkWg tTeam probeText ∧ freeToRelease s tBlkWg tTeam ∧ (starts s tBlkWg tTeam probeText e).parts = [0, 1] ∧ s.getCore 0 = some c ∧ c.locks.length ≤ 60 ∧
    (tTeam.link 3).wait = none ∧ (tTeam.link 3).arr = none ∧ s.tokenFree tTeam 3 ∧ s.rackerHeld 0 < 64 ∧
    ({ starts s tBlkWg tTeam probeText e with
        s := s.releaseAt 0 (if kind = 6 then 6 else (starts s tBlkWg tTeam probeText e).peekScope 0 (2 ^ 24)) } : Run).readBlock 0 (2 ^ 24) = (r1, b) ∧ r1.halt = .go ∧
    (∀ x ∈ (if kind = 6 then rpRanges b else rangesOf tBlkWg kind b), r1.interval 0 x.sp x.lo x.hi = none) ∧ r1.streamTaken 2 = false

def tRead (kind : Nat) (b : List Byte) : Run × List Byte :=
  let r := starts (tBlk b) tBlkWg tTeam probeText (plainEnc 1 0 false (.tk 3) (.s 2) (.v 0) (.v 0))
  ({ r with s := (tBlk b).releaseAt 0 (if kind = 6 then 6 else r.peekScope 0 (2 ^ 24)) } : Run).readBlock 0 (2 ^ 24)

theorem witness_blkOk (kind : Nat) (b : List Byte) (h2 : (tRead kind b).2 = b) (h3 : (tRead kind b).1.halt = .go)
    (h4 : ((if kind = 6 then rpRanges b else rangesOf tBlkWg kind b).all (fun x => ((tRead kind b).1.interval 0 x.sp x.lo x.hi).isNone)) = true)
    (h5 : (tRead kind b).1.streamTaken 2 = false) : tBlkOk kind b :=
  ⟨newCore 0 1, (tRead kind b).1, ⟨rfl, rfl, rfl, ⟨rfl, rfl⟩, rfl⟩, ⟨rfl, rfl, rfl⟩, rfl, rfl, by decide, rfl, rfl, witness_tokenFree rfl, (show (0 : Nat) < 64 by decide),
    Prod.ext rfl h2, h3, fun x hx => Option.isNone_iff_eq_none.mp (List.all_eq_true.mp h4 x hx), h5⟩

/-- `CopiesIssue`, a command block: accepted, to memory, a stream and a ring; `rpart`; rejected. -/
theorem witness_blocks :
    (tBlkOk 1 (tCpyt 4 0 1) ∧ headReason 1 (tCpyt 4 0 1) = 0 ∧ bodyReason tBlkWg 1 (tCpyt 4 0 1) = 0) ∧
    (tBlkOk 1 (tCpyt 15 2 1) ∧ headReason 1 (tCpyt 15 2 1) = 0 ∧ bodyReason tBlkWg 1 (tCpyt 15 2 1) = 0 ∧ fieldAt (tCpyt 15 2 1) 11 1 = 15) ∧
    (tBlkOk 3 tPush ∧ headReason 3 tPush = 0 ∧ bodyReason tBlkWg 3 tPush = 0 ∧ fieldAt tPush 24 4 * fieldAt tPush 28 4 ≤ (tBlk tPush).ringFree tBlkWg (fieldAt tPush 9 1)) ∧
    (tBlkOk 6 tRpart ∧ headReason 6 tRpart = 0) ∧ (tBlkOk 1 (tCpyt 4 0 2) ∧ headReason 1 (tCpyt 4 0 2) ≠ 0) ∧ (tBlk (tCpyt 4 0 1)).getOp (tBlk (tCpyt 4 0 1)).nextId = none :=
  ⟨⟨witness_blkOk _ _ (by decide +kernel) (by decide +kernel) (by decide +kernel) (by decide +kernel), rfl, rfl⟩, ⟨witness_blkOk _ _ (by decide +kernel) (by decide +kernel) (by decide +kernel) (by decide +kernel), rfl, rfl, rfl⟩, ⟨witness_blkOk _ _ (by decide +kernel) (by decide +kernel) (by decide +kernel) (by decide +kernel), rfl, rfl, by decide⟩,
    ⟨witness_blkOk _ _ (by decide +kernel) (by decide +kernel) (by decide +kernel) (by decide +kernel), rfl⟩, ⟨witness_blkOk _ _ (by decide +kernel) (by decide +kernel) (by decide +kernel) (by decide +kernel), by decide⟩, rfl⟩

def tPressBody : PressBody :=
  { rows := [], pfmt := 0, cbase := 0, ringA := 1, ringB := 2, headA := 0, headB := 0, popsA := 0, popsB := 0, next := 1, wbase := 0, doneBits := 0, started := [], total := 1 }

/-- `TokensWait`: no operation on the token; one that has ended; one that has not; of each body. -/
theorem witness_tokens :
    (tIss tTeam ∧ tState.tokenFree tTeam 3) ∧
    (∀ b ∈ [OpBody.copy tCopyBody, .press tPressBody], Issuing (tTokState .done b) (tWg.putTeam tTok) tTok probeText ∧
      (starts (tTokState .done b) (tWg.putTeam tTok) tTok probeText (tEnc (.tk 3))).parts ≠ [] ∧ (tTokState .done b).tokenFree tTok 3 ∧
      ¬ (tTokState .busy b).tokenFree tTok 3 ∧ (tTokState .done b).opOf tTok 3 = some (tOp .done b)) := by
  refine ⟨⟨witness_tIss _ rfl rfl rfl rfl rfl (by decide), witness_tokenFree rfl⟩, ?_⟩
  intro b _
  refine ⟨⟨rfl, rfl, rfl, ⟨rfl, rfl⟩, rfl⟩, ?_, ?_, ?_, rfl⟩
  · exact (by decide : [0, 1] ≠ [])
  · intro o ho
    have : o = tOp .done b := (Option.some.inj ho).symm
    rw [this]
    exact ⟨rfl, by simp [tOp, opFor]⟩
  · intro h
    have := (h (tOp .busy b) rfl).1
    exact absurd this (by simp [tOp, opFor, OpSt.isBusy])

/-- A workgroup with two rings and four tiles, and a team with one nest row of one step. -/
def tPressWg (t : Team) : Workgroup :=
  { tWg.putTeam t with sw := 131072, vt := 4, rings := [⟨0, 0, 0, 0⟩, ⟨0, 65536, 0, 0⟩, ⟨65536, 65536, 0, 0⟩, ⟨0, 0, 0, 0⟩] }
def tPressTeam : Team := { tTeam with nest := [[1, 0, 0, 0, 0, 0, 0, 0]], nrows := 1, s := [(4, 256), (5, 512), (6, 300), (7, 130816)] }
def tPressState : State := { tWith tPressTeam with wgs := [tPressWg tPressTeam] }

/-- `PressIssues`: a nest that `pgo` accepts and one that it refuses; rings within the scratchpad, at its end, past it, of size 0 and misaligned; a ring in use. -/
theorem witness_press :
    Issuing tPressState (tPressWg tPressTeam) tPressTeam probeText ∧ Fresh tPressTeam ∧ freeToRelease tPressState (tPressWg tPressTeam) tPressTeam ∧
    (∃ c, tPressState.getCore 0 = some c ∧ c.direct = none ∧ c.locks.length ≤ 62) ∧ (tPressState.pressHeld 0).length < 16 ∧ tPressState.tokenFree tPressTeam 3 ∧
    pgoCheck (tPressWg tPressTeam) tPressTeam.pfmt (tPressTeam.nest.take 1) 1 2 0 = none ∧ pgoCheck (tPressWg tPressTeam) tPressTeam.pfmt (tPressTeam.nest.take 1) 0 2 0 ≠ none ∧
    (tPressTeam.valueOf true 0 (.s 4) 8 32 0 false = 256 ∧ tPressTeam.valueOf true 0 (.s 5) 8 32 0 false = 512 ∧ tPressTeam.valueOf true 0 (.s 7) 8 32 0 false = 130816) ∧
    (130816 + 256 ≤ (tPressWg tPressTeam).sw ∧ (tPressWg tPressTeam).sw < 130816 + 512 ∧ 300 % 256 ≠ 0) ∧
    (∀ o ∈ tPressState.ops, o.wg = 0 → o.namesRing 1 = false) ∧
    (let s : State := { tPressState with ops := [tOp .active (.press tPressBody)] }; ∃ o ∈ s.ops, o.wg = 0 ∧ o.namesRing 1 = true) ∧
    tPressTeam.nest.length ≤ 6 ∧ (5 : BitVec 17).toNat < 6 :=
  ⟨⟨rfl, rfl, rfl, ⟨rfl, rfl⟩, rfl⟩, ⟨rfl, rfl, by decide⟩, ⟨rfl, rfl, rfl⟩, ⟨_, rfl, rfl, by decide⟩, by decide, witness_tokenFree rfl, by decide +kernel, by decide +kernel, ⟨rfl, rfl, rfl⟩,
    ⟨by decide, by decide, by decide⟩, (by intro o ho; cases ho), ⟨_, List.mem_singleton_self _, rfl, rfl⟩, by decide, by decide⟩

/-- And `nestw` from a nest record of the kernel: two rows. -/
def tNestObj : CodeObj :=
  { tObj with kernels := natBytes 64 (8 * 2 ^ 64 + 2 ^ 288), nests := natBytes 72 (2 + 3 * 2 ^ 64) }
theorem witness_nestRecord :
    (match ({ tPressState with objects := [tNestObj] } : State).nestRows 0 probeText 0 with
      | some rows => decide (rows.length ≤ 6)
      | none => false) = true := by decide +kernel

/-- A base of 16 and a pitch of 64 in s4 and s6, one tile in s7, four tiles and a scratchpad of two pages. -/
def tVatTeam : Team := { tOne with s := [(4, 16), (5, 0), (6, 64), (7, 1), (8, 5)] }
def tVatWg : Workgroup := { tWg.putTeam tVatTeam with sw := 8192, vt := 4 }
def tVatState : State := { tWith tVatTeam with wgs := [tVatWg] }
def tVatEnc : Enc := plainEnc 2 0 true (.vt 3) (.s 4) (.s 6) (tSpc 1 2 0)

/-- `VatInstructions`: a tile at the end of the workgroup's, past it, and none; 4096 elements that lie in the scratchpad apart. -/
theorem witness_vat :
    Issuing tVatState tVatWg tVatTeam probeText ∧ Fresh tVatTeam ∧ (starts tVatState tVatWg tVatTeam probeText tVatEnc).parts = [0] ∧ Legal.space tVatEnc = 1 ∧
    (vtNo (.vt 3) + 1 ≤ tVatWg.vt ∧ ¬ (vtNo (.vt 4) + 1 ≤ tVatWg.vt)) ∧ tVatTeam.valueOf true 0 (.s 7) 8 32 0 false = 1 ∧ tVatTeam.valueOf true 0 (.s 8) 8 32 0 false = 5 ∧
    tVatTeam.valueOf true 0 (.s 9) 8 32 0 false = 0 ∧
    ((List.range 4096).all (fun k =>
      let a : Int := ((tVatTeam.valueOf true 0 (.s 4) 0 64 0 false : Nat) : Int) + sVal 32 (tVatTeam.valueOf true 0 (.s 6) 4 32 0 false) * ((k / 64 : Nat) : Int) + ((1 * (k % 64) : Nat) : Int)
      decide ((tVatState.putWg (tVatWg.putTeam tVatTeam.begun)).locate (agentOf tVatWg tVatTeam 0) 1 a 1 1 .load = .at_ (.scratch 0 (16 + k))) &&
      ((tVatState.putWg (tVatWg.putTeam tVatTeam.begun)).lockMet (agentOf tVatWg tVatTeam 0) 1 (.scratch 0 (16 + k)) a.toNat 1 false).isNone)) = true ∧
    tVatState.bad = [] ∧ Memory.wf tVatWg.scratch = true ∧ spWf 0 tVatWg.vat = true :=
  ⟨⟨rfl, rfl, rfl, ⟨rfl, rfl⟩, rfl⟩, ⟨rfl, rfl, by decide⟩, rfl, rfl, by decide, rfl, rfl, rfl, by decide +kernel, rfl, rfl, rfl⟩

/-! Barriers and the system instructions. -/

/-- The team's workgroup with core barrier 1 as given. -/
def tBarWg (b : CoreBar) : Workgroup := { tWg.putTeam tTeam with bars := [{ armed := false, expect := 0, arr := 0, count := 0, phase := 0 }, b] }
def tBarState (b : CoreBar) : State := { tWith tTeam with wgs := [tBarWg b] }
def tBarEnc (n : Nat) (var : BitVec 3) : Enc := plainEnc 0 var false (.v 9) (.bar 1) (.imm (BitVec.ofNat 17 n)) (.v 0)

/-- `CoreBarriers`: no barrier; idle and busy; LIVE and COUNTED, with the arrival that completes a phase, one before it and one past it; armed and not; phases done and not. -/
theorem witness_coreBarriers :
    (∀ b, Issuing (tBarState b) (tBarWg b) tTeam probeText) ∧ Fresh tTeam ∧ tTeam.passed = none ∧ tTeam.heldPhase = none ∧
    (starts (tBarState ⟨true, 7, 0, 3, 5⟩) (tBarWg ⟨true, 7, 0, 3, 5⟩) tTeam probeText (tBarEnc 4 0)).parts = [0, 1] ∧
    (∀ n ∈ [1, 3, 4, 5], tTeam.valueOf true 0 (.imm (BitVec.ofNat 17 n)) 8 32 0 false = n) ∧ tWg.bars[1]? = none ∧
    (tBarWg ⟨true, 7, 0, 3, 5⟩).bars[1]? = some ⟨true, 7, 0, 3, 5⟩ ∧ 3 + 3 < 7 ∧ 3 + 4 = 7 ∧ ¬ (3 + 5 ≤ 7) ∧
    (let w := (tBarWg ⟨true, 0, 0, 0, 5⟩).putTeam tTeam.begun;
      w.liveTeams ≠ 0 ∧ w.liveTeams &&& ~~~((0 : BitVec 64) ||| BitVec.ofNat 64 (2 ^ tTeam.tix)) = 0) ∧
    (∀ u ∈ ((tBarWg ⟨true, 0, 0, 0, 5⟩).putTeam tTeam.begun).teams, ∀ ph, u.st ≠ .stall (.phase (.core 1) ph)) ∧
    (1 ≤ (5 + 2 ^ 32 - 4 % 2 ^ 32) % 2 ^ 32 ∧ ¬ (1 ≤ (5 + 2 ^ 32 - 5 % 2 ^ 32) % 2 ^ 32)) := by
  refine ⟨fun b => ⟨rfl, rfl, rfl, ⟨rfl, rfl⟩, rfl⟩, ⟨rfl, rfl, by decide⟩, rfl, rfl, rfl, ?_, rfl, rfl, by decide, by decide, by decide, by decide, ?_, by decide⟩
  · intro n h
    simp only [List.mem_cons, List.not_mem_nil, or_false] at h
    rcases h with rfl | rfl | rfl | rfl <;> rfl
  · intro u hu ph
    have e : ((tBarWg ⟨true, 0, 0, 0, 5⟩).putTeam tTeam.begun).teams = [tTeam.begun] := rfl
    have : u = tTeam.begun := by rw [e] at hu; exact List.mem_singleton.mp hu
    rw [this]
    simp [Team.begun]

/-- And a barrier busy with the wait of another team that a cut has kept. -/
theorem witness_savedWait :
    (let u : Team := { tTeam with tix := 1, savedWait := some (.core 1, 5) }
     let w : Workgroup := { tBarWg ⟨true, 0, 0, 0, 5⟩ with teams := [tTeam, u] }
     u ∈ (w.putTeam tTeam.begun).teams ∧ (∀ x q, u.st ≠ .stall (.phase x q)) ∧ u.savedWait = some (.core 1, 5)) ∧
    freeToRelease (tBarState ⟨true, 0, 0, 0, 5⟩) (tBarWg ⟨true, 0, 0, 0, 5⟩) tTeam := by
  refine ⟨⟨by decide, ?_, rfl⟩, rfl, rfl, rfl⟩
  intro x q
  simp [tTeam]

/-- A barrier object of this package's memory at the start of the page: words at 0, 4, 8, 12 and 16. -/
def tObjBar (armed scope ex c ph : Nat) : State :=
  { tWith tTeam with dram := spPut 0 [] (2 ^ 20) (natBytes 4 armed ++ natBytes 4 scope ++ natBytes 4 ex ++ natBytes 4 c ++ natBytes 4 ph) }
def tObjEnc (n : Nat) (var : BitVec 3) : Enc := plainEnc 1 var false (.v 9) (.s 2) (.imm (BitVec.ofNat 17 n)) (.v 0)

/-- `BarrierObjects`: an object armed with 3 of 7 arrived in phase 6, an idle one, and one not armed. -/
theorem witness_barrierObjects :
    (∀ a c ex sc ph, Issuing (tObjBar a c ex sc ph) (tWg.putTeam tTeam) tTeam probeText ∧ freeToRelease (tObjBar a c ex sc ph) (tWg.putTeam tTeam) tTeam) ∧
    tTeam.valueOf true 0 (.s 2) 1 64 0 true = 2 ^ 24 ∧
    (∀ l, (tObjBar 1 4 7 3 6).knows 0 l → l.mir = false) ∧
    (∀ acc, ((tObjBar 1 4 7 3 6).putWg ((tWg.putTeam tTeam).putTeam tTeam.begun)).locate (agentOf (tWg.putTeam tTeam) tTeam 0) 4 (2 ^ 24) 64 64 acc = .at_ (.phys (2 ^ 20))) ∧
    (let q := ((tObjBar 1 4 7 3 6).objFlush 0 (.phys (2 ^ 20))).cohGet (.phys (2 ^ 20)) 64;
      fieldAt q 0 4 = 1 ∧ fieldAt q 4 1 = 4 ∧ fieldAt q 8 4 = 7 ∧ fieldAt q 12 4 = 3 ∧ fieldAt q 16 4 = 6) ∧
    (let q := ((tObjBar 1 4 7 0 6).objFlush 0 (.phys (2 ^ 20))).cohGet (.phys (2 ^ 20)) 64;
      fieldAt q 12 4 = 0 ∧ (tObjBar 1 4 7 0 6).barBusy (fun v => v.ctx = 0) 0 (.obj (2 ^ 24)) (fieldAt q 16 4) = false) ∧
    fieldAt (((tObjBar 0 0 0 0 6).objFlush 0 (.phys (2 ^ 20))).cohGet (.phys (2 ^ 20)) 64) 0 4 ≠ 1 ∧
    (phaseDone 6 5 = true ∧ phaseDone 6 6 = false) ∧ Memory.wf (tObjBar 1 4 7 3 6).dram = true ∧ (tObjBar 1 4 7 3 6).bad = [] ∧ (tObjBar 1 4 7 3 6).barWaits = [] := by
  refine ⟨fun a c ex sc ph => ⟨⟨rfl, rfl, rfl, ⟨rfl, rfl⟩, rfl⟩, ⟨rfl, rfl, rfl⟩⟩, rfl, fun l hl => witness_unmirrored _ rfl rfl rfl l hl, ?_, by decide +kernel, by decide +kernel, by decide +kernel,
    by decide, by decide +kernel, rfl, rfl⟩
  intro acc
  cases acc <;> rfl

/-- And one that another team waits on; nothing waits on the first; its page's home; its place after a release. -/
theorem witness_objectMet :
    (let t : Team := { tTeam with tix := 1, st := .stall (.phase (.obj (2 ^ 24)) 6) }
     let s : State := { tObjBar 1 4 7 0 6 with wgs := [{ tWg with teams := [tTeam, t] }] }
     (s.putWg ({ tWg with teams := [tTeam, t] }.putTeam tTeam.begun)).barBusy (fun v => v.ctx = 0) 0 (.obj (2 ^ 24)) 6 = true ∧ s.issuer = some ({ tWg with teams := [tTeam, t] }, tTeam)) ∧
    ((tObjBar 1 4 7 0 6).putWg (tWg.putTeam tTeam.begun)).barBusy (fun v => v.ctx = 0) 0 (.obj (2 ^ 24)) 6 = false ∧
    (∀ x, (tObjBar 1 4 7 3 6).getCtx 0 = some x → ∀ l ∈ x.pages, l.home ∈ [255, (tObjBar 1 4 7 3 6).pkg]) ∧
    (∀ acc sc, (((tObjBar 1 4 7 3 6).release 0 0 sc).putWg ((tWg.putTeam tTeam).putTeam tTeam.begun)).locate (agentOf (tWg.putTeam tTeam) tTeam 0) 4 (2 ^ 24) 64 64 acc = .at_ (.phys (2 ^ 20))) ∧
    Memory.wf (tObjBar 1 4 7 3 6).hostMem = true ∧ (∃ acc sc : Nat, 3 ≤ acc ∧ sc = 6) := by
  refine ⟨⟨by decide, rfl⟩, by decide, ?_, ?_, rfl, 3, 6, by decide, rfl⟩
  · intro x hx l hl
    have hx' : x = tCtx := (Option.some.inj hx).symm
    subst hx'
    have : l = tPage := by simpa [tCtx] using hl
    subst this
    decide
  · intro acc sc
    have h : (tObjBar 1 4 7 3 6).release 0 0 sc = tObjBar 1 4 7 3 6 := by
      unfold State.release State.releaseAt State.cover
      split <;> split <;> rfl
    rw [h]
    exact witness_barrierObjects.2.2.2.1 acc

/-- `SystemInstructions`: registers with an index in range, out of range, privileged; a translated function and none; a tag of a node, and 0. -/
theorem witness_system :
    tIss tTeam ∧ (starts tState tWg tTeam probeText (tEnc (.imm 0x022))).parts = [0, 1] ∧ regNo (.imm 0x022) = 0x022 ∧ regHas 0x022 0 = true ∧ regHas 0x022 1 = false ∧
    (regHas 0x051 4095 = true ∧ regHas 0x051 4096 = false) ∧ (∃ n ix, regHas n ix = true ∧ regPriv n ix = true ∧ (starts tState tWg tTeam probeText (tEnc (.imm 0))).privileged = false) ∧
    (∃ x, ({ tState with queues := [tQueue] } : State).getQueue 3 = some x ∧ x.ctx = 0) ∧
    ({ tState with dir := [] } : State).entryAt tWg probeText = none ∧ (∃ d g, tState.entryAt tWg probeText = some (d, g)) ∧
    (tTeam.valueOf true 0 (.imm 0) 0 32 0 false % 2 ^ 32 = 0 ∧ tTeam.valueOf true 0 (.imm 7) 0 32 0 false % 2 ^ 32 = 7) ∧ (∃ c, tState.getCtx 0 = some c ∧ c.st = .running) ∧
    (∀ m ∈ tState.nodes, m.tag = 7 → m.succs = []) ∧
    (∀ v ∈ tState.wgs, ∀ u ∈ v.teams, u.pendFaults = [] ∧ tState.inNative v u = false) ∧ (∀ q ∈ tState.queues, q.ctx = 0 → q.widx = q.ridx) := by
  refine ⟨witness_tIss _ rfl rfl rfl rfl rfl (by decide), rfl, rfl, by decide, by decide, by decide, ⟨0x004, 0, by decide, by decide, rfl⟩, ⟨_, rfl, rfl⟩, rfl, ⟨_, _, rfl⟩, by decide, ⟨_, rfl, rfl⟩, ?_, ?_, by decide⟩
  · intro m hm _
    have : m = tNode := by simpa [tState] using hm
    rw [this]; rfl
  · intro v hv u hu
    have hv' : v = tWg := by simpa [tState] using hv
    subst hv'
    have : u = tTeam := by simpa [tWg] using hu
    rw [this]; exact ⟨rfl, rfl⟩

/-! The native form. -/

/-- A native team at a clause of two bundles, with a long-latency operation of flag 1 outstanding. -/
def tLong (th : Option Nat) (wide rel : Bool) : LongLat :=
  { flag := some 1, wreg := 7, val := 8, hi := 9, wide := wide, thread := th, rel := if rel then some 4 else none, due := 0, seq := 0 }
def tClause (started : Bool) (x : LongLat) : Team :=
  { tTeam with nat := { tTeam.nat with started := started, pc := probeText, mask := 3, flags := [0, 1], outstanding := [x] } }
def tClauseState (started : Bool) (x : LongLat) : State := { tNative started with wgs := [tWg.putTeam (tClause started x)] }
/-- A header that waits for given flags. -/
def tHeader (wait : BitVec 12) : ClauseHeader := { headerOf 0x7000000000000000000BFF000 with wait := wait }

/-- A native team with a fault of an operation of flag 0 to deliver. -/
def tFaulted (y : NatFault) : Team := { tTeam with nat := { tTeam.nat with faults := [{ y with flag := some 0 }] } }

/-- `NativeSteps`: a header whose flags are clear and one that waits; a fault of a flag that a header waits for; a bundle of plain moves before the last; a register and a pair written for a thread and for the team. -/
theorem witness_native :
    (∀ b x, (tClauseState b x).issuer = some (tWg.putTeam (tClause b x), tClause b x) ∧ (tClause b x).leadPc = some probeText ∧ (tClause b x).pendFaults = [] ∧
      (tClause b x).fmask = 0 ∧ (tClause b x).nat.direct = false ∧ (tClause b x).nat.outstanding[0]? = some x ∧ (tClause b x).unacked = [] ∧ (tClause b x).nat.occ = 0 ∧
      (tClause b x).nat.faults = [] ∧ (tClause b x).halting = false ∧ (tClause b x).nat.started = b) ∧
    (∀ y, (tFaulted y).nat.faults = [{ y with flag := some 0 }] ∧ (tHeader 1).wait.getLsbD 0 = true ∧ (tFaulted y).flagOf 0 = 0) ∧ (tHeader 0).stop = true ∧
    (∀ f, f < 12 → (tHeader 1).wait.getLsbD f = true → (tClause false (tLong none false false)).flagOf f = 0) ∧
    ((tHeader 2).wait.getLsbD 1 = true ∧ (tClause false (tLong none false false)).flagOf 1 ≠ 0) ∧
    (∃ h, (tClauseState true (tLong none false false)).headerAt 0 probeText = some h ∧ (tClause true (tLong none false false)).nat.bundle < h.nb.toNat ∧
      h.uni.getLsbD (tClause true (tLong none false false)).nat.bundle = false) ∧ (∀ m ∈ movesOf 0 (bundleSlots (bundleOf 0)), plainMove m = true) ∧
    ((tLong (some 0) false false).thread = some 0 ∧ (tLong none true true).wide = true ∧ (tLong none true true).rel = some 4 ∧ (tLong none true false).rel = none ∧
      (tLong none true true).due ≤ (tNative true).cc) :=
  ⟨fun b x => ⟨rfl, by cases b <;> rfl, rfl, rfl, rfl, rfl, rfl, rfl, rfl, rfl, rfl⟩, fun y => ⟨rfl, by decide, rfl⟩, by decide, by decide, ⟨by decide, by decide⟩, ⟨_, rfl, by decide +kernel, by decide +kernel⟩, by decide +kernel, rfl, rfl, rfl, rfl, by decide⟩

def tDirect (d : Option (Nat × Nat)) (st : List DirectStart) : State := { tWith tTeam with cores := [{ newCore 0 1 with direct := d, directStarted := st }], wgs := [tPressWg tTeam] }
def tStarted : DirectStart := { wg := 0, tix := 0, tile := 0, offA := 0, offB := 0, pfmt := 0, nbv := 2, at_ := 0 }

/-- `DirectMode`: free, with the press empty and not; held by another team and by this one, with a micro-tile under way and none; a place in time 126 and 127 cc after the last;
offsets within the scratchpad, past its end, misaligned and negative; a tile of the workgroup's and one past them; a format that is none. -/
theorem witness_direct :
    (∀ d st, Issuing (tDirect d st) (tPressWg tTeam) tTeam probeText ∧ (∃ c, (tDirect d st).getCore 0 = some c ∧ c.direct = d ∧ c.directStarted = st) ∧
      (starts (tDirect d st) (tPressWg tTeam) tTeam probeText (plainEnc 0 0 false .zero .zero .zero .zero)).parts = [0, 1] ∧
      freeToRelease (tDirect d st) (tPressWg tTeam) tTeam ∧ (tDirect d st).pressHeld 0 = [] ∧ ({ tDirect d st with cc := (tDirect d st).cc + 2 } : State).startPlace 0 = true) ∧
    ({ tDirect none [] with ops := [tOp .active (.press tPressBody)] } : State).pressHeld 0 ≠ [] ∧ [tStarted] ≠ [] ∧ ((0 : Nat), (1 : Nat)) ≠ (0, 0) ∧
    (let s : State := { tDirect (some (0, 0)) [] with cores := [{ newCore 0 1 with direct := some (0, 0), lastStart := some 900 }], cc := 900 }
     ({ s with cc := s.cc + 2 } : State).startPlace 0 = false) ∧
    (pfmtOk tTeam.fmtSettled.pfmt = true ∧ pfmtOk (BitVec.ofNat 32 7) = false) ∧
    (tilesOk (tPressWg tTeam) (pfCF tTeam.pfmt = 1) 3 1 = true ∧ tilesOk (tPressWg tTeam) (pfCF tTeam.pfmt = 1) 4 1 = false) ∧
    (let off : BitVec 12 → Int := fun x =>
       if x.toNat / 1024 = 2 then (BitVec.ofNat 10 x.toNat).toInt else if x.toNat / 1024 = 0 then ((tTeam.gGet (x.toNat % 256)).toNat : Int) else 0
     let n := (slotA tTeam.fmtSettled.pfmt).slotBytes
     off 0x900 = 256 ∧ 256 + n ≤ (tPressWg tTeam).sw ∧ (slotB tTeam.fmtSettled.pfmt).slotBytes ≤ (tPressWg tTeam).sw ∧ ¬ (256 + n ≤ ({ tPressWg tTeam with sw := 256 } : Workgroup).sw) ∧
       off 0x801 = 1 ∧ off 0xB00 = -256 ∧ off 0 = 0) :=
  ⟨fun d st => ⟨⟨rfl, rfl, rfl, ⟨rfl, rfl⟩, rfl⟩, ⟨_, rfl, rfl, rfl⟩, rfl, ⟨rfl, rfl, rfl⟩, rfl, rfl⟩, by decide, by decide, by decide, by decide +kernel, by decide +kernel, by decide +kernel, by decide +kernel⟩

/-! What happens without an instruction: teams, workgroups and engines. -/

/-- A team in its package at a time of 5000 ns and 4000 cc. -/
def tNow (t : Team) : State := { tWith t with tai := 5000, cc := 4000 }
/-- A combining entry of one byte, opened at 10 cc, and its package with the page homed on package 7. -/
def tComb : CombEntry := { thread := 0, block := 2 ^ 24, bytes := [(3, 9)], mask := 8, opened := 10, ppc := 0 }
def tCombTeam (c : Nat) : Team := { tTeam with comb := [tComb], clock := c }
def tFarState (t : Team) : State := { tNow t with contexts := [{ tCtx with pages := [{ tPage with home := 7 }] }] }
def tDoneT : Team := { tTeam with st := .done, threads := tTeam.threads.map (fun h => { h with st := .exit }) }
def tMate (st : WgSt) : Workgroup := { tWg with uid := 1, st := st }

/-- `TeamEvents`: the watchdog one short, at its limit once and twice; both clocks of a sleep at and before their end; a feed with a value to come; a read stream with an element to come;
a combining entry too young and old enough; a workgroup that runs, one that is over alone, and one with a neighbour. -/
theorem witness_teamEvents :
    (∀ t : Team, t.tix = 0 → (tNow t).teamOf 0 0 = some (tWg.putTeam t, t) ∧ (tFarState t).teamOf 0 0 = some (tWg.putTeam t, t)) ∧
    ((65535 : BitVec 24).toNat < 65536 ∧ 65536 ≤ (65536 : BitVec 24).toNat ∧ tTeam.wdogExp = false ∧ ({ tTeam with wdogExp := true } : Team).wdogExp = true) ∧
    (4000 ≤ (tNow tTeam).cc ∧ (tNow tTeam).cc < 4001 ∧ 5000 ≤ (tNow tTeam).tai ∧ (tNow tTeam).tai < 5001) ∧
    ((tNow tTeam).getNode tWg.node = some tNode ∧ tTeam.st ≠ .done ∧ (tNow tTeam).ctxRuns 0 = true ∧ tTeam.feedPos + tTeam.feedBuf.length < fieldAt tNode.packet 64 4 ∧ tTeam.feedBuf.length < 64 ∧
      (∃ bs, (tNow tTeam).memGet 0 (fieldAt tNode.packet 56 8 + 4 * (fieldAt tNode.packet 64 4 * (if fieldAt tNode.packet 68 1 = 1 then tWg.wgx * tWg.teams.length + tTeam.tix else 0) +
        (tTeam.feedPos + tTeam.feedBuf.length))) 4 = some bs)) ∧
    (∃ rec m, let s := tNow tBound; let st := tBound.stream 0; let a := elemAddr rec st.base (st.pos + st.buf.length); let g := agentOf (tWg.putTeam tBound) tBound 0;
      s.streamRecord (tWg.putTeam tBound) 0 = some rec ∧ tBound.st ≠ .done ∧ st.bound = true ∧ st.write = false ∧ st.copy = none ∧ st.pos + st.buf.length < st.total ∧
      (st.buf.length + 1) * 2 ^ st.esz ≤ 128 ∧ st.buf = [] ∧ s.locate g (fieldAt rec 4 1) a 4 4 .load = .at_ (.phys (2 ^ 20)) ∧ s.lockMet g (fieldAt rec 4 1) (.phys (2 ^ 20)) a.toNat 4 false = none ∧
      s.bytesOf g (.phys (2 ^ 20)) = some m ∧ Memory.wf m = true ∧ s.bad = []) ∧
    ((tCombTeam 1033).clock < tComb.opened + 1024 ∧ ((tNow (tCombTeam 1033)).getCtx 0).map Context.st ≠ some .cutting) ∧
    (∃ l, let s := tFarState (tCombTeam 1034); tComb.opened + 1024 ≤ (tCombTeam 1034).clock ∧ (s.getCtx 0).bind (fun x => x.walk tComb.block) = some l ∧ l.res = true ∧ l.mig = false ∧ l.home ≠ 255 ∧ l.home ≠ s.pkg ∧ (tCombTeam 1034).st ≠ .done ∧ l.dests s.pkg = [7] ∧ l.conf = false ∧
      ((s.getCtx 0).map Context.gangQuiet).getD false = false ∧ s.sendBar 7 false tComb.payload.length = .open_) ∧
    tState.wgOver tWg = false ∧
    (let s := tNow tDoneT; s.wgOver (tWg.putTeam tDoneT) = true ∧ ∀ y ∈ s.wgs, y.uid = 0) ∧
    (let s := { tNow tDoneT with wgs := [tWg.putTeam tDoneT, tMate .run] }; s.wgOver (tWg.putTeam tDoneT) = true ∧ ∃ y ∈ s.wgs, y.nbId = tWg.nbId ∧ y.ctx = 0 ∧ y.uid ≠ 0 ∧ y.st ≠ .done) := by
  refine ⟨?_, by decide, by decide, ⟨rfl, by decide, rfl, by decide +kernel, by decide, _, rfl⟩, ⟨_, _, rfl, by decide, rfl, rfl, rfl, by decide, by decide, rfl, rfl, rfl, rfl, by decide, rfl⟩, by decide,
    ⟨_, by decide, rfl, rfl, rfl, by decide, by decide, by decide, rfl, rfl, rfl, rfl⟩, by decide, by decide, by decide⟩
  intro t h
  refine ⟨?_, ?_⟩ <;> simp [tNow, tFarState, tWith, State.teamOf, State.getWg, findBy, tState, tWg, Workgroup.putTeam, Workgroup.getTeam, putBy, tTeam, Team.fresh, probeWg, h]

def tPb (next : Nat) (started : List Started) : PressBody := { tPressBody with next := next, rows := [[3, 0, 0, 0, 0, 0, 0, 0]], total := 3, started := started }
def tPOp (st : OpSt) (b : PressBody) : Op := { tOp st (.press b) with id := 1 }
/-- The press with an operation and 65536 bytes of each ring ready. -/
def tPressing (o : Op) : State :=
  { tPressState with ops := [o], nextId := 3, cc := 1000, wgs := [{ tPressWg tPressTeam with rings := [⟨0, 0, 0, 0⟩, ⟨0, 65536, 0, 65536⟩, ⟨65536, 65536, 0, 65536⟩, ⟨0, 0, 0, 0⟩] }] }
def tCopyAt (i : Nat) : CopyBody := { kind := 0, block := [], dst := 2 ^ 24 + 64, src := 2 ^ 24, len := 8, idx := i, total := 8, bytes := i, flags := 1, why := 0 }
def tPushAt : CopyBody := { kind := 3, block := tPush, dst := 0, src := 0, len := 0, idx := 1, total := 2, bytes := 256, flags := 0, why := 0 }
def tCOp (b : OpBody) : Op := { tOp .busy b with id := 1 }
/-- A copy with its page in host memory, and a ring of 512 bytes with one slot taken. -/
def tCopying (o : Op) : State :=
  { tWith tTeam with ops := [o], nextId := 3, contexts := [{ tCtx with pages := [{ tPage with home := 255, frame := 0 }] }], wgs := [{ tWg.putTeam tTeam with rings := [⟨0, 512, 0, 768⟩] }] }
def tRp (n : Nat) (kept : Bool) : RpartBody := { block := tRpart, stage := n, bounds := [], hist := [], cnts := [], recs := [], recv := 0, kept := kept, why := 0 }

/-- `EngineEvents`: an operation to activate and one that finds four active; a micro-tile to start, 63 cc after the last, and to retire; a push with room; a copy of its fourth of eight bytes,
after its last, and with a write unacknowledged; an `rpart` at each of its stages. -/
theorem witness_engineEvents :
    (∀ st b, (tPressing (tPOp st b)).getOp 1 = some (tPOp st b) ∧ (tPOp st b).link.wait = none ∧ (tPOp st b).link.arr = none) ∧ (∀ b, (tCopying (tCOp b)).getOp 1 = some (tCOp b)) ∧
    ((tPressing (tPOp .queued (tPb 0 []))).pressActive 0).length < 4 ∧ (∀ x ∈ (tPressing (tPOp .queued (tPb 0 []))).pressHeld 0, 1 ≤ x.id) ∧
    4 ≤ (({ tPressState with ops := tPOp .queued (tPb 0 []) :: (List.range 4).map (fun k => { tPOp .active (tPb 0 []) with id := 10 + k }) } : State).pressActive 0).length ∧
    (let s := tPressing (tPOp .active (tPb 3 [])); s.startPlace 0 = true ∧ s.stepReady (tPOp .active (tPb 3 [])) (tPb 3 []) 0 = true) ∧
    (∃ k, ({ tPressing (tPOp .active (tPb 3 [])) with cores := [{ newCore 0 1 with lastStart := some 937 }] } : State).getCore 0 = some k ∧ k.lastStart = some 937 ∧ 1000 < 937 + 64) ∧
    (∃ w x, let b := tPb 3 [{ step := 0, nbv := 2, at_ := 920 }]; let s := tPressing (tPOp .active b);
      s.getWg 0 = some w ∧ s.bad = [] ∧ spWf 0 w.vat = true ∧ findBy (fun (y : Started) => y.step = 0) b.started = some x ∧ x.at_ + 80 ≤ s.cc ∧ b.wbase ≤ 0 ∧ 0 < b.wbase + 64) ∧
    (∃ w s1 bs, let o := tCOp (.copy tPushAt); let s := tCopying o; let c := tPushAt;
      c.kind = 3 ∧ c.idx < c.total ∧ s.getWg 0 = some w ∧ s.pushTurn o (fieldAt c.block 9 1) = true ∧ fieldAt c.block 9 1 < w.rings.length ∧ 0 < (w.ring (fieldAt c.block 9 1)).size ∧
      fieldAt c.block 24 4 ≤ (w.ring (fieldAt c.block 9 1)).size ∧ Memory.wf w.scratch = true ∧
      s.engineRead o (fieldAt c.block 8 1) (fieldAt c.block 16 8 + c.idx * signedAt c.block 32 8) (fieldAt c.block 24 4) = .ok s1 bs) ∧
    (∃ s1 s2 bs, let o := tCOp (.copy (tCopyAt 3)); let s := tCopying o; let c := tCopyAt 3;
      c.kind = 0 ∧ c.idx < c.total ∧ s.engineRead o 4 ((c.src + c.idx : Nat) : Int) 1 = .ok s1 bs ∧ s1.engineWrite o 4 ((c.dst + c.idx : Nat) : Int) bs = .ok s2 () ∧ s2.getOp 1 = some o) ∧
    ((tCopyAt 8).total ≤ (tCopyAt 8).idx ∧ (tCOp (.copy (tCopyAt 8))).unacked = [] ∧ (tCOp (.copy (tCopyAt 8))).link.arr = none ∧ ({ tCOp (.copy (tCopyAt 8)) with unacked := [⟨9, 5, false, 0, 0⟩] } : Op).unacked ≠ []) ∧
    (rpMode tRpart ≠ 1 ∧ (∃ x, (tCopying (tCOp (.rpart (tRp 0 false)))).getCtx 0 = some x ∧ x.gang = false) ∧ (tRp 1 false).bounds = [] ∧
      (let mine : Nat × Nat × List Byte := (5, rpRound tRpart, rpFields tRpart []); [mine].filter (fun j => j.2.1 = rpRound tRpart) = [mine])) := by
  refine ⟨fun st b => ⟨rfl, rfl, rfl⟩, fun b => rfl, by decide, by decide, by decide, by decide +kernel, ⟨_, rfl, rfl, by decide⟩, ⟨_, _, rfl, rfl, rfl, rfl, by decide, by decide, by decide⟩,
    ⟨_, _, _, rfl, by decide, rfl, by decide +kernel, by decide +kernel, by decide +kernel, by decide +kernel, rfl, rfl⟩, ⟨_, _, _, rfl, by decide, rfl, rfl, rfl⟩, by decide, by decide +kernel,
    ⟨_, rfl, rfl⟩, rfl, by decide +kernel⟩

/-- And a press that a cut has stopped and one that it has not; the operation that starts next after operation 1 of operations 1 and 2; one join of a round. -/
theorem witness_rotation :
    (let s := tPressing (tPOp .queued (tPb 0 [])); s.pressStopped 0 = false ∧ ({ s with wgs := s.wgs.map (fun w => { w with pressStop := true }) } : State).pressStopped 0 = true) ∧
    (let two : State := { tPressing (tPOp .active (tPb 3 [])) with ops := [tPOp .active (tPb 3 []), { tPOp .active (tPb 3 []) with id := 2, tix := 1 }] }
     two.nextStart { newCore 0 1 with lastOp := 1 } = some (2, 0) ∧ two.nextStart { newCore 0 1 with lastOp := 2 } = some (1, 0)) ∧
    (let s := tPressing (tPOp .active (tPb 3 [])); (s.getCore 0).bind s.nextStart = some (1, 0)) ∧ (tPOp .active (tPb 3 [])).id ≠ 0 ∧
    (([(5, rpRound tRpart, [])] : List (Nat × Nat × List Byte)).filter (fun j => j.2.1 = rpRound tRpart)).length ≤ 1 := by
  decide +kernel

/-! The queue processor and the distributor. -/

def tQ0 : Queue := { tQueue with widx := 128 }
/-- A package with a queue whose next bytes are as given, in host memory. -/
def tParse (bytes : List Byte) (q : Queue) : State :=
  { tState with queues := [q], bootDies := 255, hostMem := spPut 0 [] (2 ^ 30 + 4096) bytes, contexts := [{ tCtx with quota := 8, pages := [{ tPage with home := 255, frame := 2 ^ 30 }] }],
                nodes := [], nextId := 20, nextStamp := 6 }
def tJoinPk : List Byte := tBlock 64 [(0, 4), (1, 1), (4, 77), (16, 5)]
def tLaunchPk : List Byte := tBlock 128 [(0, 1), (1, 2), (4, 77), (16, 5), (24, 0), (44, 1)]
def tPadPk : List Byte := tBlock 128 [(1, 2)]
def tBadPk : List Byte := tBlock 64 [(0, 4), (1, 1), (2, 128), (4, 77)]
def tSelfPk : List Byte := tBlock 64 [(0, 4), (1, 1), (3, 1), (4, 77), (24, 4 + 3 * 2 ^ 52)]
def tLaunching (d : List DirEntry) : State :=
  { tParse tLaunchPk tQ0 with objects := [{ tObj with kernels := tBlock 64 [(8, 8), (16, 8), (18, 2), (19, 1)] }], dir := d }
def tDraw (st : CtxSt) : State := { tState with contexts := [{ tCtx with st := st }], queues := [{ tQueue with ridx := 64 }], wgs := [], bootDies := 255 }

theorem witness_parses (pk : List Byte) (d : List DirEntry) (k : List CodeObj) (h : fieldAt pk 1 1 = 1 ∨ fieldAt pk 1 1 = 2)
    (b : ({ tParse pk tQ0 with dir := d, objects := k } : State).memGet 0 (2 ^ 24 + 4096) (64 * fieldAt pk 1 1) = some pk) :
    Parses { tParse pk tQ0 with dir := d, objects := k } tQ0 pk :=
  ⟨rfl, rfl, rfl, rfl, ⟨_, rfl, rfl, (by decide : 0 < 8), (by decide : 0 < 16384)⟩, by rcases h with h | h <;> rw [h] <;> decide, by rcases h with h | h <;> rw [h] <;> decide, b, rfl⟩

/-- `QueueEvents`: a kick to where the queue stands, on to its last byte, one packet too far, and misaligned; a queue that is not free, free, or in error; each faulty header; a PAD; a JOIN, and a
LAUNCH of a new and of a translated function; a refused packet; one that names itself; and withdrawals of tag 0, of a saved and of a faulted context, and of one node. -/
theorem witness_queueEvents :
    (∀ st, ({ tState with queues := [{ tQueue with st := st }] } : State).getQueue 3 = some { tQueue with st := st }) ∧ tState.serves ∧ tQueue.st ≠ .free ∧
      (tState.getCtx 0).map Context.st ≠ some .faulted ∧
    (64 % 64 = 0 ∧ 64 ≤ tQueue.widx ∧ tQueue.widx < 4096 ∧ 4096 - tQueue.ridx ≤ 2 ^ tQueue.log2sz ∧ 2 ^ tQueue.log2sz < 4160 - tQueue.ridx ∧ 65 % 64 ≠ 0) ∧
    ({ tState with recovering := [0] } : State).recovering ≠ [] ∧
    (∀ x ∈ ([(1, tBlock 64 [(0, 4)]), (1, tBlock 64 [(0, 4), (1, 17)]), (2, tBlock 64 [(0, 4), (1, 16)]), (3, tBlock 64 [(0, 5), (1, 1)])] : List (Nat × List Byte)),
      let h := x.2; let why := x.1; let q := { tQ0 with ridx := 4096 - 64, widx := 4096 }; let s := { tParse [] q with hostMem := spPut 0 [] (2 ^ 30 + 8128) h }
      q.ridx + 64 ≤ q.widx ∧ q.withdrawn = [] ∧ s.parseTurn q = true ∧ s.memGet 0 (q.base + q.ridx % 2 ^ q.log2sz) 64 = some h ∧
      (why = 1 ∧ (fieldAt h 1 1 = 0 ∨ 16 < fieldAt h 1 1) ∨ why = 2 ∧ fieldAt h 1 1 = 16 ∨ why = 3 ∧ fieldAt h 1 1 = 1 ∧ 4 < fieldAt h 0 1)) ∧
    (Parses (tParse tPadPk tQ0) tQ0 tPadPk ∧ fieldAt tPadPk 0 1 = 0) ∧
    (Parses (tParse tJoinPk tQ0) tQ0 tJoinPk ∧ fieldAt tJoinPk 0 1 = 4 ∧ packetRefs tJoinPk 3 4 = [] ∧ (tParse tJoinPk tQ0).refusal 0 tJoinPk [] = none ∧ (tParse tJoinPk tQ0).getNode 20 = none) ∧
    (∀ d, d = [] ∨ d = [tDir] → Parses (tLaunching d) tQ0 tLaunchPk ∧ fieldAt tLaunchPk 0 1 = 1 ∧ packetRefs tLaunchPk 3 4 = [] ∧ (tLaunching d).refusal 0 tLaunchPk [] = none ∧
      ∃ o, (tLaunching d).getObj (fieldAt tLaunchPk 24 8) = some o ∧ o.ctx = 0 ∧ o.st = .loaded ∧ (tLaunching d).dirFind o.identity (fieldAt (o.desc (fieldAt tLaunchPk 32 2)) 12 4) = d.head?) ∧
    (Parses (tParse tBadPk tQ0) tQ0 tBadPk ∧ packetRefs tBadPk 3 4 = [] ∧ (tParse tBadPk tQ0).refusal 0 tBadPk [] = some 2 ∧ (tParse tBadPk tQ0).launchesQuarantined 0 tBadPk = false ∧
      fieldAt tBadPk 8 8 = 0) ∧
    (Parses (tParse tSelfPk tQ0) tQ0 tSelfPk ∧ fieldAt tSelfPk 0 1 = 4 ∧ ∃ r ∈ packetRefs tSelfPk 3 4, r.1 = 3 ∧ 4 ≤ r.2) ∧
    (∀ st, (tDraw st).serves ∧ ∃ x, (tDraw st).getCtx 0 = some x ∧ x.st = st ∧ x.heldWithdrawals = []) ∧
    ((∀ y ∈ (tDraw .running).queues, y.ctx = 0 → y.widx ≤ y.ridx) ∧ tNode.succs = [] ∧ tNode.compl = 0 ∧ (tDraw .running).getNode 0 = some tNode ∧
      (tDraw .running).nodes.filter (fun (y : Node) => y.ctx = 0 && y.tag = 7 && 3 ≤ y.stage && y.stage ≤ 5) = [tNode]) := by
  refine ⟨fun st => rfl, ⟨rfl, rfl, rfl⟩, by decide, by decide, by decide, by decide, by decide +kernel, ⟨witness_parses tPadPk _ _ (.inr (by decide +kernel)) (by decide +kernel), by decide +kernel⟩,
    ⟨witness_parses tJoinPk _ _ (.inl (by decide +kernel)) (by decide +kernel), by decide +kernel, by decide +kernel, by decide +kernel, rfl⟩, ?_,
    ⟨witness_parses tBadPk _ _ (.inl (by decide +kernel)) (by decide +kernel), by decide +kernel, by decide +kernel, by decide +kernel, by decide +kernel⟩,
    ⟨witness_parses tSelfPk _ _ (.inl (by decide +kernel)) (by decide +kernel), by decide +kernel, by decide +kernel⟩, fun st => ⟨⟨rfl, rfl, rfl⟩, _, rfl, rfl, rfl⟩, by decide⟩
  rintro d (rfl | rfl) <;> exact ⟨witness_parses tLaunchPk _ _ (.inr (by decide +kernel)) (by decide +kernel), by decide +kernel, by decide +kernel, by decide +kernel, _, rfl, rfl, rfl, by decide +kernel⟩

def tRetire (sp : List (Nat × Nat)) : State := { tState with wgs := [], spares := sp, nodes := [] }
def tTrans (d : DirEntry) (st : List Nat) : State := { tState with dir := [d], stokers := st, nodes := [{ tNode with dir := some 0, stage := 4 }] }
def tUnload : State :=
  { tState with objects := [{ tObj with st := .unloading, unloadNode := some 0, ranges := [(2 ^ 24, 2 ^ 18)] }], queues := [{ tQueue with id := 0 }], wgs := [],
                nodes := [{ tNode with kind := .unload, stage := 5, packet := tBlock 64 [(0, 3), (1, 1)] }] }
/-- An object that is unloading, and another whose linkage entry, on a page not there, is bound into it. -/
def tLinked : State :=
  { tUnload with objects := tUnload.objects ++ [{ tObj with handle := 9, linkage := [{ addr := 2 ^ 24 + 8, sym := [], tramp := 7, bound := some tObj.text, resolving := none }] }],
                 contexts := [{ tCtx with pages := [{ tPage with res := false }] }] }
def tEnding (n : Node) : State :=
  { tState with nodes := [n], queues := [{ tQueue with id := 0, cdone := 0 }], wgs := [], contexts := [{ tCtx with pages := [{ tPage with home := 255, frame := 2 ^ 30 }] }] }
def tLaunched (running : Nat) : Node := { tNode with stage := 7, running := running, packet := tBlock 128 [(0, 1), (1, 2), (16, 5), (44, 1)] }
def tDesc : List Byte := tBlock 64 [(8, 8), (16, 8), (18, 2), (19, 1), (20, 4096), (37, 2)]
def tPlaced : Node := { tNode with nextWgx := 0, running := 0, packet := tBlock 128 [(0, 1), (1, 2), (16, 5), (44, 1), (48, 2 ^ 24)] }
def tPlacing : State :=
  { tEnding tPlaced with objects := [{ tObj with kernels := tDesc }], hostMem := [(2 ^ 30, 7), (2 ^ 30 + 4, 9)],
                         contexts := [{ tCtx with pages := [{ tPage with home := 255, frame := 2 ^ 30 }], coreset := 1, budget := 0xFFFFFFFFFFFFFFFF, quota := 10 }] }

/-- `KernelEvents`: a core that is not there, idle with no spare and with one, and busy; a function hot and not, translating with and without stokers; an unload ready, one whose object is
used and one with a linkage entry on a page not there; a JOIN to end without and with a record, a LAUNCH that is over and one that runs; a pass with nothing to place, and with a workgroup. -/
theorem witness_kernelEvents :
    tState.getCore 77 = none ∧
    (∀ sp, (∃ k, (tRetire sp).getCore 0 = some k) ∧ (tRetire sp).retiring = [] ∧ (tRetire sp).wgs = []) ∧ (∀ p ∈ [(3, 9)], p.1 ≠ dieOf 0) ∧
      [((3 : Nat), (9 : Nat)), (0, 130)].filter (fun y => y.1 = dieOf 0) = [(0, 130)] ∧
    ((∃ k, tState.getCore 0 = some k) ∧ tState.retiring = [] ∧ tWg ∈ tState.wgs ∧ tWg.core = 0 ∧ ∃ x, tState.getCtx 0 = some x ∧ x.st = .running) ∧
    (∀ d st, d.id = 0 → (tTrans d st).getDir 0 = some d) ∧
    (∃ o, (tTrans { tDir with st := .translating } [1]).loadOf 0 = some o ∧ ∀ k ∈ o.needs 0, ((tTrans tDir [1]).codePage o.identity k).bind CodePage.bytes ≠ none) ∧
    (tDir.asked = [] ∧ ({ tDir with asked := [9] } : DirEntry).asked ≠ []) ∧
    (∃ o k n, tUnload.getObj 0 = some o ∧ o.st = .unloading ∧ (tUnload.getCtx o.ctx).map Context.st = some .running ∧ (∀ y ∈ tUnload.nodes, y.uses o = false) ∧ o.unloadNode = some k ∧
      tUnload.getNode k = some n ∧ n.compl = 0 ∧ n.succs = [] ∧ ∀ y ∈ tUnload.linksInto o, tUnload.putBar o.ctx y.2.addr ≠ .wait) ∧
    (∃ o, tLinked.getObj 0 = some o ∧ ∃ y ∈ tLinked.linksInto o, tLinked.putBar o.ctx y.2.addr = .wait) ∧ (tTrans tDir [1]).bad = [] ∧
    (∃ o, tState.getObj 0 = some o ∧ ∃ y ∈ tState.nodes, y.uses o = true) ∧
    (∀ c, let n := { tNode with kind := .join, stage := 4, compl := c }; (tEnding n).getNode 0 = some n ∧ (∃ q, (tEnding n).getQueue 0 = some q) ∧ n.succs = []) ∧
    (tEnding { tNode with kind := .join, stage := 4 }).dispatches 0 = true ∧ (tEnding (tLaunched 0)).launchOver (tLaunched 0) = true ∧ 0 < (tLaunched 1).running ∧
    (∃ l, let c := 2 ^ 24 + 32; c ≠ 0 ∧ c % 16 = 0 ∧ (tEnding { tNode with kind := .join, stage := 4, compl := c }).putBar 0 c = .open_ l ∧ l.home = 255) ∧
    (let s := tEnding { tNode with kind := .join, stage := 4 }; (∀ n ∈ s.nodes, s.dispatchable n = false) ∧ ∀ x ∈ s.contexts, x.st ≠ .resuming) ∧
    (∃ o x t lanes bs, let s := tPlacing; let n := tPlaced;
      s.getNode 0 = some n ∧ (∀ y ∈ s.contexts, y.st ≠ .resuming) ∧ s.nodes.filter (fun (y : Node) => s.dispatchable y) = [n] ∧ n.stage = 5 ∧ n.nextWgx = 0 ∧ fieldAt n.packet 44 4 = 1 ∧
      n.dir = none ∧ s.getObj n.obj = some o ∧ o.st = .loaded ∧ s.getCtx n.ctx = some x ∧ tripleOf (o.desc n.kernel) (fieldAt n.packet 40 2) 0 = some t ∧
      s.lateRefusal x n (o.desc n.kernel) (some t) = none ∧ s.propose n (o.desc n.kernel) t = some (1, 1, [(0, lanes)]) ∧ s.gate n [0] 1 = true ∧
      s.memGet n.ctx (fieldAt n.packet 48 8) (4 * fieldAt (o.desc n.kernel) 37 1) = some bs) := by
  refine ⟨by decide, fun sp => ⟨⟨_, rfl⟩, rfl, rfl⟩, by decide, by decide, ⟨⟨_, rfl⟩, rfl, by decide, rfl, _, rfl, rfl⟩, ?_, ⟨_, rfl, by decide +kernel⟩, by decide, ⟨_, _, _, rfl, rfl, rfl, by decide, rfl, rfl, rfl, rfl, by decide +kernel⟩, ⟨_, rfl, by decide +kernel⟩, rfl,
    ⟨_, rfl, by decide⟩, fun c => ⟨rfl, ⟨_, rfl⟩, rfl⟩, by decide, by decide +kernel, by decide, ⟨_, by decide, by decide, rfl, rfl⟩, by decide +kernel,
    ⟨_, _, _, _, _, rfl, by decide, by decide +kernel, rfl, rfl, by decide +kernel, rfl, rfl, rfl, rfl, rfl, by decide +kernel, rfl, by decide +kernel, rfl⟩⟩
  intro d st h
  simp [tTrans, State.getDir, findBy, h]

/-! Contexts, pages, the link and the package. -/

def tReq (a0 a1 a2 : Nat) : Request := { compl := BitVec.ofNat 64 (2 ^ 40), arg0 := BitVec.ofNat 64 a0, arg1 := BitVec.ofNat 64 a1, arg2 := BitVec.ofNat 64 a2, rsvZero := true }
/-- A context of a state, with a creation record and a gang's LAUNCH record of packages 5 and 7 in host memory. -/
def tIn (st : CtxSt) : State :=
  { tState with contexts := [{ tCtx with st := st, gang := true, gangId := 900 }], bootDies := 255, queues := [tQueue],
                hostMem := spPut 0 (spPut 0 [] (2 ^ 42) (tBlock 64 [(0, 1), (1, 1), (4, 900), (8, 5000), (20, 3), (24, 2), (32, 32 + 128)])) (2 ^ 41)
                  (tBlock 256 [(0, 1), (5, 3), (8, 65536), (16, 20), (20, 5), (36, 7), (40, 1), (192, 2 ^ 30), (200, 2 ^ 24)]) }
def tArgs (code : Nat) : Request :=
  match code with
  | 1 => tReq (2 ^ 41) 0 0
  | 5 => tReq (11 + 12 * 4096) (2 ^ 24) (2 ^ 24 + 8)
  | 6 => tReq 3 0 0
  | 7 => tReq 3 0 0
  | 8 => tReq 4096 0 64
  | 9 => tReq (2 ^ 42) 0 0
  | 10 => tReq (2 ^ 16) 0 0
  | _ => tReq 0 0 0

/-- `ContextRequests`: good and bad arguments of every code, in a state that allows the request and one that does not; a context that is there and one that is not; a gang of one and of two; queues
of every state; a team stopped at `brk`. -/
theorem witness_contextRequests :
    (∀ st, (tIn st).serves ∧ ∃ x, (tIn st).getCtx 0 = some x ∧ x.waiting = [] ∧ x.st = st ∧ x.heldWithdrawals = [] ∧ x.gangArrived = [] ∧ x.destroying = none) ∧
    (let o := { tCOp (.copy (tCopyAt 8)) with unacked := [⟨9, 5, false, 0, 0⟩] }; o.ctx = 0 ∧ o.st.isBusy = true ∧ o.unacked ≠ [] ∧ (tCOp (.copy (tCopyAt 8))).waits = []) ∧
    (∀ code, 1 ≤ code → code ≤ 11 → ∀ st ∈ [CtxSt.running, .saved], (tIn st).argsBad 0 code (tArgs code) = false ∧ (tIn st).argsBad 0 code { tArgs code with rsvZero := false } = true) ∧
    (tIn .running).getCtx 1 = none ∧ (tIn .running).argsBad 1 1 (tArgs 1) = false ∧ (∀ code, 2 ≤ code → code ≤ 11 → (tIn .running).argsBad 1 code (tArgs code) = false) ∧
    (¬ requestAllowed 4 .running ∧ requestAllowed 3 .running ∧ requestAllowed 4 .saved ∧ requestAllowed 8 .faulted ∧ requestAllowed 11 .faulted) ∧
    (tCtx.gang = false ∧ tCtx.gangMembers.length ≤ 1 ∧ 1 < ({ tCtx with gangMembers := [5, 7] } : Context).gangMembers.length) ∧
    (tIn .running).getQueue ((tArgs 5).arg0.toNat % 4096) = none ∧ (∃ q, (tIn .running).getQueue (tArgs 6).arg0.toNat = some q ∧ q.ctx = 0 ∧ q.st ≠ .free ∧ q.st ≠ .error) ∧
    (∃ q, ({ tIn .running with queues := [{ tQueue with st := .error }] } : State).getQueue (tArgs 7).arg0.toNat = some q ∧ q.ctx = 0 ∧ q.st = .error) ∧
    fieldAt ((tIn .running).hostTake (tArgs 9).arg0.toNat 64) 0 1 = 1 ∧
    ((tArgs 10).arg0.getLsbD 16 = true ∧ ({ tTeam with st := .stall .brk, brkNext := some 8 } : Team).brkNext = some 8) ∧ (∀ q ∈ (tIn .faulted).queues, (tIn .faulted).getQueue q.id = some q) := by
  refine ⟨fun st => ⟨⟨rfl, rfl, rfl⟩, _, rfl, rfl, rfl, rfl, rfl, rfl⟩, by decide, ?_, by decide, by decide +kernel, ?_, by simp [requestAllowed], by decide, by decide, ⟨tQueue, by decide⟩, ⟨{ tQueue with st := .error }, by decide⟩,
    by decide +kernel, by decide, by decide⟩
  · intro code h1 h2 st hst
    have : ∀ k : Fin 11, ∀ st ∈ [CtxSt.running, .saved], (tIn st).argsBad 0 (k.val + 1) (tArgs (k.val + 1)) = false ∧ (tIn st).argsBad 0 (k.val + 1) { tArgs (k.val + 1) with rsvZero := false } = true := by
      decide +kernel
    have h := this ⟨code - 1, by omega⟩ st hst
    rwa [show code - 1 + 1 = code by omega] at h
  · intro code h1 h2
    have : ∀ k : Fin 10, (tIn .running).argsBad 1 (k.val + 2) (tArgs (k.val + 2)) = false := by decide +kernel
    have h := this ⟨code - 2, by omega⟩
    rwa [show code - 2 + 2 = code by omega] at h

def tCut (ws : List Workgroup) (cc : Nat) : State := { tState with contexts := [{ tCtx with st := .cutting, cutAt := 100 }], wgs := ws, cc := cc }
def tCommit : CommitRec := { (tNat true).commit with threads := [(0, (tNat true).thread 0)] }
def tRegion : Team := { tNat true with nat := { (tNat true).nat with region := some tCommit } }
def tGang (kind : Nat) : GangRec := { kind := kind, time := 1000, grace := 500, gen := 4, members := [5, 7] }
def tGangState (tai mode : Nat) (arr : List Nat) : State :=
  { tState with contexts := [{ tCtx with gang := true, gangId := 900, gangPending := some (tGang 1), gangMembers := [5, 7], gangArrived := arr }], tai := tai, clockMode := mode }

/-- `ContextEvents`: the polite window at its end and before; a workgroup that can be saved, alone and beside another, and one that cannot; a team in a region 4095 and 4096 cc after the cut; a
fault record that waits; a LAUNCH instant and a grace window each side of their end; and an abort for this gang and for another. -/
theorem witness_contextEvents :
    (∃ x, ({ tState with contexts := [{ tCtx with st := .polite, politeAt := 400 }] } : State).getCtx 0 = some x ∧ x.waiting = [] ∧ x.destroying = none ∧ x.heldWithdrawals = [] ∧
      x.st = .polite ∧ x.firmwarePreempt = false ∧ x.gangQuiet = false ∧ x.gangPending = none ∧ x.politeAt = 400) ∧ (∃ w ∈ tState.wgs, w.ctx = 0) ∧
    (∀ ws cc, ∃ x, (tCut ws cc).getCtx 0 = some x ∧ x.waiting = [] ∧ x.destroying = none ∧ x.heldWithdrawals = [] ∧ x.st = .cutting ∧ x.firmwarePreempt = false ∧ x.gangQuiet = false ∧ x.gangPending = none ∧ x.cutAt + 4096 = 4196) ∧
    (let s := tCut [tWg] 0; s.getWg 0 = some tWg ∧ tWg.st = .run ∧ s.getNode tWg.node = some tNode ∧ (∀ t ∈ tWg.teams, s.atStop tWg t = true ∧ t.drained = true) ∧ s.drained tWg = true ∧
      s.wgs.filter (fun (y : Workgroup) => y.nbId = tWg.nbId && y.ctx = 0) = [tWg] ∧ ∀ y ∈ s.wgs, y.ctx = 0 → y.uid = tWg.uid) ∧
    (let s := tCut [tWg, { tWg with uid := 9, nbId := 44 }] 0; s.getWg 0 = some tWg ∧ s.drained tWg = true ∧ s.wgs.filter (fun (y : Workgroup) => y.nbId = tWg.nbId && y.ctx = 0) = [tWg] ∧
      ∃ y ∈ s.wgs, y.ctx = 0 ∧ y.uid ≠ tWg.uid) ∧
    (let w := tWg.putTeam (tNat true); let s : State := { tCut [w] 0 with objects := [tNatObj] };
      s.getWg 0 = some w ∧ ∃ t ∈ w.teams, s.atStop w t = false) ∧
    (let w := tWg.putTeam tRegion; let s : State := { tCut [w] 4196 with objects := [tNatObj] };
      s.teamOf 0 0 = some (w, tRegion) ∧ s.inNative w tRegion = true ∧ tRegion.nat.region = some tCommit ∧ s.atStop w tRegion = false ∧ tRegion.st ≠ .done ∧
      (∃ k, tabGet 0 tCommit.threads = some k) ∧
      (tRegion.thread 0).st ≠ .exit) ∧
    (tCtx.fqWaiting = none ∧ (tCtx.fqHead + 128 - (0x1500 : BitVec 64).toNat / 256 % 128) % 128 ≠ 64) ∧
    (∀ tai mode arr, ∃ x, (tGangState tai mode arr).getCtx 0 = some x ∧ x.waiting = [] ∧ x.destroying = none ∧ x.heldWithdrawals = [] ∧ x.st = .running ∧ x.gangQuiet = false ∧ x.gangPending = some (tGang 1) ∧ (tGang 1).kind = 1 ∧
      x.gangTaken = false ∧ x.st.live = true ∧ x.gang = true ∧ x.gangId = 900) ∧
    (999 < (tGang 1).time ∧ (tGang 1).time ≤ 1000 ∧ 1499 < (tGang 1).time + (tGang 1).grace ∧ (tGang 1).time + (tGang 1).grace ≤ 1500) ∧
    (∀ x ∈ (tGangState 0 2 [4 * 256 + 5]).contexts, x.barrierDone (tGang 1) = false) ∧ (∀ x ∈ (tGangState 0 2 [4 * 256 + 5, 4 * 256 + 7]).contexts, x.barrierDone (tGang 1) = true) := by
  refine ⟨⟨_, rfl, rfl, rfl, rfl, rfl, rfl, rfl, rfl, rfl⟩, by decide, fun ws cc => ⟨_, rfl, rfl, rfl, rfl, rfl, rfl, rfl, rfl, rfl⟩, by decide, by decide, by decide,
    ⟨rfl, by decide +kernel, rfl, by decide, by decide, ⟨_, rfl⟩, by decide⟩, by decide,
    fun tai mode arr => ⟨_, rfl, rfl, rfl, rfl, rfl, rfl, rfl, rfl, rfl, rfl, rfl, rfl⟩, by decide, by decide, by decide⟩

def tPgb (sz attr home peer va np frame compl : Nat) : PageBlock :=
  { sz := BitVec.ofNat 8 sz, attr := BitVec.ofNat 16 attr, home := BitVec.ofNat 8 home, peer := BitVec.ofNat 8 peer, va := BitVec.ofNat 64 va, npages := BitVec.ofNat 32 np,
    frame := BitVec.ofNat 64 frame, compl := BitVec.ofNat 64 compl, rsvZero := true }
/-- The package with a pool of four frames, and one page. -/
def tPaged (l : Leaf) (pool : Nat) : State := { tState with contexts := [{ tCtx with pages := [l], fpBase := 2 ^ 30, fpSize := pool }], bootDies := 255 }

/-- `PageRequests`: blocks that break each limit and each rule of homes; pages mapped and not, resident and not, migrating, mirrored, with and without a slot; a demand fill of a resident page, with a
frame free and with none; walks that find nothing, a page not there, and a page. -/
theorem witness_pageRequests :
    (∀ l n, (tPaged l n).serves ∧ ∃ x, (tPaged l n).getCtx 0 = some x ∧ x.pageOps = [] ∧ x.st.live = true ∧ (tPaged l n).replicas x = [] ∧ (x.pages.map Leaf.va).Nodup) ∧
    (64 ≤ (tPgb 0 64 5 0 0 1 0 0).attr.toNat ∧ 2 < (tPgb 3 0 5 0 0 1 0 0).sz.toNat ∧ (tPgb 0 0 5 0 0 0 0 0).npages = 0 ∧ 65536 < (tPgb 0 0 5 0 0 65537 0 0).npages.toNat ∧
      (tPgb 0 0 5 0 8 1 0 0).va.toNat % pageBytes 0 ≠ 0 ∧ 2 ^ 57 < (tPgb 0 0 5 0 (2 ^ 57 - 2 ^ 18) 2 0 0).va.toNat + 2 * pageBytes 0 ∧ (tPgb 0 32 5 0 0 1 8 0).attr.getLsbD 5 = true) ∧
    (∀ b ∈ [tPgb 0 8 255 0 (2 ^ 25) 1 0 0, tPgb 0 4 5 5 (2 ^ 25) 1 0 0], blockReason 1 b = 2) ∧
    (∀ op ∈ [1, 2, 3, 4, 5, 6], blockReason op (tPgb 0 0 6 0 (2 ^ 24) 1 0 0) = 0) ∧
    (let x : Context := { tCtx with pages := [tPage] }; x.unmapped (2 ^ 24) (pageBytes 0) = false ∧ x.unmapped (2 ^ 25) (pageBytes 0) = true ∧ x.exact (2 ^ 25) 0 = none ∧ x.exact (2 ^ 24) 0 = some tPage ∧
      x.walk (2 ^ 25) = none ∧ x.walk (2 ^ 24) = some tPage ∧ x.bkBase = 0) ∧
    (tPage.res = true ∧ tPage.mig = false ∧ tPage.mir = false ∧ tPage.slot = none ∧ tPage.home ≠ 255 ∧ tPage.sz < 4) ∧
    (∀ q ∈ tState.queues, q.publish = none) ∧ (∀ y ∈ tState.cores, y.l1 = []) ∧ Memory.wf tState.dram = true ∧ Memory.wf tState.hostMem = true ∧
    (∀ n, ∀ x ∈ (tPaged { tPage with res := false, zf := true } n).contexts, x.walk (2 ^ 24) = some { tPage with res := false, zf := true }) ∧
    (∀ x ∈ (tPaged tPage (2 ^ 20)).contexts, x.freeFrames 0 ≠ []) ∧ (∀ x ∈ (tPaged tPage 0).contexts, x.freeFrames 0 = []) ∧ tPage.home = tState.pkg ∧
    tState.tlbHit 0 0 (2 ^ 24) = none := by
  refine ⟨fun l n => ⟨⟨rfl, rfl, rfl⟩, _, rfl, rfl, rfl, rfl, by simp⟩, by decide, by decide, by decide, by decide, by decide, by decide, by decide, by decide, by decide, ?_, by decide, by decide, by decide, by decide⟩
  intro n x hx
  have : x = { tCtx with pages := [{ tPage with res := false, zf := true }], fpBase := 2 ^ 30, fpSize := n } := List.mem_singleton.mp hx
  rw [this]
  rfl

/-- And a block that names firmware's frames and one that does not, a page that the tables have room for and one that they have not, and a gang's replica. -/
theorem witness_mapping :
    (let b := tPgb 0 (1 + 32) 5 0 (2 ^ 25) 1 (2 ^ 20) 0
     ({ tState with regions := [(2 ^ 20, 2 ^ 18)] } : State).mapsReserved 1 b = true ∧ tState.mapsReserved 1 b = false) ∧
    ((tPaged tPage (2 ^ 20)).mapPage 0 (mapLeaf (tPgb 0 16 5 0 (2 ^ 25) 1 0 0) 0)).isSome = true ∧
    (({ tState with contexts := [newContext 0 0 []] } : State).mapPage 0 (mapLeaf (tPgb 0 16 5 0 (2 ^ 25) 1 0 0) 0)).isNone = true ∧
    (let x : Context := { tCtx with gang := true, gangMembers := [5, 7] }; tState.replicas x = [7]) :=
  ⟨by decide +kernel, by decide +kernel, by decide +kernel, by decide +kernel⟩

def tPkt : Packet := { blankPacket 5 0 with src := 9, seq := 33, rid := 3 * 2 ^ 16 + 77, addr := 2 ^ 24 + 64 }
/-- The package after 33 packets of package 9. -/
def tMet : State :=
  { tState with bootDies := 255, trained := true, tai := 1000, peers := [{ Peer.fresh 9 with rxSeq := 33, granted := true, txSeq := 100 }] }
def tWaits : RemoteWait :=
  { req := 3, peer := 9, threads := 2, d := .v 4, ty := 2, size := 4, atomic := false, aop := 0, operand := 0, pay := [], acq := 0, va := 2 ^ 24, conf := false, ppc := 0, parked := true }
def tUn : Unacked := { req := 3, peer := 9, mir := false, ppc := 0, va := 0 }
def tWaiting : Team := { tTeam with remote := [tWaits], unacked := [tUn] }

theorem witness_arrives (p : Packet) (h : p.dst = 5 ∧ p.src = 9 ∧ p.wellFormed = true ∧ p.conf = false ∧ p.seq = 33) (ops : List Op) (ws : List Workgroup) :
    Arrives { tMet with ops := ops, wgs := ws } p := by
  obtain ⟨h1, h2, h3, h4, h5⟩ := h
  refine ⟨rfl, ⟨h1, (by decide : 5 < 192), by omega, by rw [h2]; exact (by decide : 9 ≠ 5)⟩, ⟨h3, h4⟩, by rw [h5, h2]; rfl, by rw [h2]; exact ⟨rfl, rfl⟩, ⟨rfl, rfl, rfl⟩, ?_⟩
  intro x hx
  have e : ({ tMet with ops := ops, wgs := ws } : State).contexts = [tCtx] := rfl
  unfold State.getCtx at hx
  rw [e] at hx
  simp only [findBy] at hx
  split at hx
  · cases hx; rfl
  · cases hx

/-- `LinkPackets`: a packet for another package, malformed, with a bad tag, and delivered already; a READ, WRITE and ATOMIC for a page homed here; a REPLY and an ACK that a team waits for; records of
a round; credit and an acknowledgement. -/
theorem witness_linkPackets :
    (tMet.power = .d0 ∧ tMet.pkg < 192 ∧ ({ tPkt with dst := 6 } : Packet).dst ≠ tMet.pkg ∧ tPkt.src < 192 ∧ tPkt.src ≠ tMet.pkg) ∧
    (1 ≤ ((tMet.peer 9).rxSeq - BitVec.ofNat 32 32).toNat ∧ ((tMet.peer 9).rxSeq - BitVec.ofNat 32 32).toNat < 2 ^ 31) ∧
    (let d : DirEntry := { tDir with st := .translating, asked := [9] }; let s : State := { tMet with dir := [d] }
     Arrives s tPkt ∧ s.askedOf 9 0 0 0 = some d ∧ s.getDir d.id = some d ∧ (0 : BitVec 384) ≠ 1 ∧ 1 ≠ s.version ∧ ({ s with quarantined := [0] } : State).quarantined.contains 0 = true) ∧
    Arrives tMet tPkt ∧ (∀ ty, HomedHere tMet ({ tPkt with ty := ty } : Packet).ctx ({ tPkt with ty := ty } : Packet).addr tPage (2 ^ 20 + 64)) ∧ tMet.sendBar 9 false 64 = .open_ ∧
    (maskCount tPkt.mask ≤ 1 ∧ tPkt.payload = [] ∧ tPage.va % 64 = 0 ∧ tPage.frame % 64 = 0 ∧ (0x16 : BitVec 64) ≠ 0 ∧ ([7, 0, 9] : List Byte).length = maskCount 0x16) ∧
    (let s := { tMet with wgs := [tWg.putTeam tWaiting] }; Arrives s tPkt ∧ s.teamOf 0 0 = some (tWg.putTeam tWaiting, tWaiting) ∧
      s.waiter 0 9 (tPkt.rid / 2 ^ 16 % 2 ^ 16) = some (tWg.putTeam tWaiting, tWaiting, tWaits) ∧ tWaiting.remote = [tWaits] ∧ 1 < tWaiting.threads.length ∧ spWf 0 (tWaiting.thread 1).v = true ∧
      tWaits.threads = BitVec.ofNat 32 (2 ^ 1) ∧ Legal.ty64 tWaits.ty = false ∧ tWaiting.unacked = [tUn] ∧ tUn.peer = tPkt.src ∧ tUn.req % 2 ^ 16 = tPkt.rid / 2 ^ 16 % 2 ^ 16) ∧
    (let o := tCOp (.rpart (tRp 1 false)); let p : Packet := { tPkt with payload := natBytes 4 3 ++ natBytes 4 (rpRound tRpart) };
      Arrives { tMet with ops := [o] } p ∧ (∃ x, tMet.getCtx 0 = some x ∧ x.st.live = true) ∧ o.ctx = 0 ∧ o.st = .busy ∧ rpRound tRpart = fieldAt p.payload 4 4 ∧ fieldAt p.payload 0 4 = 3 ∧
      tMet.sendBar 9 false 0 = .open_) := by
  have a : ∀ ops ws (p : Packet), p.dst = 5 ∧ p.src = 9 ∧ p.wellFormed = true ∧ p.conf = false ∧ p.seq = 33 → Arrives { tMet with ops := ops, wgs := ws } p := fun ops ws p h => witness_arrives p h ops ws
  refine ⟨by decide, by decide, ⟨⟨rfl, (by decide), ⟨rfl, rfl⟩, rfl, ⟨rfl, rfl⟩, ⟨rfl, rfl, rfl⟩, (a tMet.ops tMet.wgs tPkt (by decide)).alone⟩, by decide +kernel⟩, a tMet.ops tMet.wgs tPkt (by decide), fun ty => ⟨⟨_, rfl, (by decide +kernel : tCtx.walk (2 ^ 24 + 64) = some tPage)⟩, ⟨rfl, rfl, rfl, rfl⟩, (by decide : 2 ^ 20 + 64 = (2 ^ 20 + (2 ^ 24 + 64 - 2 ^ 24)) % 2 ^ 42), by decide, rfl⟩, by decide, by decide,
    ⟨a tMet.ops _ tPkt (by decide), rfl, rfl, rfl, by decide, rfl, by decide, rfl, rfl, by decide, by decide⟩,
    ⟨a _ tMet.wgs _ (by decide +kernel), ⟨_, rfl, rfl⟩, rfl, rfl, by decide +kernel, by decide +kernel, by decide⟩⟩

def tPort (st crc : Nat) : Port := { st := st, crcf := 0, crcCycle := crc, trains := 0 }
def tOut (dst seq : Nat) : OutPkt := { type := .write, p := { blankPacket dst 0 with src := 5, seq := seq, len := 3 }, sentAt := some 1000, firstAt := 5 }

/-- `LinkPorts`: a port in each of its states, its 63rd and its 64th bad flit; no port up, and one up with a packet for the package it meets; a packet sent 71999 and 72000 ns ago; a package silent for
10 ms less and no less; good key blocks of each kind and a bad one; a key exhausted for less than the limit, and for it. -/
theorem witness_linkPorts :
    (∀ q, ({ tMet with ports := [q] } : State).ports[0]? = some q) ∧ (tPort 2 62).crcCycle + 1 < 64 ∧ 64 ≤ (tPort 2 63).crcCycle + 1 ∧ (tMet.pkg < 192 ∧ tMet.power = .d0 ∧ tMet.trained = true) ∧
    192 ≤ State.reset.pkg ∧ (∀ j, ({ tMet with ports := [] } : State).portUp j = false) ∧
    (let o := { tOut 188 7 with sentAt := none }; let s := { tMet with ports := [tPort 2 0], slot := 0, sendStore := [o], peers := [] };
      s.slot + 1 < 12 ∧ (12 * 0 + (s.slot + 1) + 192 - s.pkg) % 192 = o.p.dst ∧ o.p.dst ≠ s.pkg ∧ (s.peer o.p.dst).rxSeq = 0 ∧ s.relayStore = [] ∧ o.p.len ≤ 6000 ∧ s.portUp 0 = true ∧
      ∀ j, j ≠ 0 → s.portUp j = false) ∧
    (72999 < 1000 + 72000 ∧ 1000 + 72000 ≤ 73000 ∧ (tOut 9 7).sentAt = some 1000 ∧ (tOut 9 7).firstAt + 10 ^ 7 ≤ 10000005) ∧
    ((State.reset.peer 9).reach = 1 ∧ State.reset.wgs = [] ∧ State.reset.ops = [] ∧ State.reset.contexts = [] ∧ State.reset.homeWaits = [] ∧ State.reset.arrivals = [] ∧ State.reset.nodes = []) ∧
    (tMet.serves ∧ Memory.wf tMet.hostMem = true) ∧
    (∀ f ∈ [[(0, 9), (1, 1)], [(0, 9), (1, 1), (2, 1)], [(0, 9), (2, 1)]], let b := tBlock 64 f;
      fieldAt b 0 1 ≤ 191 ∧ fieldAt b 1 1 ≤ 1 ∧ fieldAt b 2 1 ≤ 1 ∧ zeroAt b 4 28 = true ∧ ¬ (fieldAt b 1 1 = 0 ∧ ((tMet.peer (fieldAt b 0 1)).txKey.map SendKey.ix) = some (fieldAt b 2 1))) ∧
    ¬ fieldAt (tBlock 64 [(0, 192)]) 0 1 ≤ 191 ∧
    (let s := { tMet with keyTmo := 10, peers := [{ Peer.fresh 9 with refused := some 5 }], wgs := [tWg.putTeam { tTeam with st := .stall (.key 9) }], tai := 10005 };
      (s.peer 9).refused = some 5 ∧ ¬ s.tai < 5 + 1000 * s.keyTmo ∧ 5 + 1000 * s.keyTmo ≤ s.tai ∧ s.ops = [] ∧ s.owed = [] ∧ ∃ x, s.getCtx 0 = some x ∧ x.st.live = true ∧ x.destroying = none) := by
  refine ⟨fun q => rfl, by decide, by decide, by decide, by decide, ?_, ⟨by decide, by decide, by decide, rfl, rfl, by decide, rfl, ?_⟩, by decide, by decide, ⟨⟨rfl, rfl, rfl⟩, by decide⟩, by decide +kernel,
    by decide +kernel, ⟨rfl, by decide, by decide, rfl, rfl, _, rfl, rfl, rfl⟩⟩
  · intro j; rfl
  · intro j hj
    obtain ⟨k, rfl⟩ := Nat.exists_eq_succ_of_ne_zero hj
    rfl

def tBoot (a b : Bool) : BootInfo := { pass := [7], slot0Ok := a, slot1Ok := b, regions := [] }

/-- R445, R10: with both flash slots bad the boot fails; of three passing cores of die 0 the lowest is the firmware core and two are of the grid. -/
theorem test_boot :
    (({ State.reset with bootStage := 1 } : State).bootNext (tBoot false false)).bootStage = 7 ∧
    (let s := ({ State.reset with bootStage := 2 } : State).bootNext (tBoot true true);
      s.bootStage = 3 ∧ s.bootDies = 1 ∧ s.cores.map (fun k => (k.id, k.phys)) = [(0, 1), (1, 2)] ∧ s.fwCores.map (fun k => (k.id, k.phys)) = [(0, 0)]) ∧
    (({ State.reset with bootStage := 3 } : State).bootNext (tBoot true true)).bootStage = 4 := by decide +kernel

/-- `PackageEvents`: each mode of the clock; registers, memory within and without reach, before READY and after; the management port's answers; a boot of each outcome; recovery; a unit of memory struck
that is bad and that is not; and the power states. -/
theorem witness_packageEvents :
    (let s := { tState with bootDies := 255, queues := [tQueue] };
      s.serves ∧ s.memCe < 2 ^ 32 ∧ s.memUe ≤ 65535 ∧ (∃ q, s.getQueue 3 = some q) ∧ (∀ k, k < 3 → s.hostReach (2 ^ 21 + k) = true) ∧ s.hostReach (2 ^ 42) = false ∧ Memory.wf s.dram = true ∧
      s.power ≠ .off ∧ s.bootDies.getLsbD 3 = true ∧ s.recovering.contains 3 = false ∧ s.bad.contains (.dram 5) = false ∧ s.contexts ≠ [] ∧ ∀ x ∈ s.contexts, s.getCtx x.id = some x) ∧
    (let q := blockRequest (spTake 0 (spPut 0 [] 0 (natBytes 8 3)) 0 56); 1 ≤ q.1 ∧ q.1 ≤ 11) ∧
    (State.reset.bootStage ≠ 4 ∧ ({ tState with power := .d3hot } : State).power = .d3hot ∧ ({ State.reset with bootDies := 0 } : State).bootDies.getLsbD 3 = false) ∧
    (∀ n, n < 3 → ∃ s : State, s.clockMode = n) ∧ (32 * 5 / 2 ^ 39 = 0 ∧ 5 < 2 ^ 37) ∧
    ((tBoot false false).slot0Ok = false ∧ (tBoot false true).slot1Ok = true ∧ (tBoot true false).slot0Ok = true) ∧
    (∀ k, k ≤ 3 → ({ State.reset with bootStage := k, booting := some (tBoot false true) } : State).booting = some (tBoot false true) ∧
      ({ State.reset with bootStage := k, booting := some (tBoot false true) } : State).bootStage ≤ 3) ∧
    (191 ≤ 191 ∧ 191 < 192 ∧ ({ tState with idSet := false, ctxMade := false } : State).idSet = false ∧ ({ tState with ctxMade := true } : State).ctxMade = true) := by
  refine ⟨⟨⟨rfl, rfl, rfl⟩, by decide, by decide, ⟨tQueue, by decide⟩, by decide, by decide, by decide, by decide, by decide, by decide, by decide, by decide, by decide⟩, by decide +kernel, by decide,
    fun n _ => ⟨{ State.reset with clockMode := n }, rfl⟩, by decide, by decide, fun _ h => ⟨rfl, h⟩, by decide⟩
end Sys2Proof.Tests
end

section
/-! Proofs for the results of the arithmetic instructions (06_thread.md). First: an arithmetic instruction computes what its function of A, B and C gives. -/
namespace Sys2Proof.Proofs.Thread

open Machine Legal

/-- A part that completes is followed by the others. -/
theorem runUnits_cons_go {f : Run → Nat → Run} {i : Nat} {m : BitVec 32} {l : List (Nat × BitVec 32)} {r : Run}
    (h : (f r i).halt = .go) : runUnits f ((i, m) :: l) r = runUnits f l (f r i) := by
  simp only [runUnits, h]

/-- The parts of an arithmetic instruction that all read their operands change the team alone. -/
theorem runUnits_aluParts {op : Nat} {e : Enc} {f : Nat → Nat → Nat → AluOut} (hd : noStream e.d = true) :
    ∀ {l : List (Nat × BitVec 32)} {r : Run} {t' : Team}, r.halt = .go → streamsFree r.s e → aluParts op e f l r.t = some t' →
      runUnits (aluUnit op e f) l r = { r with t := t' }
  | [], r, t', _, _, h => by cases h; rfl
  | (i, m) :: l, r, t', hg, hs, h => by
    obtain ⟨t1, h1, h2⟩ := Option.bind_eq_some_iff.mp h
    have hu := aluUnit_part hg hs hd h1
    rw [runUnits_cons_go (by rw [hu]; exact hg), hu]
    exact runUnits_aluParts (r := { r with t := t1 }) hd hg hs h2

/-- An arithmetic instruction whose parts all read their operands completes (R160, R167). -/
theorem issueAlu_completes {s : State} {w : Workgroup} {t t' : Team} {pc op : Nat} {e : Enc} {f : Nat → Nat → Nat → AluOut}
    (hi : Issuing s w t pc) (hd : noStream e.d = true) (hs : streamsFree s e)
    (h : aluParts op e f ((starts s w t pc e).units (uniform op e)) (starts s w t pc e).t = some t') :
    issueAlu op e f s = .next { starts s w t pc e with t := t' }.finish := by
  have hs' : streamsFree (starts s w t pc e).s e := by simpa [starts, hi.start] using hs
  have hg : (starts s w t pc e).halt = .go := beginIssue_halt ..
  rw [issueAlu, issueUnits_next hi, runUnits_aluParts hd hg hs' h]

/-- An arithmetic instruction computes what its function of A, B and C gives. -/
theorem computes_of_alu {i : Instr} {P : Nat → Nat → Nat → AluOut → Prop} {op : Nat} {e : Enc} {f : Nat → Nat → Nat → AluOut}
    (ha : ∀ s w, aluOf s w i = some (op, e, f)) (hx : ∀ s, exec i s = issueAlu op e f s) (hP : ∀ a b c, P a b c (f a b c)) : Computes i P :=
  fun s w _ _ hi => ⟨op, e, f, ha s w, hP, fun _ hd hs h => (hx s).trans (issueAlu_completes hi hd hs h)⟩

end Sys2Proof.Proofs.Thread
end

section
/-! Words as integers (R125): two's complement at a width, and at an integer type. -/
namespace Sys2Proof.Proofs.Thread

open Machine Legal

theorem two_pow_pred {w : Nat} (hw : 0 < w) : 2 ^ w = 2 * 2 ^ (w - 1) := by
  rw [← Nat.pow_succ', Nat.succ_eq_add_one, Nat.sub_add_cancel hw]

theorem two_pow_pred_int {w : Nat} (hw : 0 < w) : (2 : Int) ^ w = 2 * 2 ^ (w - 1) := by
  exact_mod_cast two_pow_pred hw

@[simp] theorem cast_toBits (w : Nat) (x : Int) : (toBits w x : Int) = x % 2 ^ w := by
  rw [toBits, Int.toNat_of_nonneg (Int.emod_nonneg _ (by positivity))]

theorem toBits_lt (w : Nat) (x : Int) : toBits w x < 2 ^ w := by
  have h := Int.emod_lt_of_pos x (b := 2 ^ w) (by positivity)
  rw [← cast_toBits] at h
  exact_mod_cast h

/-- The value of a `w`-bit word is the one of its residue class that lies about 0. -/
theorem sVal_eq_emod {w : Nat} (hw : 0 < w) (x : Nat) : sVal w x = ((x : Int) + 2 ^ (w - 1)) % 2 ^ w - 2 ^ (w - 1) := by
  have hp : (2 : Int) ^ w = 2 * 2 ^ (w - 1) := two_pow_pred_int hw
  have hx : ((x % 2 ^ w : Nat) : Int) = (x : Int) % 2 ^ w := by push_cast; rfl
  have hlt : x % 2 ^ w < 2 ^ w := Nat.mod_lt _ (by positivity)
  have hlt' : ((x % 2 ^ w : Nat) : Int) < 2 ^ w := by exact_mod_cast hlt
  have hh : (0 : Int) < 2 ^ (w - 1) := by positivity
  rw [← Int.emod_add_emod, ← hx, sVal]
  by_cases h : x % 2 ^ w < 2 ^ (w - 1)
  · have h' : ((x % 2 ^ w : Nat) : Int) < 2 ^ (w - 1) := by exact_mod_cast h
    rw [if_pos h, Int.emod_eq_of_lt (by omega) (by omega)]
    omega
  · have h' : (2 : Int) ^ (w - 1) ≤ ((x % 2 ^ w : Nat) : Int) := by exact_mod_cast Nat.le_of_not_lt h
    rw [if_neg h, ← Int.sub_emod_right, Int.emod_eq_of_lt (by omega) (by omega)]
    omega

/-- The low bits of an integer, read at a width that they hold, give the integer's residue about 0. -/
theorem sVal_toBits {w n : Nat} (hw : 0 < w) (h : w ≤ n) (x : Int) :
    sVal w (toBits n x) = (x + 2 ^ (w - 1)) % 2 ^ w - 2 ^ (w - 1) := by
  rw [sVal_eq_emod hw, cast_toBits, ← Int.emod_add_emod, Int.emod_emod_of_dvd _ (pow_dvd_pow 2 h), Int.emod_add_emod]

theorem sVal_mem {w : Nat} (hw : 0 < w) (x : Nat) : -2 ^ (w - 1) ≤ sVal w x ∧ sVal w x ≤ 2 ^ (w - 1) - 1 := by
  have hp := two_pow_pred_int hw
  have h0 := Int.emod_nonneg ((x : Int) + 2 ^ (w - 1)) (b := 2 ^ w) (by positivity)
  have h1 := Int.emod_lt_of_pos ((x : Int) + 2 ^ (w - 1)) (b := 2 ^ w) (by positivity)
  rw [sVal_eq_emod hw]
  omega

theorem tyWidth_pos (ty : Nat) : 0 < tyWidth ty := by
  unfold tyWidth; split_ifs <;> decide

theorem intAt_mem (ty x : Nat) : tyLo ty ≤ intAt ty x ∧ intAt ty x ≤ tyHi ty := by
  unfold intAt tyLo tyHi
  split_ifs
  · exact sVal_mem (tyWidth_pos ty) x
  · have h : ((x % 2 ^ tyWidth ty : Nat) : Int) < 2 ^ tyWidth ty := by exact_mod_cast Nat.mod_lt x (by positivity)
    omega

theorem wrapAt_mem (ty : Nat) (x : Int) : tyLo ty ≤ wrapAt ty x ∧ wrapAt ty x ≤ tyHi ty := by
  have hp := two_pow_pred_int (tyWidth_pos ty)
  unfold wrapAt tyLo tyHi
  split_ifs
  · have h0 := Int.emod_nonneg (x + 2 ^ (tyWidth ty - 1)) (b := 2 ^ tyWidth ty) (by positivity)
    have h1 := Int.emod_lt_of_pos (x + 2 ^ (tyWidth ty - 1)) (b := 2 ^ tyWidth ty) (by positivity)
    omega
  · have h0 := Int.emod_nonneg x (b := 2 ^ tyWidth ty) (by positivity)
    have h1 := Int.emod_lt_of_pos x (b := 2 ^ tyWidth ty) (by positivity)
    omega

/-- A value of the type is not changed by wrapping. -/
theorem wrapAt_of_mem {ty : Nat} {x : Int} (h : tyLo ty ≤ x ∧ x ≤ tyHi ty) : wrapAt ty x = x := by
  have hp := two_pow_pred_int (tyWidth_pos ty)
  unfold tyLo tyHi at h
  unfold wrapAt
  split_ifs at h ⊢
  · rw [Int.emod_eq_of_lt (by omega) (by omega)]; omega
  · exact Int.emod_eq_of_lt (by omega) (by omega)

theorem satAt_mem (ty : Nat) (x : Int) : tyLo ty ≤ satAt ty x ∧ satAt ty x ≤ tyHi ty := by
  have h := (intAt_mem ty 0).1.trans (intAt_mem ty 0).2
  unfold satAt
  omega

/-- A word read at a type after an integer's low bits were put in it: the integer wrapped (R125). -/
theorem intAt_toBits (ty : Nat) (x : Int) : intAt ty (toBits (tyWidth ty) x) = wrapAt ty x := by
  unfold intAt wrapAt
  split_ifs
  · exact sVal_toBits (tyWidth_pos ty) le_rfl x
  · push_cast
    rw [cast_toBits, Int.emod_emod]

/-- A result read back at its type is the exact result wrapped (R123, R125): the extension to 32 bits keeps its value. -/
theorem intAt_regOf (ty : Nat) (x : Int) : intAt ty (regOf ty x) = wrapAt ty x := by
  unfold regOf
  dsimp only
  by_cases h : (tySigned ty && decide (tyWidth ty < 32)) = true
  · obtain ⟨hs, hw⟩ := Bool.and_eq_true_iff.mp h
    have hm := wrapAt_mem ty x
    rw [← intAt_toBits, intAt, if_pos hs] at hm
    rw [if_pos h, intAt, if_pos hs, sVal_toBits (tyWidth_pos ty) (of_decide_eq_true hw).le]
    have hk := wrapAt_of_mem hm
    rw [wrapAt, if_pos hs] at hk
    rw [hk, ← intAt_toBits, intAt, if_pos hs]
  · rw [if_neg h, intAt_toBits]

/-- A result that is a value of the type is read back as it was computed. -/
theorem intAt_regOf_of_mem {ty : Nat} {x : Int} (h : tyLo ty ≤ x ∧ x ≤ tyHi ty) : intAt ty (regOf ty x) = x := by
  rw [intAt_regOf, wrapAt_of_mem h]

/-- A result under VAR bit 0: saturated, or wrapped (R127, R128). -/
theorem intAt_satWrap (e : Enc) (ty : Nat) (x : Int) :
    intAt ty (satWrap e ty x).d = if e.var.toNat % 2 = 1 then satAt ty x else wrapAt ty x := by
  unfold satWrap
  by_cases h : e.var.toNat % 2 = 1
  · rw [if_pos h, if_pos h]; exact intAt_regOf_of_mem (satAt_mem ty x)
  · rw [if_neg h, if_neg h]; exact intAt_regOf ty x

end Sys2Proof.Proofs.Thread
end

section
/-! What the integer instructions compute (R127 to R130). -/
namespace Sys2Proof.Proofs.Thread

open Machine Legal

/-- A subtraction with borrow falls below 0 where the subtrahend and the borrow in exceed A (R127). -/
theorem subb_borrow (x y c : Nat) : decide ((x : Int) - y - c < 0) = decide (x < y + c) :=
  decide_eq_decide.mpr (by omega)

/-- A signed value lies between `-2^(W-1)` and `2^(W-1) - 1`, and an unsigned one between 0 and `2^W - 1`. -/
theorem intAt_signed_mem {ty : Nat} (h : tySigned ty = true) (x : Nat) :
    -2 ^ (tyWidth ty - 1) ≤ intAt ty x ∧ intAt ty x ≤ 2 ^ (tyWidth ty - 1) - 1 := by
  simpa [tyLo, tyHi, h] using intAt_mem ty x

theorem intAt_unsigned_mem {ty : Nat} (h : ¬tySigned ty = true) (x : Nat) : 0 ≤ intAt ty x ∧ intAt ty x ≤ 2 ^ tyWidth ty - 1 := by
  simpa [tyLo, tyHi, h] using intAt_mem ty x

/-- The high half of a full product is a value of the type (R128). -/
theorem mulHigh_mem (ty a b : Nat) : tyLo ty ≤ mulHigh ty a b ∧ mulHigh ty a b ≤ tyHi ty := by
  have hp := two_pow_pred_int (tyWidth_pos ty)
  have hh : (0 : Int) < 2 ^ (tyWidth ty - 1) := by positivity
  have hw : (0 : Int) < 2 ^ tyWidth ty := by positivity
  unfold mulHigh
  rw [Int.le_ediv_iff_mul_le hw, ← Int.lt_add_one_iff (b := tyHi ty), Int.ediv_lt_iff_lt_mul hw]
  by_cases h : tySigned ty = true
  · obtain ⟨ha0, ha1⟩ := intAt_signed_mem h a
    obtain ⟨hb0, hb1⟩ := intAt_signed_mem h b
    simp only [tyLo, tyHi, if_pos h, hp]
    generalize (2 : Int) ^ (tyWidth ty - 1) = m at *
    constructor <;> nlinarith
  · obtain ⟨ha0, ha1⟩ := intAt_unsigned_mem h a
    obtain ⟨hb0, hb1⟩ := intAt_unsigned_mem h b
    simp only [tyLo, tyHi, if_neg h]
    generalize (2 : Int) ^ tyWidth ty = m at *
    constructor <;> nlinarith

/-- A quotient of the least value `-m` by a number that is not −1 does not reach `m` (R129). -/
theorem neg_tdiv_lt {m b : Int} (hm : 0 < m) (hb : b ≠ -1) : (-m).tdiv b < m := by
  rcases lt_or_ge b 0 with h | h
  · obtain ⟨n, rfl⟩ : ∃ n : Nat, b = -(n : Int) := ⟨b.natAbs, by omega⟩
    rw [Int.neg_tdiv_neg, Int.tdiv_eq_ediv_of_nonneg hm.le]
    exact Int.ediv_lt_self_of_pos_of_ne_one hm (by omega)
  · have := Int.tdiv_nonneg hm.le h
    rw [Int.neg_tdiv]
    omega

/-- A quotient is a value of the type, but for the least value divided by −1 (R129). -/
theorem tdiv_mem {ty a b : Nat} (h : ¬(tySigned ty = true ∧ intAt ty a = -2 ^ (tyWidth ty - 1) ∧ intAt ty b = -1)) :
    tyLo ty ≤ (intAt ty a).tdiv (intAt ty b) ∧ (intAt ty a).tdiv (intAt ty b) ≤ tyHi ty := by
  have hq := Int.natAbs_tdiv_le_natAbs (intAt ty a) (intAt ty b)
  by_cases hs : tySigned ty = true
  · have ha := intAt_signed_mem hs a
    simp only [tyLo, tyHi, if_pos hs]
    have hlt : (intAt ty a).tdiv (intAt ty b) < 2 ^ (tyWidth ty - 1) := by
      by_cases hm : intAt ty a = -2 ^ (tyWidth ty - 1)
      · rw [hm]; exact neg_tdiv_lt (by positivity) fun hb => h ⟨hs, hm, hb⟩
      · omega
    omega
  · have ha := intAt_unsigned_mem hs a
    have hb := intAt_unsigned_mem hs b
    have h0 := Int.tdiv_nonneg ha.1 hb.1
    simp only [tyLo, tyHi, if_neg hs]
    omega

/-- A remainder by a number that is not zero is a value of the type (R129). -/
theorem tmod_mem {ty a b : Nat} (h : intAt ty b ≠ 0) :
    tyLo ty ≤ (intAt ty a).tmod (intAt ty b) ∧ (intAt ty a).tmod (intAt ty b) ≤ tyHi ty := by
  have hr : ((intAt ty a).tmod (intAt ty b)).natAbs < (intAt ty b).natAbs := by
    rw [Int.natAbs_tmod]; exact Nat.mod_lt _ (Int.natAbs_pos.mpr h)
  by_cases hs : tySigned ty = true
  · have hb := intAt_signed_mem hs b
    simp only [tyLo, tyHi, if_pos hs]
    omega
  · have hb := intAt_unsigned_mem hs b
    have h0 := Int.tmod_nonneg (intAt ty b) (intAt_unsigned_mem hs a).1
    simp only [tyLo, tyHi, if_neg hs]
    omega

/-- The quotient read back (R129): −1 or all ones by zero; the least value divided by −1 wraps to itself. -/
theorem intAt_regOf_quo (ty a b : Nat) : intAt ty (regOf ty (quoRem ty a b).1) =
    if intAt ty b = 0 then (if tySigned ty then (-1 : Int) else 2 ^ tyWidth ty - 1)
    else if tySigned ty = true ∧ intAt ty a = -(2 ^ (tyWidth ty - 1)) ∧ intAt ty b = -1 then intAt ty a
    else (intAt ty a).tdiv (intAt ty b) := by
  have hp := two_pow_pred_int (tyWidth_pos ty)
  have hm : (1 : Int) ≤ 2 ^ (tyWidth ty - 1) := one_le_pow₀ one_le_two
  unfold quoRem
  dsimp only
  by_cases hb : intAt ty b = 0
  · rw [if_pos hb, if_pos hb, intAt_regOf]
    by_cases hs : tySigned ty = true
    · rw [if_pos hs]
      exact wrapAt_of_mem (by simp only [tyLo, tyHi, if_pos hs]; omega)
    · rw [if_neg hs, wrapAt, if_neg hs, ← Int.add_emod_right]
      exact Int.emod_eq_of_lt (by omega) (by omega)
  · rw [if_neg hb, if_neg hb]
    by_cases ho : tySigned ty = true ∧ intAt ty a = -(2 ^ (tyWidth ty - 1)) ∧ intAt ty b = -1
    · obtain ⟨hs, ha, hb1⟩ := ho
      rw [if_pos ⟨hs, ha, hb1⟩, intAt_regOf, wrapAt, if_pos hs, hb1, Int.tdiv_neg, Int.tdiv_one, ha, neg_neg, ← two_mul, ← hp, Int.emod_self, zero_sub]
    · rw [if_neg ho]
      exact intAt_regOf_of_mem (tdiv_mem ho)

/-- The remainder read back (R129): the dividend by zero. -/
theorem intAt_regOf_rem (ty a b : Nat) : intAt ty (regOf ty (quoRem ty a b).2) =
    if intAt ty b = 0 then intAt ty a
    else if tySigned ty = true ∧ intAt ty a = -(2 ^ (tyWidth ty - 1)) ∧ intAt ty b = -1 then 0
    else intAt ty a - (intAt ty a).tdiv (intAt ty b) * intAt ty b := by
  unfold quoRem
  dsimp only
  by_cases hb : intAt ty b = 0
  · rw [if_pos hb, if_pos hb]
    exact intAt_regOf_of_mem (intAt_mem ty a)
  · rw [if_neg hb, if_neg hb, intAt_regOf_of_mem (tmod_mem hb)]
    by_cases ho : tySigned ty = true ∧ intAt ty a = -(2 ^ (tyWidth ty - 1)) ∧ intAt ty b = -1
    · rw [if_pos ho, ho.2.2, Int.tmod_neg, Int.tmod_one]
    · rw [if_neg ho, Int.tmod_def, mul_comm]

/-- The lesser and the greater of two values of a type are values of the type. -/
theorem min_mem {ty : Nat} {x y : Int} (hx : tyLo ty ≤ x ∧ x ≤ tyHi ty) (hy : tyLo ty ≤ y ∧ y ≤ tyHi ty) : tyLo ty ≤ min x y ∧ min x y ≤ tyHi ty := by
  omega

theorem max_mem {ty : Nat} {x y : Int} (hx : tyLo ty ≤ x ∧ x ≤ tyHi ty) (hy : tyLo ty ≤ y ∧ y ≤ tyHi ty) : tyLo ty ≤ max x y ∧ max x y ≤ tyHi ty := by
  omega

/-- `sad` reads C as an unsigned 32-bit value, and a type of at most 32 bits leaves D and C single registers (R123, R130). -/
theorem sad_operands (e : Enc) : (readTypes 0x011 e).2.2 = 8 ∧
    (e.ty.toNat ∈ [2, 3, 4, 6, 7, 8] → (pairs 0x011 e).1 = false ∧ (pairs 0x011 e).2.2.2 = false) := by
  refine ⟨rfl, fun h => ?_⟩
  have hw : ty64 (tyCode 0x011 e) = false := by
    simp only [List.mem_cons, List.not_mem_nil, or_false] at h
    unfold ty64 tyCode
    rcases h with h | h | h | h | h | h <;> rw [h] <;> rfl
  simp [pairs, hw]

/-- Settles O17: each result lies in its type, or is wrapped or saturated to it, so that reading it back gives the value stated. -/
theorem integerResults : Obligations.IntegerResults := by
  unfold Obligations.IntegerResults
  refine ⟨fun e _ => ⟨?add, ?sub, ?neg, ?abs, ?addc, ?subb⟩, fun e _ => ⟨?mul, ?mulhi, ?mad, ?madhi⟩, fun e _ => ⟨?div, ?rem⟩,
    fun e _ => ⟨?min, ?max, ?clamp, ?sad, sad_operands e⟩⟩
  case add => exact computes_of_alu (fun _ _ => rfl) (fun _ => rfl) fun a b c => ⟨intAt_satWrap .., rfl⟩
  case sub => exact computes_of_alu (fun _ _ => rfl) (fun _ => rfl) fun a b c => ⟨intAt_satWrap .., rfl⟩
  case neg => exact computes_of_alu (fun _ _ => rfl) (fun _ => rfl) fun a b c => ⟨intAt_satWrap .., rfl⟩
  case abs => exact computes_of_alu (fun _ _ => rfl) (fun _ => rfl) fun a b c => ⟨intAt_satWrap .., rfl⟩
  case addc => exact computes_of_alu (fun _ _ => rfl) (fun _ => rfl) fun a b c => ⟨rfl, rfl⟩
  case subb =>
    exact computes_of_alu (fun _ _ => rfl) (fun _ => rfl) fun a b c => ⟨cast_toBits .., congrArg some (subb_borrow ..)⟩
  case mul => exact computes_of_alu (fun _ _ => rfl) (fun _ => rfl) fun a b c => intAt_satWrap ..
  case mulhi => exact computes_of_alu (fun _ _ => rfl) (fun _ => rfl) fun a b c => intAt_regOf_of_mem (mulHigh_mem ..)
  case mad => exact computes_of_alu (fun _ _ => rfl) (fun _ => rfl) fun a b c => intAt_regOf ..
  case madhi => exact computes_of_alu (fun _ _ => rfl) (fun _ => rfl) fun a b c => intAt_regOf ..
  case div => exact computes_of_alu (fun _ _ => rfl) (fun _ => rfl) fun a b c => ⟨intAt_regOf_quo .., rfl⟩
  case rem => exact computes_of_alu (fun _ _ => rfl) (fun _ => rfl) fun a b c => ⟨intAt_regOf_rem .., rfl⟩
  case min =>
    exact computes_of_alu (fun _ _ => rfl) (fun _ => rfl) fun a b c =>
      (intAt_regOf_of_mem (min_mem (intAt_mem ..) (intAt_mem ..))).trans (min_def ..)
  case max =>
    exact computes_of_alu (fun _ _ => rfl) (fun _ => rfl) fun a b c =>
      (intAt_regOf_of_mem (max_mem (intAt_mem ..) (intAt_mem ..))).trans (by omega)
  case clamp =>
    refine computes_of_alu (fun _ _ => rfl) (fun _ => rfl) fun a b c => ?_
    have h := intAt_regOf_of_mem (min_mem (max_mem (intAt_mem e.ty.toNat a) (intAt_mem e.ty.toNat b)) (intAt_mem e.ty.toNat c))
    simp only [aluClamp, h]
    omega
  case sad =>
    exact computes_of_alu (fun _ _ => rfl) (fun _ => rfl) fun a b c => by simp [aluSad]

end Sys2Proof.Proofs.Thread
end

section
/-! What the logical, shift and rotation instructions compute on raw bits (R131). -/
namespace Sys2Proof.Proofs.Thread

open Machine Legal

theorem toNat_and_ofNat (w a b : Nat) : (a &&& b) % 2 ^ w = (BitVec.ofNat w a &&& BitVec.ofNat w b).toNat := by
  rw [BitVec.toNat_and, BitVec.toNat_ofNat, BitVec.toNat_ofNat, Nat.and_mod_two_pow]

theorem toNat_or_ofNat (w a b : Nat) : (a ||| b) % 2 ^ w = (BitVec.ofNat w a ||| BitVec.ofNat w b).toNat := by
  rw [BitVec.toNat_or, BitVec.toNat_ofNat, BitVec.toNat_ofNat, Nat.or_mod_two_pow]

theorem toNat_xor_ofNat (w a b : Nat) : (a ^^^ b) % 2 ^ w = (BitVec.ofNat w a ^^^ BitVec.ofNat w b).toNat := by
  rw [BitVec.toNat_xor, BitVec.toNat_ofNat, BitVec.toNat_ofNat, Nat.xor_mod_two_pow]

/-- The complement of the low bits. -/
theorem toNat_not_ofNat (w a : Nat) : (~~~BitVec.ofNat w a).toNat = 2 ^ w - 1 - a % 2 ^ w := by
  rw [BitVec.toNat_not, BitVec.toNat_ofNat]

theorem toNat_andn_ofNat (w a b : Nat) :
    (a &&& (2 ^ w - 1 - b % 2 ^ w)) % 2 ^ w = (BitVec.ofNat w a &&& ~~~BitVec.ofNat w b).toNat := by
  have h : 2 ^ w - 1 - b % 2 ^ w < 2 ^ w := toNat_not_ofNat w b ▸ BitVec.isLt _
  rw [BitVec.toNat_and, toNat_not_ofNat, BitVec.toNat_ofNat, Nat.and_mod_two_pow, Nat.mod_eq_of_lt h]

/-- A shift left moves every bit out at a count of the width or more. -/
theorem shl_ofNat (w a n : Nat) : (if n ≥ w then 0 else a * 2 ^ n % 2 ^ w) = (BitVec.ofNat w a <<< n).toNat := by
  rw [BitVec.toNat_shiftLeft, BitVec.toNat_ofNat, Nat.shiftLeft_eq, Nat.mod_mul_mod]
  split_ifs with h
  · exact (Nat.mod_eq_zero_of_dvd (Dvd.dvd.mul_left (pow_dvd_pow 2 h) a)).symm
  · rfl

theorem shr_ofNat (w a n : Nat) : (if n ≥ w then 0 else a % 2 ^ w / 2 ^ n) = (BitVec.ofNat w a >>> n).toNat := by
  rw [BitVec.toNat_ushiftRight, BitVec.toNat_ofNat, Nat.shiftRight_eq_div_pow]
  split_ifs with h
  · exact (Nat.div_eq_of_lt ((Nat.mod_lt a (by positivity)).trans_le (Nat.pow_le_pow_right two_pos h))).symm
  · rfl

theorem sVal_eq_toInt {w : Nat} (hw : 0 < w) (a : Nat) : sVal w a = (BitVec.ofNat w a).toInt := by
  have := two_pow_pred hw
  rw [BitVec.toInt_eq_toNat_cond, BitVec.toNat_ofNat, sVal]
  push_cast
  split_ifs <;> omega

theorem sar_ofNat {w : Nat} (hw : 0 < w) (a n : Nat) : toBits w (sVal w a / 2 ^ n) = ((BitVec.ofNat w a).sshiftRight n).toNat := by
  rw [BitVec.sshiftRight_eq, BitVec.toNat_ofInt, Int.shiftRight_eq_div_pow, sVal_eq_toInt hw, toBits]
  push_cast
  rfl

/-- A rotation puts the bits that leave on the left in again on the right. -/
theorem rotLeft_eq_or {w n : Nat} (h : n ≤ w) (a : Nat) :
    rotLeft w a n % 2 ^ w = (a % 2 ^ w) <<< n % 2 ^ w ||| (a % 2 ^ w) >>> (w - n) := by
  have hw : 2 ^ w = 2 ^ n * 2 ^ (w - n) := by rw [← pow_add, Nat.add_sub_cancel' h]
  have hlow : a % 2 ^ w / 2 ^ (w - n) < 2 ^ n := by
    rw [Nat.div_lt_iff_lt_mul (by positivity), ← hw]
    exact Nat.mod_lt _ (by positivity)
  have hhigh : a % 2 ^ w * 2 ^ n % 2 ^ w = 2 ^ n * (a % 2 ^ w % 2 ^ (w - n)) := by
    rw [mul_comm, hw, Nat.mul_mod_mul_left]
  rw [Nat.shiftLeft_eq, Nat.shiftRight_eq_div_pow, rotLeft, hhigh, Nat.two_pow_add_eq_or_of_lt hlow]
  refine Nat.mod_eq_of_lt (Nat.or_lt_two_pow ?_ ?_)
  · rw [← hhigh]; exact Nat.mod_lt _ (by positivity)
  · exact hlow.trans_le (Nat.pow_le_pow_right two_pos h)

theorem rotl_ofNat {w : Nat} (hw : 0 < w) (a n : Nat) : rotLeft w a (n % w) % 2 ^ w = ((BitVec.ofNat w a).rotateLeft (n % w)).toNat := by
  rw [BitVec.toNat_rotateLeft, BitVec.toNat_ofNat, Nat.mod_mod, rotLeft_eq_or (Nat.mod_lt n hw).le]

/-- A rotation to the right by `n` is one to the left by `w - n`. -/
theorem rotr_ofNat {w : Nat} (hw : 0 < w) (a n : Nat) : rotLeft w a (w - n % w) % 2 ^ w = ((BitVec.ofNat w a).rotateRight (n % w)).toNat := by
  rw [BitVec.toNat_rotateRight, BitVec.toNat_ofNat, Nat.mod_mod, rotLeft_eq_or (Nat.sub_le ..), Nat.sub_sub_self (Nat.mod_lt n hw).le, Nat.or_comm]

end Sys2Proof.Proofs.Thread
end

section
/-! Counts of bits (R132). -/
namespace Sys2Proof.Proofs.Thread

open Machine Legal

@[simp] theorem length_bitList (w x : Nat) : (bitList w x).length = w := by simp [bitList]

theorem getElem_bitList {w x k : Nat} (h : k < (bitList w x).length) : (bitList w x)[k] = x.testBit k := by
  simp [bitList, Nat.testBit_eq_decide_div_mod_eq]

theorem bitList_eq_map (w x : Nat) : bitList w x = (List.range w).map x.testBit := by
  simp [bitList, Nat.testBit_eq_decide_div_mod_eq]

/-- The number of a list of bits has these bits, and no other. -/
theorem testBit_ofBitList : ∀ (l : List Bool) (k : Nat), (ofBitList l).testBit k = l.getD k false
  | [], k => by simp [ofBitList]
  | b :: l, 0 => by cases b <;> simp [ofBitList, Nat.testBit_zero]
  | b :: l, k + 1 => by
    have hd : ((if b then 1 else 0) + 2 * ofBitList l) / 2 = ofBitList l := by split_ifs <;> omega
    rw [ofBitList, Nat.testBit_succ, hd, testBit_ofBitList l k, List.getD_cons_succ]

theorem ofBitList_lt : ∀ l : List Bool, ofBitList l < 2 ^ l.length
  | [] => by simp [ofBitList]
  | b :: l => by
    have := ofBitList_lt l
    rw [ofBitList, List.length_cons, pow_succ]
    split_ifs <;> omega

/-- Leading zeros: the bits above the highest bit set (R132). -/
theorem leadZeros_spec (w a : Nat) : leadZeros w a ≤ w ∧ (∀ k, k < leadZeros w a → a.testBit (w - 1 - k) = false) ∧
    (leadZeros w a < w → a.testBit (w - 1 - leadZeros w a) = true) := by
  have hlow : ∀ j, j < w → (a % 2 ^ w).testBit j = a.testBit j := fun j hj => by simp [Nat.testBit_mod_two_pow, hj]
  unfold leadZeros
  by_cases h : a % 2 ^ w = 0
  · rw [if_pos h]
    refine ⟨le_rfl, fun k hk => ?_, fun hk => absurd hk (lt_irrefl _)⟩
    rw [← hlow _ (by omega), h, Nat.zero_testBit]
  · have hlog : Nat.log2 (a % 2 ^ w) < w := (Nat.log2_lt h).mpr (Nat.mod_lt _ (by positivity))
    rw [if_neg h]
    refine ⟨by omega, fun k hk => ?_, fun _ => ?_⟩
    · rw [← hlow _ (by omega)]
      exact Nat.testBit_lt_two_pow ((Nat.log2_lt h).mp (by omega))
    · rw [show w - 1 - (w - 1 - Nat.log2 (a % 2 ^ w)) = Nat.log2 (a % 2 ^ w) by omega, ← hlow _ hlog]
      exact Nat.testBit_log2 h

/-- The zeros listed before the first bit set end at its place. -/
theorem trailZeros_eq_findIdx (w a : Nat) : ((bitList w a).takeWhile (fun b => !b)).length = (bitList w a).findIdx id := by
  rw [List.takeWhile_eq_take_findIdx_not, List.length_take, Nat.min_eq_left]
  · simp only [Bool.not_not]; rfl
  · exact List.findIdx_le_length

/-- Trailing zeros: the bits below the lowest bit set (R132). -/
theorem trailZeros_spec (w a : Nat) : (bitList w a).findIdx id ≤ w ∧ (∀ k, k < (bitList w a).findIdx id → a.testBit k = false) ∧
    ((bitList w a).findIdx id < w → a.testBit ((bitList w a).findIdx id) = true) := by
  have hl : (bitList w a).findIdx id ≤ (bitList w a).length := List.findIdx_le_length
  refine ⟨by simpa using hl, fun k hk => ?_, fun h => ?_⟩
  · rw [← getElem_bitList (hk.trans_le hl)]
    exact List.not_of_lt_findIdx hk
  · have hi : (bitList w a).findIdx id < (bitList w a).length := by simpa using h
    rw [← getElem_bitList hi]
    exact List.findIdx_getElem (p := id)

theorem popCount_eq_countP (w a : Nat) : ((bitList w a).filter id).length = (List.range w).countP (fun k => a.testBit k) := by
  rw [← List.countP_eq_length_filter, bitList_eq_map, List.countP_map]
  rfl

/-- The bits in reverse (R132). -/
theorem testBit_reverse {w k : Nat} (h : k < w) (a : Nat) : (ofBitList (bitList w a).reverse).testBit (w - 1 - k) = a.testBit k := by
  have hk : w - 1 - k < (bitList w a).reverse.length := by simp; omega
  rw [testBit_ofBitList, List.getD_eq_getElem _ _ hk, List.getElem_reverse, getElem_bitList]
  congr 1
  simp only [length_bitList]
  omega

theorem reverse_lt (w a : Nat) : ofBitList (bitList w a).reverse < 2 ^ w := by
  simpa using ofBitList_lt (bitList w a).reverse

end Sys2Proof.Proofs.Thread
end

section
/-! Bit fields (R133). -/
namespace Sys2Proof.Proofs.Thread

open Machine Legal

/-- A field of `n` bits is negative, read as signed, where its highest bit is set. -/
theorem sVal_of_lt {n f : Nat} (hn : 0 < n) (hf : f < 2 ^ n) : sVal n f = if f.testBit (n - 1) = true then (f : Int) - 2 ^ n else f := by
  rw [sVal, Nat.mod_eq_of_lt hf]
  by_cases h : f < 2 ^ (n - 1)
  · rw [if_pos h, Nat.testBit_lt_two_pow h, if_neg Bool.false_ne_true]
  · have hb : f.testBit (n - 1) = true :=
      Nat.testBit_of_two_pow_le_and_two_pow_add_one_gt (Nat.le_of_not_lt h) (by rwa [Nat.sub_add_cancel hn])
    rw [if_neg h, if_pos hb]

/-- A field no wider than the type keeps its value in the type: as a signed number, and as an unsigned one. -/
theorem intAt_toBits_field {ty n : Nat} (hs : tySigned ty = true) (hn : 0 < n) (h : n ≤ tyWidth ty) (f : Nat) :
    intAt ty (toBits (tyWidth ty) (sVal n f)) = sVal n f := by
  have hp : (2 : Int) ^ (n - 1) ≤ 2 ^ (tyWidth ty - 1) := pow_le_pow_right₀ one_le_two (by omega)
  have hm := sVal_mem hn f
  rw [intAt_toBits]
  exact wrapAt_of_mem (by simp only [tyLo, tyHi, if_pos hs]; omega)

theorem intAt_unsigned_field {ty n f : Nat} (hs : ¬tySigned ty = true) (h : n ≤ tyWidth ty) (hf : f < 2 ^ n) : intAt ty f = f := by
  rw [intAt, if_neg hs, Nat.mod_eq_of_lt (hf.trans_le (Nat.pow_le_pow_right two_pos h))]

@[simp] theorem intAt_zero (ty : Nat) : intAt ty 0 = 0 := by
  simp [intAt, sVal]

/-- The bits of B with the low `len` bits of A put in at `pos` (R133). -/
theorem testBit_insert (a y pos len k : Nat) : (y / 2 ^ (pos + len) * 2 ^ (pos + len) + a % 2 ^ len * 2 ^ pos + y % 2 ^ pos).testBit k =
    if pos ≤ k ∧ k < pos + len then a.testBit (k - pos) else y.testBit k := by
  have hd : y / 2 ^ (pos + len) * 2 ^ (pos + len) + a % 2 ^ len * 2 ^ pos + y % 2 ^ pos =
      2 ^ pos * (2 ^ len * (y / 2 ^ (pos + len)) + a % 2 ^ len) + y % 2 ^ pos := by rw [pow_add]; ring
  rw [hd, Nat.testBit_two_pow_mul_add _ (Nat.mod_lt _ (by positivity)), Nat.testBit_two_pow_mul_add _ (Nat.mod_lt _ (by positivity))]
  by_cases h1 : k < pos
  · rw [if_pos h1, if_neg (by omega), Nat.testBit_mod_two_pow, decide_eq_true h1, Bool.true_and]
  · by_cases h2 : k < pos + len
    · rw [if_neg h1, if_pos (by omega), if_pos (by omega), Nat.testBit_mod_two_pow, decide_eq_true (by omega), Bool.true_and]
    · rw [if_neg h1, if_neg (by omega), if_neg (by omega), Nat.testBit_div_two_pow]
      congr 1
      omega

theorem insert_lt {w y pos len : Nat} (hy : y < 2 ^ w) (h : pos + len ≤ w) (a : Nat) :
    y / 2 ^ (pos + len) * 2 ^ (pos + len) + a % 2 ^ len * 2 ^ pos + y % 2 ^ pos < 2 ^ w := by
  refine Nat.lt_pow_two_of_testBit _ fun k hk => ?_
  rw [testBit_insert, if_neg (by omega)]
  exact Nat.testBit_lt_two_pow (hy.trans_le (Nat.pow_le_pow_right two_pos hk))

theorem aluBfe_spec (e : Enc) (a b c : Nat) :
    let W := tyWidth e.ty.toNat
    let pos := min (b % 256) W
    let len := min (c % 256) (W - pos)
    let f := a % 2 ^ W / 2 ^ pos % 2 ^ len
    intAt e.ty.toNat (aluBfe e a b c).d =
      if len = 0 then 0 else if tySigned e.ty.toNat = true ∧ f.testBit (len - 1) = true then (f : Int) - 2 ^ len else f := by
  intro W pos len f
  have hf : f < 2 ^ len := Nat.mod_lt _ (by positivity)
  have hlen : len ≤ W := by omega
  change intAt e.ty.toNat (if len = 0 then 0 else if tySigned e.ty.toNat then toBits W (sVal len f) else f) = _
  by_cases h0 : len = 0
  · rw [if_pos h0, if_pos h0]
    exact intAt_zero _
  · by_cases hs : tySigned e.ty.toNat = true
    · rw [if_neg h0, if_neg h0, if_pos hs, intAt_toBits_field hs (by omega) hlen, sVal_of_lt (by omega) hf]
      simp only [hs, true_and]
    · rw [if_neg h0, if_neg h0, if_neg hs, if_neg fun h => hs h.1, intAt_unsigned_field hs hlen hf]

theorem aluBfi_spec (e : Enc) (a b c : Nat) :
    let W := tyWidth e.ty.toNat
    let pos := min (c % 256) W
    let len := min (c / 256 % 256) (W - pos)
    (aluBfi e a b c).d < 2 ^ W ∧
      ∀ k, k < W → (aluBfi e a b c).d.testBit k = if pos ≤ k ∧ k < pos + len then a.testBit (k - pos) else b.testBit k := by
  intro W pos len
  have hy : b % 2 ^ W < 2 ^ W := Nat.mod_lt _ (by positivity)
  refine ⟨insert_lt hy (show pos + len ≤ W by omega) a, fun k hk => ?_⟩
  refine (testBit_insert a (b % 2 ^ W) pos len k).trans ?_
  rw [Nat.testBit_mod_two_pow, decide_eq_true hk, Bool.true_and]

end Sys2Proof.Proofs.Thread
end

section
/-! What the logical, shift, count and bit-field instructions compute. -/
namespace Sys2Proof.Proofs.Thread

open Machine Legal

/-- A shift or rotation count is one register, read at an unsigned type of 32 bits: an immediate −1 counts 2^32 − 1 (R64, R131). -/
theorem shift_count_operand (e : Enc) {op : Nat} (h0 : 0x017 ≤ op) (h1 : op ≤ 0x01B) :
    (readTypes op e).2.1 = 8 ∧ (pairs op e).2.2.1 = false := by
  constructor
  · rw [readTypes]; simp [h0, h1, show op ≠ 0x011 by omega]
  · rw [pairs]; simp [h0, h1, show op < 0x80 by omega]

/-- `clz`, `ctz` and `popc` give one register, `brev` a pair for a 64-bit type (R132). -/
theorem count_destinations {e : Enc} (h : e.ty.toNat ≤ 1) :
    (pairs 0x01C e).1 = false ∧ (pairs 0x01D e).1 = false ∧ (pairs 0x01E e).1 = false ∧ (pairs 0x01F e).1 = decide (e.ty = 1) := by
  refine ⟨rfl, rfl, rfl, ?_⟩
  have hb : (pairs 0x01F e).1 = ty64 e.ty.toNat := rfl
  rw [hb, ty64]
  rcases (by omega : e.ty.toNat = 0 ∨ e.ty.toNat = 1) with h | h
  · have h' : e.ty = 0 := BitVec.eq_of_toNat_eq h
    rw [h']; rfl
  · have h' : e.ty = 1 := BitVec.eq_of_toNat_eq h
    rw [h']; rfl

/-- Settles O18: the raw bits as bit vectors of the type's width, counts and fields bit by bit. -/
theorem bitResults : Obligations.BitResults := by
  unfold Obligations.BitResults
  refine ⟨fun e _ => ⟨?and, ?or, ?xor, ?andn, ?not, ?shl, ?shr, ?sar, ?rotl, ?rotr, fun op => shift_count_operand e, by decide⟩,
    fun e he => ⟨?clz, ?ctz, ?popc, ?brev, count_destinations he⟩, fun e _ => ⟨?bfe, ?bfi, rfl, rfl, rfl⟩⟩
  case and => exact computes_of_alu (fun _ _ => rfl) (fun _ => rfl) fun a b c => toNat_and_ofNat ..
  case or => exact computes_of_alu (fun _ _ => rfl) (fun _ => rfl) fun a b c => toNat_or_ofNat ..
  case xor => exact computes_of_alu (fun _ _ => rfl) (fun _ => rfl) fun a b c => toNat_xor_ofNat ..
  case andn => exact computes_of_alu (fun _ _ => rfl) (fun _ => rfl) fun a b c => toNat_andn_ofNat ..
  case not => exact computes_of_alu (fun _ _ => rfl) (fun _ => rfl) fun a b c => (toNat_not_ofNat ..).symm
  case shl => exact computes_of_alu (fun _ _ => rfl) (fun _ => rfl) fun a b c => shl_ofNat ..
  case shr => exact computes_of_alu (fun _ _ => rfl) (fun _ => rfl) fun a b c => shr_ofNat ..
  case sar => exact computes_of_alu (fun _ _ => rfl) (fun _ => rfl) fun a b c => sar_ofNat (tyWidth_pos _) ..
  case rotl => exact computes_of_alu (fun _ _ => rfl) (fun _ => rfl) fun a b c => rotl_ofNat (tyWidth_pos _) ..
  case rotr => exact computes_of_alu (fun _ _ => rfl) (fun _ => rfl) fun a b c => rotr_ofNat (tyWidth_pos _) ..
  case clz => exact computes_of_alu (fun _ _ => rfl) (fun _ => rfl) fun a b c => leadZeros_spec ..
  case ctz =>
    refine computes_of_alu (fun _ _ => rfl) (fun _ => rfl) fun a b c => ?_
    rw [aluCtz, trailZeros_eq_findIdx]
    exact trailZeros_spec ..
  case popc => exact computes_of_alu (fun _ _ => rfl) (fun _ => rfl) fun a b c => popCount_eq_countP ..
  case brev => exact computes_of_alu (fun _ _ => rfl) (fun _ => rfl) fun a b c => ⟨reverse_lt .., fun k hk => testBit_reverse hk a⟩
  case bfe => exact computes_of_alu (fun _ _ => rfl) (fun _ => rfl) fun a b c => aluBfe_spec ..
  case bfi => exact computes_of_alu (fun _ _ => rfl) (fun _ => rfl) fun a b c => aluBfi_spec ..

end Sys2Proof.Proofs.Thread
end

section
/-! The wide formats by their bits (R27): where an encoding is a NaN, and what its magnitude code is worth. -/
namespace Sys2Proof.Proofs.Thread

open Machine Legal

/-- The magnitude code of an encoding, and the one of infinity. -/
def fMag (f : FFmt) (x : Nat) : Nat := x % 2 ^ (f.eb + f.mb)
def fTop (f : FFmt) : Nat := (2 ^ f.eb - 1) * 2 ^ f.mb

/-- What a finite magnitude code is worth, in units of the least subnormal value. -/
def fUnits (f : FFmt) (c : Nat) : Nat :=
  if c / 2 ^ f.mb = 0 then c % 2 ^ f.mb else (2 ^ f.mb + c % 2 ^ f.mb) * 2 ^ (c / 2 ^ f.mb - 1)

/-- Sign and magnitude as one number, −0 below +0. -/
def fKey (f : FFmt) (x : Nat) : Int := if fSign f x then -(fMag f x : Int) - 1 else fMag f x

theorem fMag_exp (f : FFmt) (x : Nat) : x / 2 ^ f.mb % 2 ^ f.eb = fMag f x / 2 ^ f.mb := by
  rw [fMag, add_comm, pow_add, Nat.mod_mul_right_div_self]

theorem fMag_mant (f : FFmt) (x : Nat) : x % 2 ^ f.mb = fMag f x % 2 ^ f.mb := by
  rw [fMag, Nat.mod_mod_of_dvd _ (pow_dvd_pow 2 (Nat.le_add_left ..))]

theorem fMag_lt (f : FFmt) (x : Nat) : fMag f x < 2 ^ (f.eb + f.mb) := Nat.mod_lt _ (by positivity)

theorem fMag_exp_lt (f : FFmt) (x : Nat) : fMag f x / 2 ^ f.mb < 2 ^ f.eb := by
  rw [← fMag_exp]; exact Nat.mod_lt _ (by positivity)

/-- The exponent field is all ones from infinity on, and the mantissa field is 0 at infinity alone (R27). -/
theorem fMag_exp_top (f : FFmt) (x : Nat) : fMag f x / 2 ^ f.mb = 2 ^ f.eb - 1 ↔ fTop f ≤ fMag f x := by
  rw [fTop, ← Nat.le_div_iff_mul_le (by positivity)]
  have := fMag_exp_lt f x
  omega

theorem fMag_mant_zero {f : FFmt} {x : Nat} (h : fMag f x / 2 ^ f.mb = 2 ^ f.eb - 1) : fMag f x % 2 ^ f.mb = 0 ↔ fMag f x = fTop f := by
  have hd := Nat.div_add_mod (fMag f x) (2 ^ f.mb)
  rw [h, mul_comm, ← fTop] at hd
  omega

/-- The value of an encoding of a format with infinities, by its magnitude code (R27). -/
theorem fVal_eq {f : FFmt} (hi : f.inf = true) (x : Nat) : fVal f x =
    if fTop f < fMag f x then .nan (x % 2 ^ f.mb / 2 ^ (f.mb - 1) = 0)
    else if fMag f x = fTop f then .inf (fSign f x)
    else if fMag f x / 2 ^ f.mb = 0 then .fin (fSign f x) (fMag f x % 2 ^ f.mb) (1 - (f.bias : Int) - f.mb)
    else .fin (fSign f x) (2 ^ f.mb + fMag f x % 2 ^ f.mb) ((fMag f x / 2 ^ f.mb : Nat) - (f.bias : Int) - f.mb) := by
  unfold fVal
  simp only [hi, fMag_exp, Bool.true_and, Bool.not_true, Bool.and_false, Bool.false_and, if_false, decide_eq_true_eq, Bool.false_eq_true]
  by_cases ht : fMag f x / 2 ^ f.mb = 2 ^ f.eb - 1
  · have hle := (fMag_exp_top f x).mp ht
    have hz := fMag_mant_zero ht
    rw [if_pos ht, fMag_mant]
    by_cases hm : fMag f x % 2 ^ f.mb = 0
    · rw [if_pos hm, if_neg (by omega), if_pos (hz.mp hm)]
    · rw [if_neg hm, if_pos (by omega)]
  · have hlt : ¬fTop f ≤ fMag f x := fun h => ht ((fMag_exp_top f x).mpr h)
    rw [if_neg ht, if_neg (show ¬fTop f < fMag f x by omega), if_neg (show ¬fMag f x = fTop f by omega), fMag_mant]

theorem fVal_nan {f : FFmt} (hi : f.inf = true) {x : Nat} (h : fTop f < fMag f x) : fVal f x = .nan (x % 2 ^ f.mb / 2 ^ (f.mb - 1) = 0) := by
  rw [fVal_eq hi, if_pos h]

theorem fVal_inf {f : FFmt} (hi : f.inf = true) {x : Nat} (h : fMag f x = fTop f) : fVal f x = .inf (fSign f x) := by
  rw [fVal_eq hi, if_neg (by omega), if_pos h]

/-- A finite encoding is its units at the least exponent, moved by some power of two to a higher one. -/
theorem fVal_fin {f : FFmt} (hi : f.inf = true) {x : Nat} (h : fMag f x < fTop f) :
    ∃ m k : Nat, fVal f x = .fin (fSign f x) m (1 - (f.bias : Int) - f.mb + k) ∧ m * 2 ^ k = fUnits f (fMag f x) := by
  rw [fVal_eq hi, if_neg (by omega), if_neg (by omega), fUnits]
  by_cases he : fMag f x / 2 ^ f.mb = 0
  · rw [if_pos he, if_pos he]
    exact ⟨fMag f x % 2 ^ f.mb, 0, by simp, by simp⟩
  · rw [if_neg he, if_neg he]
    refine ⟨_, fMag f x / 2 ^ f.mb - 1, ?_, rfl⟩
    generalize fMag f x / 2 ^ f.mb = n at he ⊢
    congr 1
    omega

theorem isNaN_fVal {f : FFmt} (hi : f.inf = true) (x : Nat) : isNaN (fVal f x) = decide (fTop f < fMag f x) := by
  rw [fVal_eq hi]
  split_ifs with h <;> simp [isNaN, h]

/-- The units of a code given by its exponent and mantissa fields. -/
theorem fUnits_fields (f : FFmt) {m : Nat} (n : Nat) (hm : m < 2 ^ f.mb) :
    fUnits f (2 ^ f.mb * n + m) = if n = 0 then m else (2 ^ f.mb + m) * 2 ^ (n - 1) := by
  rw [fUnits, Nat.mul_add_div (by positivity), Nat.div_eq_of_lt hm, Nat.mul_add_mod, Nat.mod_eq_of_lt hm, add_zero]

/-- The next code is worth more, within a binade and from the last of one to the first of the next. -/
theorem fUnits_lt_succ (f : FFmt) (c : Nat) : fUnits f c < fUnits f (c + 1) := by
  have hm : c % 2 ^ f.mb < 2 ^ f.mb := Nat.mod_lt _ (by positivity)
  obtain ⟨n, m, hlt, rfl⟩ : ∃ n m, m < 2 ^ f.mb ∧ c = 2 ^ f.mb * n + m := ⟨_, _, hm, (Nat.div_add_mod ..).symm⟩
  rw [fUnits_fields f n hlt]
  by_cases hs : m + 1 < 2 ^ f.mb
  · rw [add_assoc, fUnits_fields f n hs]
    split_ifs
    · omega
    · exact Nat.mul_lt_mul_of_pos_right (by omega) (by positivity)
  · have hl : m + 1 = 2 ^ f.mb := by omega
    have hn : 2 ^ f.mb * n + m + 1 = 2 ^ f.mb * (n + 1) + 0 := by rw [add_assoc, hl]; ring
    rw [hn, fUnits_fields f (n + 1) (by positivity), if_neg (Nat.succ_ne_zero n), Nat.add_sub_cancel, add_zero]
    split_ifs with h0
    · rw [h0]; omega
    · calc (2 ^ f.mb + m) * 2 ^ (n - 1) < (2 * 2 ^ f.mb) * 2 ^ (n - 1) := Nat.mul_lt_mul_of_pos_right (by omega) (by positivity)
        _ = 2 ^ f.mb * 2 ^ n := by rw [mul_comm 2, mul_assoc, ← Nat.pow_succ', Nat.succ_eq_add_one, Nat.sub_add_cancel (by omega)]

theorem fUnits_strictMono (f : FFmt) : StrictMono (fUnits f) := strictMono_nat_of_lt_succ (fUnits_lt_succ f)

@[simp] theorem fUnits_zero (f : FFmt) : fUnits f 0 = 0 := by simp [fUnits]

/-- An encoding is its sign above its magnitude code. -/
theorem fSigned_fMag {f : FFmt} {x : Nat} (hx : x < 2 * 2 ^ (f.eb + f.mb)) : fSigned f (fSign f x) (fMag f x) = x := by
  have hd := Nat.mod_add_div x (2 ^ (f.eb + f.mb))
  have hq : x / 2 ^ (f.eb + f.mb) < 2 := (Nat.div_lt_iff_lt_mul (by positivity)).mpr hx
  rcases Nat.le_one_iff_eq_zero_or_eq_one.mp (Nat.le_of_lt_succ hq) with h | h <;> rw [h] at hd <;> simpa [fSigned, fSign, fMag, h] using hd

theorem fKey_inj {f : FFmt} {x y : Nat} (hx : x < 2 * 2 ^ (f.eb + f.mb)) (hy : y < 2 * 2 ^ (f.eb + f.mb)) (h : fKey f x = fKey f y) : x = y := by
  have hs : fSign f x = fSign f y ∧ fMag f x = fMag f y := by
    unfold fKey at h
    cases hx : fSign f x <;> cases hy : fSign f y <;> simp [hx, hy] at h ⊢ <;> omega
  rw [← fSigned_fMag hx, ← fSigned_fMag hy, hs.1, hs.2]

theorem sInt_mul (n : Bool) (m k : Nat) : sInt n (m * k) = sInt n m * k := by
  cases n <;> simp [sInt]

/-- An exact sum at the least of two exponents. -/
theorem exactSum_scaled (e : Int) (n1 n2 : Bool) (m1 m2 k1 k2 : Nat) :
    (exactSum n1 m1 (e + k1) n2 m2 (e + k2)).1 * (2 ^ min k1 k2 : Nat) = sInt n1 (m1 * 2 ^ k1) + sInt n2 (m2 * 2 ^ k2) := by
  have hmin : min (e + k1) (e + k2) = e + (min k1 k2 : Nat) := by omega
  have h1 : (e + k1 - (e + (min k1 k2 : Nat))).toNat = k1 - min k1 k2 := by omega
  have h2 : (e + k2 - (e + (min k1 k2 : Nat))).toNat = k2 - min k1 k2 := by omega
  have p1 : 2 ^ k1 = 2 ^ (k1 - min k1 k2) * 2 ^ min k1 k2 := by rw [← pow_add]; congr 1; omega
  have p2 : 2 ^ k2 = 2 ^ (k2 - min k1 k2) * 2 ^ min k1 k2 := by rw [← pow_add]; congr 1; omega
  simp only [exactSum, hmin, h1, h2]
  rw [p1, p2, sInt_mul, sInt_mul]
  push_cast
  ring

/-- Two finite values compare as their units do, and zeros by their signs. -/
theorem cmpVal_fin (e : Int) (n1 n2 : Bool) (m1 m2 k1 k2 : Nat) :
    cmpVal true (.fin n1 m1 (e + k1)) (.fin n2 m2 (e + k2)) =
      if sInt n1 (m1 * 2 ^ k1) < sInt n2 (m2 * 2 ^ k2) then -1 else if sInt n2 (m2 * 2 ^ k2) < sInt n1 (m1 * 2 ^ k1) then 1
      else if m1 * 2 ^ k1 = 0 ∧ m2 * 2 ^ k2 = 0 ∧ n1 ≠ n2 then (if n1 then -1 else 1) else 0 := by
  have hsum := exactSum_scaled e n1 (!n2) m1 m2 k1 k2
  have hneg : sInt (!n2) (m2 * 2 ^ k2) = -sInt n2 (m2 * 2 ^ k2) := by cases n2 <;> simp [sInt]
  have hpos : (0 : Int) < (2 ^ min k1 k2 : Nat) := by positivity
  have hlt : (exactSum n1 m1 (e + k1) (!n2) m2 (e + k2)).1 < 0 ↔ sInt n1 (m1 * 2 ^ k1) < sInt n2 (m2 * 2 ^ k2) := by
    rw [← Int.mul_lt_mul_right hpos, zero_mul, hsum, hneg]; omega
  have hgt : 0 < (exactSum n1 m1 (e + k1) (!n2) m2 (e + k2)).1 ↔ sInt n2 (m2 * 2 ^ k2) < sInt n1 (m1 * 2 ^ k1) := by
    rw [← Int.mul_lt_mul_right hpos, zero_mul, hsum, hneg]; omega
  simp [cmpVal, hlt, hgt, and_assoc]

/-- Values that are not NaN compare as their keys (R139). -/
theorem cmpVal_fKey {f : FFmt} (hi : f.inf = true) {x y : Nat} (hx : fMag f x ≤ fTop f) (hy : fMag f y ≤ fTop f) :
    (cmpVal true (fVal f x) (fVal f y) ≤ 0 ↔ fKey f x ≤ fKey f y) ∧ (0 ≤ cmpVal true (fVal f x) (fVal f y) ↔ fKey f y ≤ fKey f x) := by
  -- finite values compare by their units, infinities lie beyond them; each for the four pairs of signs
  unfold fKey
  rcases hx.lt_or_eq with hx | hx <;> rcases hy.lt_or_eq with hy | hy
  · obtain ⟨m1, k1, e1, u1⟩ := fVal_fin hi hx
    obtain ⟨m2, k2, e2, u2⟩ := fVal_fin hi hy
    have hlt := (fUnits_strictMono f).lt_iff_lt (a := fMag f x) (b := fMag f y)
    have hgt := (fUnits_strictMono f).lt_iff_lt (a := fMag f y) (b := fMag f x)
    have h1 := (fUnits_strictMono f).lt_iff_lt (a := 0) (b := fMag f x)
    have h2 := (fUnits_strictMono f).lt_iff_lt (a := 0) (b := fMag f y)
    rw [fUnits_zero] at h1 h2
    rw [e1, e2, cmpVal_fin, u1, u2]
    generalize fUnits f (fMag f x) = u at hlt hgt h1 ⊢
    generalize fUnits f (fMag f y) = v at hlt hgt h2 ⊢
    cases fSign f x <;> cases fSign f y <;> simp [sInt] <;> omega
  · obtain ⟨m1, k1, e1, u1⟩ := fVal_fin hi hx
    rw [e1, fVal_inf hi hy]
    cases fSign f x <;> cases fSign f y <;> simp [cmpVal] <;> omega
  · obtain ⟨m2, k2, e2, u2⟩ := fVal_fin hi hy
    rw [e2, fVal_inf hi hx]
    cases fSign f x <;> cases fSign f y <;> simp [cmpVal] <;> omega
  · rw [fVal_inf hi hx, fVal_inf hi hy]
    cases fSign f x <;> cases fSign f y <;> simp [cmpVal] <;> omega

end Sys2Proof.Proofs.Thread
end

section
/-! The statement's own reading of the wide formats against the model's: NaNs, keys, elements and flags. -/
namespace Sys2Proof.Proofs.Thread

open Machine Legal

/-- The floating-point types of the wide formats (R67). -/
def FltTy (ty : Nat) : Prop := 10 ≤ ty ∧ ty ≤ 15

theorem fltTy_of_le {e : Enc} (h : 10 ≤ e.ty.toNat) : FltTy e.ty.toNat := ⟨h, by have := e.ty.isLt; omega⟩

/-- The format of a floating-point type, as R27 lays it out. -/
theorem tyFmt_bits {ty : Nat} (h : FltTy ty) : (tyFmt ty).inf = true ∧ (tyFmt ty).eb = (fltBits ty).1 ∧
    (tyFmt ty).mb = (fltBits ty).2.1 ∧ (tyFmt ty).cnan = (fltBits ty).2.2 := by
  obtain ⟨h0, h1⟩ := h
  interval_cases ty <;> exact ⟨rfl, rfl, rfl, rfl⟩

theorem tyFmt_width {ty : Nat} (h : FltTy ty) : (tyFmt ty).eb + (tyFmt ty).mb = fltWidth ty - 1 ∧ 2 ^ fltWidth ty = 2 * 2 ^ (fltWidth ty - 1) ∧
    0 < (tyFmt ty).mb ∧ (fltBits ty).2.2 < 2 ^ fltWidth ty := by
  obtain ⟨h0, h1⟩ := h
  interval_cases ty <;> exact ⟨rfl, rfl, by decide, by decide⟩

theorem fltNaN_iff {ty : Nat} (h : FltTy ty) (x : Nat) : fltNaN ty x = true ↔ fTop (tyFmt ty) < fMag (tyFmt ty) x := by
  obtain ⟨-, he, hm, -⟩ := tyFmt_bits h
  have ht := fMag_exp_top (tyFmt ty) x
  rw [fltNaN, ← he, ← hm, fMag_exp, fMag_mant, Bool.and_eq_true, decide_eq_true_eq, decide_eq_true_eq]
  constructor
  · rintro ⟨h1, h2⟩
    have := fMag_mant_zero h1
    have := ht.mp h1
    omega
  · intro hlt
    have h1 := ht.mpr hlt.le
    have := fMag_mant_zero h1
    exact ⟨h1, by omega⟩

theorem isNaN_tyFmt {ty : Nat} (h : FltTy ty) (x : Nat) : isNaN (fVal (tyFmt ty) x) = fltNaN ty x := by
  rw [isNaN_fVal (tyFmt_bits h).1, Bool.eq_iff_iff, decide_eq_true_iff, fltNaN_iff h]

theorem sigFlag_of_number {v : FVal} (h : isNaN v = false) : sigFlag v = 0 := by
  cases v with
  | nan s => cases h
  | inf s => rfl
  | fin s m e => rfl

/-- A NaN is signalling where the highest mantissa bit is 0 (R27). -/
theorem sigFlag_tyFmt {ty : Nat} (h : FltTy ty) (x : Nat) : sigFlag (fVal (tyFmt ty) x) = if fltSig ty x then 1 else 0 := by
  obtain ⟨hi, -, hm, -⟩ := tyFmt_bits h
  obtain ⟨-, -, hpos, -⟩ := tyFmt_width h
  by_cases hn : fltNaN ty x = true
  · have hq : x % 2 ^ (tyFmt ty).mb / 2 ^ ((tyFmt ty).mb - 1) = x / 2 ^ ((fltBits ty).2.1 - 1) % 2 := by
      rw [two_pow_pred hpos, mul_comm, Nat.mod_mul_right_div_self, hm]
    rw [fVal_nan hi ((fltNaN_iff h x).mp hn), hq, fltSig, hn, Bool.true_and]
    by_cases hs : x / 2 ^ ((fltBits ty).2.1 - 1) % 2 = 0 <;> simp [hs, sigFlag, fNV]
  · have hf : fltNaN ty x = false := Bool.eq_false_of_not_eq_true hn
    rw [fltSig, hf, Bool.false_and, if_neg Bool.false_ne_true]
    exact sigFlag_of_number (by rw [isNaN_tyFmt h, hf])

/-- The flags of two elements, NV where either raises it (R41). -/
theorem nv_or (p q : Bool) : (if p then (1 : BitVec 6) else 0) ||| (if q then 1 else 0) = if p || q then 1 else 0 := by
  cases p <;> cases q <;> rfl

theorem sigFlag_or {ty : Nat} (h : FltTy ty) (x y : Nat) : sigFlag (fVal (tyFmt ty) x) ||| sigFlag (fVal (tyFmt ty) y) =
    if fltSig ty x || fltSig ty y then 1 else 0 := by
  rw [sigFlag_tyFmt h, sigFlag_tyFmt h, nv_or]

theorem fltKey_eq_fKey {ty : Nat} (h : FltTy ty) (x : Nat) : fltKey ty x = fKey (tyFmt ty) x := by
  simp [fltKey, fKey, fSign, fMag, (tyFmt_width h).1]

theorem fltElem_lt (ty x k : Nat) : fltElem ty x k < 2 ^ fltWidth ty := Nat.mod_lt _ (by positivity)

/-- A lifted operation gives of each element, and of the flags, what it gives of one (R137). -/
theorem fltGives_lift {ty : Nat} (h : FltTy ty) {f : Nat → Nat → Nat → Nat × BitVec 6} {g : Nat → Nat → Nat} {sig : Nat → Nat → Bool}
    (hf : ∀ x y z, x < 2 ^ fltWidth ty → y < 2 ^ fltWidth ty → f x y z = (g x y, if sig x y then 1 else 0))
    (hg : ∀ x y, x < 2 ^ fltWidth ty → y < 2 ^ fltWidth ty → g x y < 2 ^ fltWidth ty) (a b c : Nat) : fltGives ty g sig a b (lift ty f a b c) := by
  by_cases hp : ty = 14 ∨ ty = 15
  · have hw : fltWidth ty = 16 := by rcases hp with rfl | rfl <;> rfl
    have hc : fltCount ty = 2 := by rcases hp with rfl | rfl <;> rfl
    have he : ∀ x k, elemAt 16 x k = fltElem ty x k := fun x k => by rw [elemAt, fltElem, hw]
    have g0 := hg _ _ (fltElem_lt ty a 0) (fltElem_lt ty b 0)
    have g1 := hg _ _ (fltElem_lt ty a 1) (fltElem_lt ty b 1)
    rw [lift, if_pos hp]
    simp only [he, hf _ _ _ (fltElem_lt ..) (fltElem_lt ..)]
    rw [hw] at g0 g1
    refine ⟨fun k hk => ?_, ?_⟩
    · rcases (by omega : k = 0 ∨ k = 1) with rfl | rfl
      · rw [fltElem, hw, mul_zero, pow_zero, Nat.div_one, Nat.add_mul_mod_self_right, Nat.mod_eq_of_lt g0]
      · rw [fltElem, hw, mul_one, Nat.add_mul_div_right _ _ (by positivity), Nat.div_eq_of_lt g0, zero_add, Nat.mod_eq_of_lt g1]
    · rw [hc, nv_or]
      simp [List.range_succ]
  · have hw : tyWidth ty = fltWidth ty := by obtain ⟨h0, h1⟩ := h; interval_cases ty <;> rfl
    have hc : fltCount ty = 1 := by rw [fltCount, if_neg (by obtain ⟨h0, h1⟩ := h; omega)]
    have he : ∀ x, x % 2 ^ tyWidth ty = fltElem ty x 0 := fun x => by rw [fltElem, mul_zero, pow_zero, Nat.div_one, hw]
    have g0 := hg _ _ (fltElem_lt ty a 0) (fltElem_lt ty b 0)
    rw [lift, if_neg hp]
    simp only [he, hf _ _ _ (fltElem_lt ..) (fltElem_lt ..)]
    refine ⟨fun k hk => ?_, ?_⟩
    · obtain rfl : k = 0 := by omega
      rw [← he, hw, Nat.mod_eq_of_lt g0]
    · rw [hc]; simp

/-- A new sign on A's magnitude, or the canonical NaN (R140). -/
theorem fResign_tyFmt {ty : Nat} (h : FltTy ty) (neg : Bool) (x : Nat) (fl : BitVec 6) : fResign (tyFmt ty) neg x fl =
    (if fltNaN ty x then (fltBits ty).2.2 else x % 2 ^ (fltWidth ty - 1) + if neg then 2 ^ (fltWidth ty - 1) else 0,
      fl ||| sigFlag (fVal (tyFmt ty) x)) := by
  obtain ⟨-, -, -, hc⟩ := tyFmt_bits h
  unfold fResign
  dsimp only
  rw [isNaN_tyFmt h]
  by_cases hn : fltNaN ty x = true
  · rw [if_pos hn, if_pos hn, fNaN, hc]
  · have h0 : sigFlag (fVal (tyFmt ty) x) = 0 := sigFlag_of_number (by rw [isNaN_tyFmt h, Bool.eq_false_of_not_eq_true hn])
    rw [if_neg hn, if_neg hn, fSigned, h0, (tyFmt_width h).1]
    simp

theorem fResign_lt {ty : Nat} (h : FltTy ty) (neg : Bool) (x : Nat) :
    (if fltNaN ty x then (fltBits ty).2.2 else x % 2 ^ (fltWidth ty - 1) + if neg then 2 ^ (fltWidth ty - 1) else 0) < 2 ^ fltWidth ty := by
  obtain ⟨-, hw, -, hc⟩ := tyFmt_width h
  have hx : x % 2 ^ (fltWidth ty - 1) < 2 ^ (fltWidth ty - 1) := Nat.mod_lt _ (by positivity)
  split_ifs <;> omega

/-- An instruction that gives each element a new sign by `neg`, with a signalling NaN in A or one that `sig` accepts raising NV (R140). -/
theorem fltGives_resign {ty : Nat} (h : FltTy ty) {neg : Nat → Nat → Bool} {fl : Nat → BitVec 6} {g : Nat → Nat → Nat} {sig : Nat → Nat → Bool}
    (hg : ∀ x y, x < 2 ^ fltWidth ty → y < 2 ^ fltWidth ty → g x y =
      if fltNaN ty x then (fltBits ty).2.2 else x % 2 ^ (fltWidth ty - 1) + if neg x y then 2 ^ (fltWidth ty - 1) else 0)
    (hs : ∀ x y, fl y ||| sigFlag (fVal (tyFmt ty) x) = if sig x y then 1 else 0) (a b c : Nat) :
    fltGives ty g sig a b (lift ty (fun x y _ => fResign (tyFmt ty) (neg x y) x (fl y)) a b c) :=
  fltGives_lift h (fun x y _ hx hy => by rw [fResign_tyFmt h, hs, hg x y hx hy]) (fun x y hx hy => hg x y hx hy ▸ fResign_lt h _ x) a b c

/-- The sign bit of an element. -/
theorem fSign_tyFmt {ty : Nat} (h : FltTy ty) (x : Nat) : fSign (tyFmt ty) x = decide (x / 2 ^ (fltWidth ty - 1) % 2 = 1) := by
  rw [fSign, (tyFmt_width h).1]

/-- Adding the weight of the sign bit to a word inverts that bit. -/
theorem add_half_mod (x m : Nat) (hm : 0 < m) (hx : x < 2 * m) : (x + m) % (2 * m) = x % m + if !decide (x / m % 2 = 1) then m else 0 := by
  rcases lt_or_ge x m with h | h
  · rw [Nat.mod_eq_of_lt (by omega), Nat.mod_eq_of_lt h, Nat.div_eq_of_lt h]; rfl
  · obtain ⟨y, rfl⟩ := Nat.exists_eq_add_of_le h
    have hy : y < m := by omega
    rw [show m + y + m = y + 2 * m by ring, Nat.add_mod_right, Nat.mod_eq_of_lt (by omega), Nat.add_mod_left, Nat.mod_eq_of_lt hy,
      Nat.add_div_left _ hm, Nat.div_eq_of_lt hy]; rfl

theorem half_mul_div (z m : Nat) (hz : z < 2 * m) : z / m * m = if decide (z / m % 2 = 1) then m else 0 := by
  have hq : z / m < 2 := Nat.div_lt_of_lt_mul (by omega)
  rcases Nat.le_one_iff_eq_zero_or_eq_one.mp (Nat.le_of_lt_succ hq) with h | h <;> simp [h]

theorem fabs_spec {e : Enc} (h : FltTy e.ty.toNat) (a b c : Nat) : fltGives e.ty.toNat
    (fun y _ => if fltNaN e.ty.toNat y then (fltBits e.ty.toNat).2.2 else y % 2 ^ (fltWidth e.ty.toNat - 1)) (fun y _ => fltSig e.ty.toNat y)
    a b (aluFabs e a b c) :=
  fltGives_resign h (neg := fun _ _ => false) (fl := fun _ => 0) (fun _ _ _ _ => by simp) (fun x _ => by rw [sigFlag_tyFmt h]; simp) a b c

theorem fneg_spec {e : Enc} (h : FltTy e.ty.toNat) (a b c : Nat) : fltGives e.ty.toNat
    (fun y _ => if fltNaN e.ty.toNat y then (fltBits e.ty.toNat).2.2 else (y + 2 ^ (fltWidth e.ty.toNat - 1)) % (2 * 2 ^ (fltWidth e.ty.toNat - 1)))
    (fun y _ => fltSig e.ty.toNat y) a b (aluFneg e a b c) :=
  fltGives_resign h (neg := fun x _ => !fSign (tyFmt e.ty.toNat) x) (fl := fun _ => 0)
    (fun x _ hx _ => by rw [fSign_tyFmt h, add_half_mod x _ (by positivity) ((tyFmt_width h).2.1 ▸ hx)]) (fun x _ => by rw [sigFlag_tyFmt h]; simp) a b c

theorem fsgn_spec {e : Enc} (h : FltTy e.ty.toNat) (a b c : Nat) : fltGives e.ty.toNat
    (fun y z => if fltNaN e.ty.toNat y then (fltBits e.ty.toNat).2.2
      else y % 2 ^ (fltWidth e.ty.toNat - 1) + z / 2 ^ (fltWidth e.ty.toNat - 1) * 2 ^ (fltWidth e.ty.toNat - 1))
    (fun y z => fltSig e.ty.toNat y || fltSig e.ty.toNat z) a b (aluFsgn e a b c) :=
  fltGives_resign h (neg := fun _ z => fSign (tyFmt e.ty.toNat) z) (fl := fun z => sigFlag (fVal (tyFmt e.ty.toNat) z))
    (fun _ z _ hz => by rw [fSign_tyFmt h, half_mul_div z _ ((tyFmt_width h).2.1 ▸ hz)]) (fun x z => by rw [BitVec.or_comm, sigFlag_or h]) a b c

end Sys2Proof.Proofs.Thread
end

section
/-! What `fmin` and `fmax` compute (R139). -/
namespace Sys2Proof.Proofs.Thread

open Machine Legal

/-- The lesser or the greater of two elements: a NaN gives the canonical NaN, or the other operand under `.num` (R139). -/
def fltPick (ty : Nat) (num : Prop) [Decidable num] (low : Bool) (y z : Nat) : Nat :=
  if fltNaN ty y && fltNaN ty z then (fltBits ty).2.2
  else if fltNaN ty y then (if num then z else (fltBits ty).2.2)
  else if fltNaN ty z then (if num then y else (fltBits ty).2.2)
  else if fltKey ty y ≤ fltKey ty z then (if low then y else z) else (if low then z else y)

theorem fltPick_lt {ty : Nat} (h : FltTy ty) (num : Prop) [Decidable num] (low : Bool) {y z : Nat} (hy : y < 2 ^ fltWidth ty) (hz : z < 2 ^ fltWidth ty) :
    fltPick ty num low y z < 2 ^ fltWidth ty := by
  obtain ⟨-, -, -, hc⟩ := tyFmt_width h
  unfold fltPick
  split_ifs <;> assumption

/-- Of two elements that are no NaN, the comparison of values picks the one that the keys pick; equal keys are equal elements. -/
theorem cmpVal_pick {ty : Nat} (h : FltTy ty) {y z : Nat} (hy : y < 2 ^ fltWidth ty) (hz : z < 2 ^ fltWidth ty)
    (ny : ¬fltNaN ty y = true) (nz : ¬fltNaN ty z = true) (isMax : Bool) :
    (if isMax then (if cmpVal true (fVal (tyFmt ty) y) (fVal (tyFmt ty) z) ≥ 0 then y else z)
      else (if cmpVal true (fVal (tyFmt ty) y) (fVal (tyFmt ty) z) ≤ 0 then y else z)) =
    if fltKey ty y ≤ fltKey ty z then (if !isMax then y else z) else (if !isMax then z else y) := by
  obtain ⟨hexp, hw, -, -⟩ := tyFmt_width h
  rw [fltNaN_iff h, not_lt] at ny nz
  obtain ⟨hle, hge⟩ := cmpVal_fKey (tyFmt_bits h).1 ny nz
  rw [hw, ← hexp] at hy hz
  simp only [fltKey_eq_fKey h, ge_iff_le, hle, hge]
  cases isMax with
  | false => simp
  | true =>
    rcases lt_trichotomy (fKey (tyFmt ty) y) (fKey (tyFmt ty) z) with hlt | heq | hgt
    · simp [hlt.le, not_le_of_gt hlt]
    · simp [fKey_inj hy hz heq]
    · simp [hgt.le, not_le_of_gt hgt]

theorem fMinMax_tyFmt {ty : Nat} (h : FltTy ty) (num : Prop) [Decidable num] (isMax : Bool) {y z : Nat} (hy : y < 2 ^ fltWidth ty)
    (hz : z < 2 ^ fltWidth ty) :
    fMinMax (tyFmt ty) isMax (decide num) y z = (fltPick ty num (!isMax) y z, if fltSig ty y || fltSig ty z then 1 else 0) := by
  obtain ⟨-, -, -, hc⟩ := tyFmt_bits h
  unfold fMinMax fltPick
  dsimp only
  rw [isNaN_tyFmt h, isNaN_tyFmt h, sigFlag_or h]
  by_cases ny : fltNaN ty y = true
  · by_cases nz : fltNaN ty z = true
    · simp [ny, nz, fNaN, hc]
    · by_cases hn : num <;> simp [ny, nz, fNaN, hc, hn]
  · by_cases nz : fltNaN ty z = true
    · by_cases hn : num <;> simp [ny, nz, fNaN, hc, hn]
    · have hb : ¬(fltNaN ty y && fltNaN ty z) = true := by simp [ny]
      rw [if_neg hb, if_neg ny, if_neg nz, if_neg hb, if_neg ny, if_neg nz, cmpVal_pick h hy hz ny nz]

/-- A lifted `fmin` or `fmax` picks element by element, and a signalling NaN alone raises a flag. -/
theorem fltGives_minMax {ty : Nat} (h : FltTy ty) (num : Prop) [Decidable num] (isMax : Bool) (a b c : Nat) :
    fltGives ty (fltPick ty num (!isMax)) (fun y z => fltSig ty y || fltSig ty z) a b
      (lift ty (fun x y _ => fMinMax (tyFmt ty) isMax (decide num) x y) a b c) :=
  fltGives_lift h (fun _ _ _ => fMinMax_tyFmt h num isMax) (fun _ _ => fltPick_lt h num (!isMax)) a b c

/-- Settles O19: element by element through the format that R27 lays out; values that are not NaN compare as sign and magnitude do. -/
theorem signAndMinMaxResults : Obligations.SignAndMinMaxResults := by
  unfold Obligations.SignAndMinMaxResults
  refine ⟨fun e he => ⟨?fabs, ?fneg, ?fsgn⟩, fun e he => ⟨?fmin, ?fmax⟩⟩
  case fabs => exact computes_of_alu (fun _ _ => rfl) (fun _ => rfl) (fabs_spec (fltTy_of_le he))
  case fneg => exact computes_of_alu (fun _ _ => rfl) (fun _ => rfl) (fneg_spec (fltTy_of_le he))
  case fsgn => exact computes_of_alu (fun _ _ => rfl) (fun _ => rfl) (fsgn_spec (fltTy_of_le he))
  case fmin => exact computes_of_alu (fun _ _ => rfl) (fun _ => rfl) (fltGives_minMax (fltTy_of_le he) (e.var.toNat % 2 = 1) false)
  case fmax => exact computes_of_alu (fun _ _ => rfl) (fun _ => rfl) (fltGives_minMax (fltTy_of_le he) (e.var.toNat % 2 = 1) true)

end Sys2Proof.Proofs.Thread
end
